-- ==== Sys2Proof/Word.lean ====
section
/-! DEFINITION. The word types of the HV-4 and the sorted association list that holds sparse data. -/

namespace Sys2Proof

/-- 8 bits (R5). -/
abbrev Byte := BitVec 8
/-- A word of R5: 32 bits. -/
abbrev W32 := BitVec 32
/-- A double of R5: 64 bits, the width of a general register (R82). -/
abbrev W64 := BitVec 64
/-- A general register number (R30). -/
abbrev Reg := BitVec 5
/-- A tile of one package: die in [9:8], ty in [7:4], tx in [3:0] (the low 10 bits of R10). -/
abbrev TileId := BitVec 10
/-- The sixteen 32-bit lanes of a fabric token or of a VE register (R13, R53). -/
abbrev Lanes := Vector W32 16

/-- Sixteen lanes written out from their values. -/
def lanesOf (f : Nat → W32) : Lanes :=
  #v[f 0, f 1, f 2, f 3, f 4, f 5, f 6, f 7, f 8, f 9, f 10, f 11, f 12, f 13, f 14, f 15]

/-- Lane `i`, zero outside 0 to 15. -/
def Lanes.at (l : Lanes) (i : Nat) : W32 := l.toArray.getD i 0

/-- Sparse data by number, in rising order of the number. -/
abbrev SMap (α : Type) := List (Nat × α)

/-- The entry of number `k`. -/
def SMap.get? {α : Type} : SMap α → Nat → Option α
  | [], _ => none
  | (j, x) :: m, k => if j = k then some x else SMap.get? m k

/-- The entry of number `k`, or `d`. -/
def SMap.getD {α : Type} (m : SMap α) (k : Nat) (d : α) : α := (SMap.get? m k).getD d

/-- Write entry `k`, keeping the rising order. -/
def SMap.put {α : Type} : SMap α → Nat → α → SMap α
  | [], k, x => [(k, x)]
  | (j, y) :: m, k, x =>
    if k < j then (k, x) :: (j, y) :: m
    else if k = j then (k, x) :: m
    else (j, y) :: SMap.put m k x

/-- Remove every entry of number `k`. -/
def SMap.del {α : Type} : SMap α → Nat → SMap α
  | [], _ => []
  | (j, y) :: m, k => if j = k then SMap.del m k else (j, y) :: SMap.del m k

/-- Change entry `k`, starting from `d` where it is absent. -/
def SMap.upd {α : Type} (m : SMap α) (k : Nat) (d : α) (f : α → α) : SMap α :=
  SMap.put m k (f (SMap.getD m k d))

/-- The keys stand in strictly rising order. -/
def SMap.rising {α : Type} : SMap α → Bool
  | [] => true
  | [_] => true
  | (j, _) :: (k, y) :: m => decide (j < k) && SMap.rising ((k, y) :: m)

end Sys2Proof
end

