-- ==== Sys2Proof/Syntax.lean ====
section
/-! DEFINITION. The syntax of the HV-4: fabric tokens as the events carry them, and ONE constructor of `Instr` per row of the
opcode table. The first 167 constructors are sequencer words (R29 to R44); the last 136 are the steps of the other agents (rows
without an encoding), whose arguments name the unit that steps and what the outside world supplies (log 1, log 13). -/

namespace Sys2Proof

/-- A fabric token: its header of R53, the epoch bit beside it (R165) and its sixteen lanes. -/
structure Tok where
  hdr   : W32
  ep    : Bool
  lanes : Lanes
  deriving DecidableEq, Repr

/-- A disturbance of one integer block sum of an MMA attempt (R219, R220): macro, row, K block, column, difference, and which of the attempts
show it: the first, the rerun. -/
structure Upset where
  mac : Nat
  m : Nat
  kb : Nat
  n : Nat
  delta : Int
  first : Bool
  again : Bool
  deriving DecidableEq, Repr

/-- Where a fire token comes from (R253): the feed port of a slot, or a token that waits at its source (a chain, a codec lane). -/
inductive FireSrc where
  | feed (slot : Nat)
  | waiting (ix : Nat)
  deriving DecidableEq, Repr

/-- The profiles that R271 names, and every other. -/
inductive Profile where
  | avcHigh | hevcMain | hevcMain10 | av1Main | other
  deriving DecidableEq, Repr

/-- What a sequence header says, as far as R271 looks at it. -/
structure SeqHead where
  profile : Profile
  depth : Nat              -- bits of a sample
  is420 : Bool
  fields : Bool            -- field coding or MBAFF
  largeScale : Bool        -- AV1 large-scale tile
  deriving DecidableEq, Repr

/-- What the headers of a picture say (R272, R273, R276). -/
structure PicHead where
  seq : SeqHead
  typ : Nat                -- 0 intra, 1 uni-predicted, 2 bi-predicted
  w4 : Nat                 -- the picture's size in cells
  h4 : Nat
  rowLg : Nat              -- log2 of the height in pixels of a macroblock, CTB or superblock row
  order : W32              -- the order count
  qp : Nat
  gone : List Nat          -- AVC, HEVC: slots whose pictures leave the buffer ahead of this picture
  refs : List (Option W32) -- AV1: the order hints of the ref_frame_idx entries, LAST_FRAME to ALTREF_FRAME
  keep : Bool              -- AVC, HEVC: this picture enters the buffer
  grain : List Byte        -- AV1: film_grain_params(), byte-aligned
  used : Nat               -- the offset of the first byte after the headers
  deriving DecidableEq, Repr

/-- The picture that a Sluice lane begins, and its headers. -/
structure PicStart where
  lane : Nat
  head : PicHead
  deriving DecidableEq, Repr

/-- What a syntax error loses (R277): the squares not parsed, and the row in which the parse resumes. -/
structure LostArea where
  squares : List (Nat × Nat)
  row : Nat
  deriving DecidableEq, Repr

/-- A sequence header, and the offset of the first byte after its picture (R271). -/
structure PicSkip where
  seq : SeqHead
  used : Nat
  deriving DecidableEq, Repr

/-- An access of a die's ring (R302), lost or not (R303). -/
structure RingAccess where
  die : Nat
  lost : Bool
  deriving DecidableEq, Repr

/-- A LAUNCH at a conduit: its die, and the launch set that it is a part of, with the number of that set's parts (R334). -/
structure LaunchTurn where
  die : Nat
  set : Option (Nat × Nat)
  deriving DecidableEq, Repr

/-- A fault token by its place, and the 64-byte writes of its record, by number, that are lost or meet an uncorrectable error (R362, R364). -/
structure TokHop where
  ix : Nat
  lost : List Nat
  deriving DecidableEq, Repr

/-- The signatures of an image and the public keys that they are by (R389). -/
structure Signed where
  ecKey  : List Byte
  ecSig  : List Byte
  hssKey : List Byte
  hssSig : List Byte
  deriving DecidableEq, Repr

/-- The images of a start-up beside the firmware (R389): those of the conduits and the root-core microprograms, as bytes with their
signatures, and the entry that they give the root cores, if they do (R375). -/
structure Images where
  others : List (List Byte × Signed)
  entry : Option W64
  deriving DecidableEq, Repr

/-- A vector and its reference, as the bitstream gives them: components in the codec's own units, and a slot where the reference has one. -/
structure Vect where
  x : Int
  y : Int
  slot : Option Nat
  deriving DecidableEq, Repr

/-- The directions of the intra modes that AVC and AV1 name (R273). -/
inductive IntraDir where
  | vertical | horizontal | downLeft | downRight | verticalRight | horizontalDown | verticalLeft | horizontalUp
  deriving DecidableEq, Repr

/-- An intra mode as each standard names it (R273). -/
inductive IntraMode where
  | avcDc | avcPlane | avcDir (d : IntraDir)
  | hevc (n : Nat)
  | av1Dc | av1Cfl | av1Smooth | av1SmoothV | av1SmoothH | av1Paeth | av1Dir (d : IntraDir) (delta : Int)
  deriving DecidableEq, Repr

/-- How a standard codes an inter leaf (R273): AVC's P_Skip, B_Skip and direct, or other; HEVC's merge, with a residual or without, or other;
AV1's skip_mode and skip. -/
inductive InterMode where
  | avc (skip : Bool)
  | hevc | hevcMerge (residual : Bool)
  | av1 (skipMode skip : Bool)
  deriving DecidableEq, Repr

/-- How a leaf is predicted (R273): an intra mode; vectors of list 0 and list 1; or an intra block copy. -/
inductive Pred where
  | intra (m : IntraMode)
  | inter (m : InterMode) (l0 l1 : Option Vect)
  | copy (x y : Int)
  deriving DecidableEq, Repr

/-- The coding block of a leaf in one plane (R274): its size there, whether every transform block is 4 × 4, and its quantised levels in
raster order. -/
structure Block where
  w : Nat
  h : Nat
  small : Bool
  lv : List Int
  deriving DecidableEq, Repr

/-- One luma leaf as the bitstream gives it (its quantiser as QP, for AV1 as base_q_idx), with the chroma leaves that follow it where the binding asks for them (R272 to R275): its place
and size, its prediction and quantiser, whether it is the last of its coding block, the coding block in each plane, whether a row ends behind
it, and the offset of the first unread byte after it. -/
structure LeafData where
  x4 : Nat
  y4 : Nat
  lw : Nat
  lh : Nat
  pred : Pred
  qp : Nat
  last : Bool
  blocks : List Block
  rowEnd : Bool
  used : Nat
  deriving DecidableEq, Repr

/-- A block that a Spout codes (R288): its place and size in cells, its mode, its reference slot and vector, and its levels by position. -/
structure CodedBlock where
  x4 : Nat
  y4 : Nat
  lw : Nat
  mode : Nat
  slot : Nat
  x : Int
  y : Int
  levels : List (Nat × Int)
  deriving DecidableEq, Repr

/-- Where an error of the configuration store strikes (R365): a plane (the active one, or the shadow) or a rill slot. -/
inductive EccWhere where
  | plane (shadow : Bool) (site : Nat)
  | rill (slot : Nat)
  deriving DecidableEq, Repr

/-- One constructor per row of the opcode table. -/
inductive Instr where
  | add (d : Reg) (a : Reg) (b : Reg)   -- R89
  | sub (d : Reg) (a : Reg) (b : Reg)   -- R89
  | and (d : Reg) (a : Reg) (b : Reg)   -- R89
  | or (d : Reg) (a : Reg) (b : Reg)   -- R89
  | xor (d : Reg) (a : Reg) (b : Reg)   -- R89
  | andn (d : Reg) (a : Reg) (b : Reg)   -- R89
  | shl (d : Reg) (a : Reg) (b : Reg)   -- R89
  | shr (d : Reg) (a : Reg) (b : Reg)   -- R89
  | sra (d : Reg) (a : Reg) (b : Reg)   -- R89
  | rol (d : Reg) (a : Reg) (b : Reg)   -- R89
  | min (d : Reg) (a : Reg) (b : Reg)   -- R89
  | max (d : Reg) (a : Reg) (b : Reg)   -- R89
  | minn (d : Reg) (a : Reg) (b : Reg)   -- R89
  | maxn (d : Reg) (a : Reg) (b : Reg)   -- R89
  | seq (d : Reg) (a : Reg) (b : Reg)   -- R89
  | sne (d : Reg) (a : Reg) (b : Reg)   -- R89
  | slt (d : Reg) (a : Reg) (b : Reg)   -- R89
  | sltn (d : Reg) (a : Reg) (b : Reg)   -- R89
  | clz (d : Reg) (a : Reg)   -- R89
  | ctz (d : Reg) (a : Reg)   -- R89
  | popc (d : Reg) (a : Reg)   -- R89
  | mul (d : Reg) (a : Reg) (b : Reg)   -- R89
  | mulh (d : Reg) (a : Reg) (b : Reg)   -- R89
  | mulhn (d : Reg) (a : Reg) (b : Reg)   -- R89
  | div (d : Reg) (a : Reg) (b : Reg)   -- R90
  | divn (d : Reg) (a : Reg) (b : Reg)   -- R90
  | rem (d : Reg) (a : Reg) (b : Reg)   -- R90
  | remn (d : Reg) (a : Reg) (b : Reg)   -- R90
  | jalr (d : Reg) (a : Reg)   -- R96
  | pause   -- R102
  | shli (d : Reg) (a : Reg) (s : BitVec 6)   -- R91
  | shri (d : Reg) (a : Reg) (s : BitVec 6)   -- R91
  | srai (d : Reg) (a : Reg) (s : BitVec 6)   -- R91
  | addi (d : Reg) (a : Reg) (i : BitVec 16)   -- R92
  | andi (d : Reg) (a : Reg) (i : BitVec 16)   -- R92
  | ori (d : Reg) (a : Reg) (i : BitVec 16)   -- R92
  | xori (d : Reg) (a : Reg) (i : BitVec 16)   -- R92
  | slti (d : Reg) (a : Reg) (i : BitVec 16)   -- R92
  | lui (d : Reg) (i : BitVec 16)   -- R93
  | addpc (d : Reg) (i : BitVec 16)   -- R93
  | loopi (d : Reg) (l : BitVec 16)   -- R97
  | beq (a : Reg) (b : Reg) (o : BitVec 16)   -- R94
  | bne (a : Reg) (b : Reg) (o : BitVec 16)   -- R94
  | blt (a : Reg) (b : Reg) (o : BitVec 16)   -- R94
  | bge (a : Reg) (b : Reg) (o : BitVec 16)   -- R94
  | bltn (a : Reg) (b : Reg) (o : BitVec 16)   -- R94
  | bgen (a : Reg) (b : Reg) (o : BitVec 16)   -- R94
  | j (o : BitVec 26)   -- R95
  | jal (o : BitVec 26)   -- R95
  | ldB (d : Reg) (a : Reg) (o : BitVec 12)   -- R116
  | ldH (d : Reg) (a : Reg) (o : BitVec 12)   -- R116
  | ldW (d : Reg) (a : Reg) (o : BitVec 12)   -- R116
  | ldD (d : Reg) (a : Reg) (o : BitVec 12)   -- R116
  | ldBn (d : Reg) (a : Reg) (o : BitVec 12)   -- R116
  | ldHn (d : Reg) (a : Reg) (o : BitVec 12)   -- R116
  | ldWn (d : Reg) (a : Reg) (o : BitVec 12)   -- R116
  | stB (d : Reg) (a : Reg) (o : BitVec 12)   -- R116
  | stH (d : Reg) (a : Reg) (o : BitVec 12)   -- R116
  | stW (d : Reg) (a : Reg) (o : BitVec 12)   -- R116
  | stD (d : Reg) (a : Reg) (o : BitVec 12)   -- R116
  | ldsB (d : Reg) (a : Reg) (o : BitVec 12)   -- R121
  | ldsH (d : Reg) (a : Reg) (o : BitVec 12)   -- R121
  | ldsW (d : Reg) (a : Reg) (o : BitVec 12)   -- R121
  | ldsD (d : Reg) (a : Reg) (o : BitVec 12)   -- R121
  | ldsBn (d : Reg) (a : Reg) (o : BitVec 12)   -- R121
  | ldsHn (d : Reg) (a : Reg) (o : BitVec 12)   -- R121
  | ldsWn (d : Reg) (a : Reg) (o : BitVec 12)   -- R121
  | stsB (d : Reg) (a : Reg) (o : BitVec 12)   -- R121
  | stsH (d : Reg) (a : Reg) (o : BitVec 12)   -- R121
  | stsW (d : Reg) (a : Reg) (o : BitVec 12)   -- R121
  | stsD (d : Reg) (a : Reg) (o : BitVec 12)   -- R121
  | pref (h : BitVec 5) (a : Reg) (o : BitVec 16)   -- R124
  | tlook (d : Reg) (a : Reg)   -- R127
  | tins (d : Reg) (a : Reg) (b : Reg)   -- R127
  | tinv (d : Reg) (a : Reg)   -- R127
  | ord (o : BitVec 3) (s : BitVec 2)   -- R40
  | fence (o : BitVec 3) (s : BitVec 2)   -- R135
  | amoAdd (d : Reg) (a : Reg) (b : Reg) (z : BitVec 1)   -- R139
  | amoAnd (d : Reg) (a : Reg) (b : Reg) (z : BitVec 1)   -- R139
  | amoOr (d : Reg) (a : Reg) (b : Reg) (z : BitVec 1)   -- R139
  | amoXor (d : Reg) (a : Reg) (b : Reg) (z : BitVec 1)   -- R139
  | amoMin (d : Reg) (a : Reg) (b : Reg) (z : BitVec 1)   -- R139
  | amoMax (d : Reg) (a : Reg) (b : Reg) (z : BitVec 1)   -- R139
  | amoMinn (d : Reg) (a : Reg) (b : Reg) (z : BitVec 1)   -- R139
  | amoMaxn (d : Reg) (a : Reg) (b : Reg) (z : BitVec 1)   -- R139
  | amoSwp (d : Reg) (a : Reg) (b : Reg) (z : BitVec 1)   -- R139
  | amoFadd (d : Reg) (a : Reg) (b : Reg)   -- R139
  | casW (d : Reg) (a : Reg) (b : Reg)   -- R140
  | casD (d : Reg) (a : Reg) (b : Reg)   -- R140
  | woclr (d : Reg) (a : Reg) (b : Reg)   -- R145
  | wotest (d : Reg) (a : Reg)   -- R146
  | cfgld (d : Reg) (a : Reg)   -- R173
  | cfggo   -- R174
  | cfggoS   -- R174
  | cfgwaitLd (d : Reg)   -- R175
  | cfgwaitGo (d : Reg)   -- R175
  | cfgsigA (d : Reg)   -- R173
  | cfgsigSh (d : Reg)   -- R173
  | cfgsave (d : Reg) (a : Reg)   -- R176
  | cfgrest (d : Reg) (a : Reg)   -- R373
  | strm (d : Reg) (a : Reg) (n : BitVec 6)   -- R177
  | pws (a : Reg) (b : Reg) (n : BitVec 6)   -- R178
  | pwv (a : Reg) (b : Reg) (n : BitVec 6)   -- R178
  | prd (d : Reg) (a : Reg) (n : BitVec 6)   -- R179
  | mki (a : Reg) (n : BitVec 6)   -- R178
  | drain (d : Reg)   -- R183
  | pstat (d : Reg) (b : Reg) (n : BitVec 6)   -- R180
  | accz (n : BitVec 5)   -- R181
  | accrd (d : Reg) (a : Reg) (n : BitVec 5)   -- R181
  | bktokTake (d : Reg) (a : Reg)   -- R182
  | bktokGive (d : Reg) (a : Reg)   -- R182
  | bktokQuery (d : Reg) (a : Reg)   -- R182
  | mtok (d : Reg) (a : Reg) (n : BitVec 6)   -- R224
  | mbld (d : Reg) (a : Reg) (b : Reg)   -- R225
  | mstat (d : Reg) (s : BitVec 3)   -- R226
  | mwait (m : BitVec 4)   -- R227
  | rload (d : Reg) (a : Reg) (s : BitVec 2)   -- R243
  | rsel (d : Reg) (a : Reg) (p : BitVec 2)   -- R244
  | rstat (d : Reg) (s : BitVec 3)   -- R247
  | rfree (d : Reg) (m : BitVec 4)   -- R246
  | cparm (d : Reg) (a : Reg) (s : BitVec 6)   -- R264
  | cpfire (d : Reg) (a : Reg) (b : Reg)   -- R265
  | cpstat (d : Reg) (a : Reg) (s : BitVec 6)   -- R266
  | cpres (d : Reg) (s : BitVec 6)   -- R267
  | cpkill (d : Reg) (s : BitVec 6)   -- R267
  | tbinit (d : Reg) (a : Reg) (b : Reg) (c : BitVec 2)   -- R268
  | tbarr (d : Reg) (a : Reg) (b : Reg) (c : BitVec 2)   -- R268
  | tbexp (d : Reg) (a : Reg) (b : Reg) (c : BitVec 2)   -- R268
  | tbwait (d : Reg) (a : Reg) (b : Reg) (c : BitVec 2)   -- R269
  | tbtest (d : Reg) (a : Reg) (c : BitVec 2)   -- R268
  | slbind (d : Reg) (a : Reg) (n : BitVec 4)   -- R292
  | slstat (d : Reg) (a : Reg) (n : BitVec 4)   -- R296
  | slrel (d : Reg) (n : BitVec 4)   -- R293
  | warpset (d : Reg) (a : Reg)   -- R297
  | spbind (d : Reg) (a : Reg) (n : BitVec 4)   -- R292
  | sphdr (d : Reg) (a : Reg) (n : BitVec 4)   -- R294
  | spstat (d : Reg) (a : Reg) (n : BitVec 4)   -- R296
  | wpush (d : Reg) (a : Reg) (c : BitVec 2)   -- R319
  | wpop (d : Reg) (a : Reg) (c : BitVec 2)   -- R320
  | wtry (d : Reg) (a : Reg) (c : BitVec 2)   -- R320
  | wdone (d : Reg) (b : Reg) (c : BitVec 2)   -- R321
  | wdoneF (d : Reg) (b : Reg) (c : BitVec 2)   -- R321
  | wpromo (d : Reg) (a : Reg) (b : Reg)   -- R322
  | wfloor (d : Reg)   -- R323
  | wfloorR (d : Reg)   -- R323
  | wdomJoin (d : Reg) (a : Reg)   -- R324
  | wdomLeave (d : Reg)   -- R324
  | wdomQuery (d : Reg)   -- R324
  | wstat (d : Reg) (a : Reg)   -- R325
  | wdrain (d : Reg) (c : BitVec 2)   -- R326
  | gjoin (d : Reg) (a : Reg)   -- R350
  | gleave (d : Reg)   -- R350
  | gbar (d : Reg) (c : BitVec 2)   -- R351
  | gsize (d : Reg)   -- R352
  | segend (d : Reg)   -- R353
  | park (d : Reg) (a : Reg)   -- R354
  | ctract (d : Reg) (s : BitVec 2)   -- R355
  | trap (a : Reg)   -- R374
  | sysc (d : Reg) (a : Reg)   -- R370
  | halt   -- R374
  | eret   -- R360
  | invr (a : Reg) (b : Reg)   -- R374
  | inva (a : Reg)   -- R374
  | csrr (d : Reg) (c : BitVec 12)   -- R101
  | csrw (d : Reg) (a : Reg) (c : BitVec 12)   -- R101
  | csrs (d : Reg) (a : Reg) (c : BitVec 12)   -- R101
  | csrc (d : Reg) (a : Reg) (c : BitVec 12)   -- R101
  | woclrSectorStep (t : TileId)   -- R145
  | bktokGrant (t : TileId)   -- R157
  | tbwaitTimeout (t : TileId)   -- R269
  | gbarEpisodeComplete (h : Nat) (grp : BitVec 3)   -- R351
  | syscAnswer (t : TileId)   -- R370
  | waitingWordComplete (t : TileId)   -- R172
  | asyncTrap (t : TileId)   -- R357
  | veDataFiring (t : TileId) (site : Nat)   -- R153
  | veMarkerFiring (t : TileId) (site : Nat)   -- R154
  | veRankDiscard (t : TileId) (site : Nat)   -- R192
  | isectCompare (t : TileId) (site : Nat)   -- R193
  | veFiringResult (t : TileId) (site : Nat)   -- R151
  | linkTokenMove (t : TileId) (site li : Nat)   -- R159
  | ringRefill (t : TileId) (site li : Nat)   -- R160
  | creditReturn (t : TileId) (buf : Nat)   -- R159
  | cutEdgeWindowGrant (t : TileId) (site li : Nat)   -- R161
  | routerIngress (t : TileId)   -- R54
  | seRamRead (t : TileId) (site : Nat)   -- R156
  | seRamWrite (t : TileId) (site : Nat)   -- R156
  | seFifoPass (t : TileId) (site : Nat)   -- R156
  | seLutLookup (t : TileId) (site : Nat)   -- R156
  | warpStoreSetup (t : TileId) (site : Nat)   -- R279
  | warpStoreFill (t : TileId) (site : Nat)   -- R280
  | warpStoreRequest (t : TileId) (site : Nat)   -- R281
  | warpStoreMarker (t : TileId) (site : Nat)   -- R281
  | configTokenArrive (t : TileId) (site : Nat)   -- R165
  | siteSwap (t : TileId) (site : Nat)   -- R165
  | planeDrained (t : TileId)   -- R167
  | streamLoaderRead (t : TileId) (vp : Nat)   -- R170
  | streamLoadInject (t : TileId) (vp : Nat)   -- R170
  | streamStore (t : TileId) (vp : Nat)   -- R170
  | qwcFault (h : Nat)   -- R171
  | watchdogFault (h : Nat)   -- R348
  | mma (t : TileId) (upsets : List Upset)   -- R212
  | mmac (t : TileId) (upsets : List Upset)   -- R213
  | bld (t : TileId)   -- R214
  | bswp (t : TileId)   -- R215
  | drn (t : TileId)   -- R216
  | clr (t : TileId)   -- R217
  | chk (t : TileId)   -- R218
  | matrixTokenComplete (t : TileId)   -- R211
  | rillVectorStart (t : TileId)   -- R238
  | rillOutputInject (t : TileId)   -- R239
  | rillMarker (t : TileId)   -- R240
  | fireTokenEnqueue (die : Nat) (src : FireSrc)   -- R253
  | copyFiringStart (die slot : Nat)   -- R253
  | copyMarker (die slot : Nat)   -- R253
  | copyReadIssue (die slot piece : Nat)   -- R257
  | copyPiecePerformed (die slot piece : Nat)   -- R258
  | barrierUpdate (ix : Nat)   -- R262
  | copyFiringComplete (die slot : Nat)   -- R258
  | copyFault (die slot piece : Nat)   -- R260
  | copyKillDrained (die slot : Nat)   -- R267
  | sluicePictureStart (die : Nat) (pic : PicStart)   -- R272
  | sluiceLeaf (die lane : Nat) (leaf : LeafData)   -- R272
  | sluicePictureEnd (die lane : Nat) (used : Nat)   -- R272
  | sluiceStreamEnd (die lane : Nat)   -- R272
  | sluiceSyntaxError (die lane used : Nat) (area : LostArea)   -- R277
  | sluiceUnsupportedSkip (die lane : Nat) (skip : PicSkip)   -- R271
  | laneFault (die lane : Nat) (spout perm : Bool) (va : W64)   -- R295
  | spoutPictureStart (die lane : Nat)   -- R287
  | spoutLeaf (die lane : Nat) (whole : Bool)   -- R288
  | spoutPictureComplete (die lane : Nat) (merged skipped : List Nat)   -- R290
  | spoutEnd (die lane : Nat)   -- R287
  | floorLowMessage (dom : Nat)   -- R306
  | lowAck (dom die : Nat)   -- R306
  | setfApply (dom die : Nat)   -- R306
  | floorRoundStart (dom : Nat)   -- R309
  | floorQuery (dom die : Nat)   -- R307
  | floorReply (dom die : Nat)   -- R307
  | balanceRequest (dom die other : Nat)   -- R310
  | balanceAnswer (dom die other : Nat)   -- R310
  | pipMoveArrive (dom ix : Nat)   -- R308
  | terminationPass (dom : Nat)   -- R312
  | spillRefill (dom : Nat) (acc : RingAccess)   -- R302
  | notifyStore (q : BitVec 12) (head : BitVec 2)   -- R329
  | scannerStep   -- R330
  | queueFetch (die : Nat)   -- R379
  | launch (turn : LaunchTurn)   -- R333, R334
  | regionPlace (h : Nat)   -- R333
  | bind (die : Nat)   -- R335
  | seed (die : Nat)   -- R380
  | contract (die : Nat)   -- R343
  | preempt (die : Nat)   -- R20
  | abort (die : Nat)   -- R363
  | replyResume (die : Nat)   -- R362
  | replyAbort (die : Nat)   -- R362
  | checkpoint (die : Nat)   -- R391
  | checkpointDone (fault : Bool)   -- R391
  | paramAtbase (die : Nat)   -- R367
  | paramRemoteBound (die : Nat)   -- R340
  | paramPowerCap (die : Nat)   -- R390
  | paramJournal (die : Nat)   -- R385
  | regionRetire (h : Nat)   -- R16
  | savePoint (h : Nat)   -- R339
  | regionRestore (h : Nat)   -- R373
  | contractPeriodStart (h : Nat)   -- R343
  | contractBudgetExhausted (h : Nat)   -- R345
  | homeAccessPerform (id : Nat)   -- R131
  | atomicPerform (id : Nat)   -- R137
  | memoryResponse (id : Nat) (err : Bool)   -- R117
  | storeAcknowledge (id : Nat)   -- R117
  | remoteRequestLost (id : Nat)   -- R340
  | translationWalk (id : Nat) (cached : Bool)   -- R367
  | walkComplete (id : Nat) (victim : Nat)   -- R368
  | invalidationReceive (id : Nat) (holder : Nat)   -- R369
  | invalidationAck (id : Nat) (holder : Nat)   -- R369
  | faultTokenRoute (hop : TokHop)   -- R362
  | rootRequest (die : Nat)   -- R375
  | configStoreEccError (t : TileId) (what : EccWhere) (correctable : Bool)   -- R365
  | configStoreReloadDone (t : TileId)   -- R365
  | counterClearStore (pa : Nat)   -- R366
  | claimRegisterStore (head : BitVec 2) (value : W64)   -- R386
  | featureNegotiation (head : BitVec 2) (value : W64)   -- R387
  | registerWrite (head : BitVec 2) (off : Nat) (value : W64)   -- R378
  | hostMemoryRequest (head : BitVec 2) (pa : Nat) (data : Option (List Byte)) (n : Nat)   -- R377
  | headLinkDown (head : BitVec 2)   -- R384
  | headLinkUp (head : BitVec 2)   -- R384
  | herranFlitReceive (port : Nat) (flit : List Byte)   -- R388
  | herranFlitReplay (port : Nat) (flit : List Byte)   -- R388
  | herranPortDown (port : Nat)   -- R388
  | startup (fw : Signed) (images : Images)   -- R389
  | pldmSensors   -- R392
  | pldmFirmwareUpdate (image : List W64)   -- R392
  | spdmGetMeasurements   -- R389
  | mgmtReset   -- R392
  | mgmtRecovery   -- R392
  | mgmtReadCounters (block double : Nat)   -- R392
  | mgmtSetPackageNumber (n : BitVec 12)   -- R392
  | illegalInstruction (t : TileId)   -- R44
  | instructionFetchFault (t : TileId)   -- R358
  | islandCycle (island : Nat)   -- R86
  | governorClockChange (island mhz : Nat)   -- R25
  | planeSoftError (t : TileId) (mac : Nat) (k n : Nat) (delta : Int)   -- R218
  | moveVisibleReport (dom ix : Nat)   -- R308
  | setfApplied (dom : Nat)   -- R307
  deriving DecidableEq, Repr

end Sys2Proof
end

