-- ==== Sys2Proof/WellFormed.lean ====
section
/-! DEFINITION. Which instructions are well-formed: the sequencer words whose operands R35 to R44 allow. -/

namespace Sys2Proof

/-- The CSR numbers that the map of R84 assigns at some level. -/
def csrAssigned (c : BitVec 12) : Bool :=
  [0x000, 0x001, 0x010, 0x011, 0x020, 0x021, 0x022, 0x023, 0x024, 0x025, 0x026, 0x030, 0x040, 0x041, 0x042, 0x043,
   0x044, 0x045, 0x050, 0x051, 0x060, 0x061].contains c.toNat

/-- An operand value the spec makes illegal: LOOPI with 0 words (R35), a PREF hint above 3 (R38), an order code above 4 or a
FENCE of order 0 (R39), an unassigned CSR (R36), a selector or part that is not listed (R223, R242). -/
def Instr.wellFormed : Instr → Bool
  | .loopi _ l => l != 0
  | .pref h _ _ => h.toNat ≤ 3
  | .ord o _ => o.toNat ≤ 4
  | .fence o _ => 1 ≤ o.toNat && o.toNat ≤ 4
  | .csrr _ c => csrAssigned c
  | .csrw _ _ c => csrAssigned c
  | .csrs _ _ c => csrAssigned c
  | .csrc _ _ c => csrAssigned c
  | .mstat _ s => s.toNat ≤ 5
  | .rstat _ s => s != 3
  | .rsel _ _ p => p.toNat ≤ 2
  | .rfree _ m => m != 0
  | _ => true

end Sys2Proof
end

