-- ==== Sys2Proof/Decode.lean ====
section
/-! DEFINITION. From the 32 bits of a sequencer word to an instruction (R29 to R44), total, every refusal by name; and the encoder,
written from the same tables. `decode` reads the five fields of R29 once (`Fields.of`); `decodeFields` is the opcode map. -/

namespace Sys2Proof

/-- The fields of R29: op [31:26], d [25:21], a [20:16], b [15:11], fn [10:0]. -/
structure Fields where
  op : BitVec 6
  d  : BitVec 5
  a  : BitVec 5
  b  : BitVec 5
  fn : BitVec 11
  deriving DecidableEq, Repr

/-- The fields of a word. -/
def Fields.of (w : W32) : Fields :=
  ⟨w.extractLsb' 26 6, w.extractLsb' 21 5, w.extractLsb' 16 5, w.extractLsb' 11 5, w.extractLsb' 0 11⟩

/-- The word of the fields. -/
def Fields.pack (f : Fields) : W32 := f.op ++ f.d ++ f.a ++ f.b ++ f.fn

/-- Why a word is not an instruction (R44). -/
inductive DecodeError where
  /-- A major opcode that R33 reserves. -/
  | reservedMajor
  /-- A function code or selector that R34 to R42 leave unallocated. -/
  | unallocated
  /-- A 1 in a field or bit that must be zero (R43), or a unit value that is not listed. -/
  | mustBeZero
  /-- An operand value the instruction's entry makes illegal (R35, R36, R38, R39, R223, R242). -/
  | badOperand
  /-- Fewer than four bytes. -/
  | truncated
  deriving DecidableEq, Repr

/-- Major 0x01. -/
def decodeMajor01 (f : Fields) : Except DecodeError Instr :=
  if (f.fn.extractLsb' 6 5) = 0#5 ∧ (f.fn.extractLsb' 0 6) = 0#6 then .ok (.add f.d f.a f.b)
  else
  if (f.fn.extractLsb' 6 5) = 0#5 ∧ (f.fn.extractLsb' 0 6) = 1#6 then .ok (.sub f.d f.a f.b)
  else
  if (f.fn.extractLsb' 6 5) = 0#5 ∧ (f.fn.extractLsb' 0 6) = 2#6 then .ok (.and f.d f.a f.b)
  else
  if (f.fn.extractLsb' 6 5) = 0#5 ∧ (f.fn.extractLsb' 0 6) = 3#6 then .ok (.or f.d f.a f.b)
  else
  if (f.fn.extractLsb' 6 5) = 0#5 ∧ (f.fn.extractLsb' 0 6) = 4#6 then .ok (.xor f.d f.a f.b)
  else
  if (f.fn.extractLsb' 6 5) = 0#5 ∧ (f.fn.extractLsb' 0 6) = 5#6 then .ok (.andn f.d f.a f.b)
  else
  if (f.fn.extractLsb' 6 5) = 0#5 ∧ (f.fn.extractLsb' 0 6) = 6#6 then .ok (.shl f.d f.a f.b)
  else
  if (f.fn.extractLsb' 6 5) = 0#5 ∧ (f.fn.extractLsb' 0 6) = 7#6 then .ok (.shr f.d f.a f.b)
  else
  if (f.fn.extractLsb' 6 5) = 0#5 ∧ (f.fn.extractLsb' 0 6) = 8#6 then .ok (.sra f.d f.a f.b)
  else
  if (f.fn.extractLsb' 6 5) = 0#5 ∧ (f.fn.extractLsb' 0 6) = 9#6 then .ok (.rol f.d f.a f.b)
  else
  if (f.fn.extractLsb' 6 5) = 0#5 ∧ (f.fn.extractLsb' 0 6) = 10#6 then .ok (.min f.d f.a f.b)
  else
  if (f.fn.extractLsb' 6 5) = 0#5 ∧ (f.fn.extractLsb' 0 6) = 11#6 then .ok (.max f.d f.a f.b)
  else
  if (f.fn.extractLsb' 6 5) = 0#5 ∧ (f.fn.extractLsb' 0 6) = 12#6 then .ok (.minn f.d f.a f.b)
  else
  if (f.fn.extractLsb' 6 5) = 0#5 ∧ (f.fn.extractLsb' 0 6) = 13#6 then .ok (.maxn f.d f.a f.b)
  else
  if (f.fn.extractLsb' 6 5) = 0#5 ∧ (f.fn.extractLsb' 0 6) = 14#6 then .ok (.seq f.d f.a f.b)
  else
  if (f.fn.extractLsb' 6 5) = 0#5 ∧ (f.fn.extractLsb' 0 6) = 15#6 then .ok (.sne f.d f.a f.b)
  else
  if (f.fn.extractLsb' 6 5) = 0#5 ∧ (f.fn.extractLsb' 0 6) = 16#6 then .ok (.slt f.d f.a f.b)
  else
  if (f.fn.extractLsb' 6 5) = 0#5 ∧ (f.fn.extractLsb' 0 6) = 17#6 then .ok (.sltn f.d f.a f.b)
  else
  if (f.fn.extractLsb' 6 5) = 0#5 ∧ (f.fn.extractLsb' 0 6) = 18#6 then (if f.b = 0#5 then .ok (.clz f.d f.a) else .error .mustBeZero)
  else
  if (f.fn.extractLsb' 6 5) = 0#5 ∧ (f.fn.extractLsb' 0 6) = 19#6 then (if f.b = 0#5 then .ok (.ctz f.d f.a) else .error .mustBeZero)
  else
  if (f.fn.extractLsb' 6 5) = 0#5 ∧ (f.fn.extractLsb' 0 6) = 20#6 then (if f.b = 0#5 then .ok (.popc f.d f.a) else .error .mustBeZero)
  else
  if (f.fn.extractLsb' 6 5) = 0#5 ∧ (f.fn.extractLsb' 0 6) = 24#6 then .ok (.mul f.d f.a f.b)
  else
  if (f.fn.extractLsb' 6 5) = 0#5 ∧ (f.fn.extractLsb' 0 6) = 25#6 then .ok (.mulh f.d f.a f.b)
  else
  if (f.fn.extractLsb' 6 5) = 0#5 ∧ (f.fn.extractLsb' 0 6) = 26#6 then .ok (.mulhn f.d f.a f.b)
  else
  if (f.fn.extractLsb' 6 5) = 0#5 ∧ (f.fn.extractLsb' 0 6) = 27#6 then .ok (.div f.d f.a f.b)
  else
  if (f.fn.extractLsb' 6 5) = 0#5 ∧ (f.fn.extractLsb' 0 6) = 28#6 then .ok (.divn f.d f.a f.b)
  else
  if (f.fn.extractLsb' 6 5) = 0#5 ∧ (f.fn.extractLsb' 0 6) = 29#6 then .ok (.rem f.d f.a f.b)
  else
  if (f.fn.extractLsb' 6 5) = 0#5 ∧ (f.fn.extractLsb' 0 6) = 30#6 then .ok (.remn f.d f.a f.b)
  else
  if (f.fn.extractLsb' 6 5) = 0#5 ∧ (f.fn.extractLsb' 0 6) = 32#6 then (if f.b = 0#5 then .ok (.jalr f.d f.a) else .error .mustBeZero)
  else
  if (f.fn.extractLsb' 6 5) = 0#5 ∧ (f.fn.extractLsb' 0 6) = 33#6 then (if f.d = 0#5 ∧ f.a = 0#5 ∧ f.b = 0#5 then .ok .pause else .error .mustBeZero)
  else
  if (f.fn.extractLsb' 6 5) = 1#5 then (if f.b = 0#5 then .ok (.shli f.d f.a (f.fn.extractLsb' 0 6)) else .error .mustBeZero)
  else
  if (f.fn.extractLsb' 6 5) = 2#5 then (if f.b = 0#5 then .ok (.shri f.d f.a (f.fn.extractLsb' 0 6)) else .error .mustBeZero)
  else
  if (f.fn.extractLsb' 6 5) = 3#5 then (if f.b = 0#5 then .ok (.srai f.d f.a (f.fn.extractLsb' 0 6)) else .error .mustBeZero)
  else
    .error .unallocated

/-- Major 0x02. -/
def decodeMajor02 (f : Fields) : Except DecodeError Instr :=
  .ok (.addi f.d f.a (f.b ++ f.fn))

/-- Major 0x03. -/
def decodeMajor03 (f : Fields) : Except DecodeError Instr :=
  .ok (.andi f.d f.a (f.b ++ f.fn))

/-- Major 0x04. -/
def decodeMajor04 (f : Fields) : Except DecodeError Instr :=
  .ok (.ori f.d f.a (f.b ++ f.fn))

/-- Major 0x05. -/
def decodeMajor05 (f : Fields) : Except DecodeError Instr :=
  .ok (.xori f.d f.a (f.b ++ f.fn))

/-- Major 0x06. -/
def decodeMajor06 (f : Fields) : Except DecodeError Instr :=
  .ok (.slti f.d f.a (f.b ++ f.fn))

/-- Major 0x07. -/
def decodeMajor07 (f : Fields) : Except DecodeError Instr :=
  if f.a = 0#5 then .ok (.lui f.d (f.b ++ f.fn))
  else
  if f.a = 1#5 then .ok (.addpc f.d (f.b ++ f.fn))
  else
  if f.a = 2#5 then (if f.b ++ f.fn ≠ 0 then .ok (.loopi f.d (f.b ++ f.fn)) else .error .badOperand)
  else
    .error .unallocated

/-- Major 0x08. -/
def decodeMajor08 (f : Fields) : Except DecodeError Instr :=
  .ok (.beq f.d f.a (f.b ++ f.fn))

/-- Major 0x09. -/
def decodeMajor09 (f : Fields) : Except DecodeError Instr :=
  .ok (.bne f.d f.a (f.b ++ f.fn))

/-- Major 0x0A. -/
def decodeMajor0A (f : Fields) : Except DecodeError Instr :=
  .ok (.blt f.d f.a (f.b ++ f.fn))

/-- Major 0x0B. -/
def decodeMajor0B (f : Fields) : Except DecodeError Instr :=
  .ok (.bge f.d f.a (f.b ++ f.fn))

/-- Major 0x0C. -/
def decodeMajor0C (f : Fields) : Except DecodeError Instr :=
  .ok (.bltn f.d f.a (f.b ++ f.fn))

/-- Major 0x0D. -/
def decodeMajor0D (f : Fields) : Except DecodeError Instr :=
  .ok (.bgen f.d f.a (f.b ++ f.fn))

/-- Major 0x0E. -/
def decodeMajor0E (f : Fields) : Except DecodeError Instr :=
  .ok (.j (f.d ++ f.a ++ f.b ++ f.fn))

/-- Major 0x0F. -/
def decodeMajor0F (f : Fields) : Except DecodeError Instr :=
  .ok (.jal (f.d ++ f.a ++ f.b ++ f.fn))

/-- Major 0x10. -/
def decodeMajor10 (f : Fields) : Except DecodeError Instr :=
  if (f.b.extractLsb' 1 4) = 0#4 then .ok (.ldB f.d f.a (f.b.extractLsb' 0 1 ++ f.fn))
  else
  if (f.b.extractLsb' 1 4) = 1#4 then .ok (.ldH f.d f.a (f.b.extractLsb' 0 1 ++ f.fn))
  else
  if (f.b.extractLsb' 1 4) = 2#4 then .ok (.ldW f.d f.a (f.b.extractLsb' 0 1 ++ f.fn))
  else
  if (f.b.extractLsb' 1 4) = 3#4 then .ok (.ldD f.d f.a (f.b.extractLsb' 0 1 ++ f.fn))
  else
  if (f.b.extractLsb' 1 4) = 4#4 then .ok (.ldBn f.d f.a (f.b.extractLsb' 0 1 ++ f.fn))
  else
  if (f.b.extractLsb' 1 4) = 5#4 then .ok (.ldHn f.d f.a (f.b.extractLsb' 0 1 ++ f.fn))
  else
  if (f.b.extractLsb' 1 4) = 6#4 then .ok (.ldWn f.d f.a (f.b.extractLsb' 0 1 ++ f.fn))
  else
    .error .unallocated

/-- Major 0x11. -/
def decodeMajor11 (f : Fields) : Except DecodeError Instr :=
  if (f.b.extractLsb' 1 4) = 0#4 then .ok (.stB f.d f.a (f.b.extractLsb' 0 1 ++ f.fn))
  else
  if (f.b.extractLsb' 1 4) = 1#4 then .ok (.stH f.d f.a (f.b.extractLsb' 0 1 ++ f.fn))
  else
  if (f.b.extractLsb' 1 4) = 2#4 then .ok (.stW f.d f.a (f.b.extractLsb' 0 1 ++ f.fn))
  else
  if (f.b.extractLsb' 1 4) = 3#4 then .ok (.stD f.d f.a (f.b.extractLsb' 0 1 ++ f.fn))
  else
    .error .unallocated

/-- Major 0x12. -/
def decodeMajor12 (f : Fields) : Except DecodeError Instr :=
  if (f.b.extractLsb' 1 4) = 0#4 then .ok (.ldsB f.d f.a (f.b.extractLsb' 0 1 ++ f.fn))
  else
  if (f.b.extractLsb' 1 4) = 1#4 then .ok (.ldsH f.d f.a (f.b.extractLsb' 0 1 ++ f.fn))
  else
  if (f.b.extractLsb' 1 4) = 2#4 then .ok (.ldsW f.d f.a (f.b.extractLsb' 0 1 ++ f.fn))
  else
  if (f.b.extractLsb' 1 4) = 3#4 then .ok (.ldsD f.d f.a (f.b.extractLsb' 0 1 ++ f.fn))
  else
  if (f.b.extractLsb' 1 4) = 4#4 then .ok (.ldsBn f.d f.a (f.b.extractLsb' 0 1 ++ f.fn))
  else
  if (f.b.extractLsb' 1 4) = 5#4 then .ok (.ldsHn f.d f.a (f.b.extractLsb' 0 1 ++ f.fn))
  else
  if (f.b.extractLsb' 1 4) = 6#4 then .ok (.ldsWn f.d f.a (f.b.extractLsb' 0 1 ++ f.fn))
  else
    .error .unallocated

/-- Major 0x13. -/
def decodeMajor13 (f : Fields) : Except DecodeError Instr :=
  if (f.b.extractLsb' 1 4) = 0#4 then .ok (.stsB f.d f.a (f.b.extractLsb' 0 1 ++ f.fn))
  else
  if (f.b.extractLsb' 1 4) = 1#4 then .ok (.stsH f.d f.a (f.b.extractLsb' 0 1 ++ f.fn))
  else
  if (f.b.extractLsb' 1 4) = 2#4 then .ok (.stsW f.d f.a (f.b.extractLsb' 0 1 ++ f.fn))
  else
  if (f.b.extractLsb' 1 4) = 3#4 then .ok (.stsD f.d f.a (f.b.extractLsb' 0 1 ++ f.fn))
  else
    .error .unallocated

/-- Major 0x14. -/
def decodeMajor14 (f : Fields) : Except DecodeError Instr :=
  if f.d.toNat ≤ 3 then .ok (.pref f.d f.a (f.b ++ f.fn)) else .error .badOperand

/-- Major 0x15. -/
def decodeMajor15 (f : Fields) : Except DecodeError Instr :=
  if f.fn = 0#11 then (if f.b = 0#5 then .ok (.tlook f.d f.a) else .error .mustBeZero)
  else
  if f.fn = 1#11 then .ok (.tins f.d f.a f.b)
  else
  if f.fn = 2#11 then (if f.b = 0#5 then .ok (.tinv f.d f.a) else .error .mustBeZero)
  else
    .error .unallocated

/-- Major 0x18. -/
def decodeMajor18 (f : Fields) : Except DecodeError Instr :=
  if f.a = 0#5 ∧ f.b = 0#5 ∧ f.fn = 0#11 then (if (f.d.extractLsb' 2 3).toNat ≤ 4 then .ok (.ord (f.d.extractLsb' 2 3) (f.d.extractLsb' 0 2)) else .error .badOperand) else .error .mustBeZero

/-- Major 0x19. -/
def decodeMajor19 (f : Fields) : Except DecodeError Instr :=
  if (f.fn.extractLsb' 0 5) = 0#5 then (if (f.fn.extractLsb' 6 5) = 0#5 then .ok (.amoAdd f.d f.a f.b (f.fn.extractLsb' 5 1)) else .error .mustBeZero)
  else
  if (f.fn.extractLsb' 0 5) = 1#5 then (if (f.fn.extractLsb' 6 5) = 0#5 then .ok (.amoAnd f.d f.a f.b (f.fn.extractLsb' 5 1)) else .error .mustBeZero)
  else
  if (f.fn.extractLsb' 0 5) = 2#5 then (if (f.fn.extractLsb' 6 5) = 0#5 then .ok (.amoOr f.d f.a f.b (f.fn.extractLsb' 5 1)) else .error .mustBeZero)
  else
  if (f.fn.extractLsb' 0 5) = 3#5 then (if (f.fn.extractLsb' 6 5) = 0#5 then .ok (.amoXor f.d f.a f.b (f.fn.extractLsb' 5 1)) else .error .mustBeZero)
  else
  if (f.fn.extractLsb' 0 5) = 4#5 then (if (f.fn.extractLsb' 6 5) = 0#5 then .ok (.amoMin f.d f.a f.b (f.fn.extractLsb' 5 1)) else .error .mustBeZero)
  else
  if (f.fn.extractLsb' 0 5) = 5#5 then (if (f.fn.extractLsb' 6 5) = 0#5 then .ok (.amoMax f.d f.a f.b (f.fn.extractLsb' 5 1)) else .error .mustBeZero)
  else
  if (f.fn.extractLsb' 0 5) = 6#5 then (if (f.fn.extractLsb' 6 5) = 0#5 then .ok (.amoMinn f.d f.a f.b (f.fn.extractLsb' 5 1)) else .error .mustBeZero)
  else
  if (f.fn.extractLsb' 0 5) = 7#5 then (if (f.fn.extractLsb' 6 5) = 0#5 then .ok (.amoMaxn f.d f.a f.b (f.fn.extractLsb' 5 1)) else .error .mustBeZero)
  else
  if (f.fn.extractLsb' 0 5) = 8#5 then (if (f.fn.extractLsb' 6 5) = 0#5 then .ok (.amoSwp f.d f.a f.b (f.fn.extractLsb' 5 1)) else .error .mustBeZero)
  else
  if (f.fn.extractLsb' 0 5) = 9#5 then (if (f.fn.extractLsb' 5 6) = 0#6 then .ok (.amoFadd f.d f.a f.b) else .error .mustBeZero)
  else
    .error .unallocated

/-- Major 0x1A. -/
def decodeMajor1A (f : Fields) : Except DecodeError Instr :=
  if f.fn = 0#11 then .ok (.casW f.d f.a f.b)
  else
  if f.fn = 1#11 then .ok (.casD f.d f.a f.b)
  else
  if f.fn = 2#11 then .ok (.woclr f.d f.a f.b)
  else
  if f.fn = 3#11 then (if f.b = 0#5 then .ok (.wotest f.d f.a) else .error .mustBeZero)
  else
    .error .unallocated

/-- Major 0x1B. -/
def decodeMajor1B (f : Fields) : Except DecodeError Instr :=
  if f.a = 0#5 ∧ f.b = 0#5 ∧ f.fn = 0#11 then (if 1 ≤ (f.d.extractLsb' 2 3).toNat ∧ (f.d.extractLsb' 2 3).toNat ≤ 4 then .ok (.fence (f.d.extractLsb' 2 3) (f.d.extractLsb' 0 2)) else .error .badOperand) else .error .mustBeZero

/-- Major 0x1C. -/
def decodeMajor1C (f : Fields) : Except DecodeError Instr :=
  if (f.fn.extractLsb' 0 5) = 0#5 then (if f.b = 0#5 ∧ (f.fn.extractLsb' 5 6) = 0#6 then .ok (.cfgld f.d f.a) else .error .mustBeZero)
  else
  if (f.fn.extractLsb' 0 5) = 1#5 ∧ (f.fn.extractLsb' 5 6) = 0#6 then (if f.d = 0#5 ∧ f.a = 0#5 ∧ f.b = 0#5 then .ok .cfggo else .error .mustBeZero)
  else
  if (f.fn.extractLsb' 0 5) = 1#5 ∧ (f.fn.extractLsb' 5 6) = 1#6 then (if f.d = 0#5 ∧ f.a = 0#5 ∧ f.b = 0#5 then .ok .cfggoS else .error .mustBeZero)
  else
  if (f.fn.extractLsb' 0 5) = 2#5 ∧ (f.fn.extractLsb' 5 6) = 0#6 then (if f.a = 0#5 ∧ f.b = 0#5 then .ok (.cfgwaitLd f.d) else .error .mustBeZero)
  else
  if (f.fn.extractLsb' 0 5) = 2#5 ∧ (f.fn.extractLsb' 5 6) = 1#6 then (if f.a = 0#5 ∧ f.b = 0#5 then .ok (.cfgwaitGo f.d) else .error .mustBeZero)
  else
  if (f.fn.extractLsb' 0 5) = 3#5 ∧ (f.fn.extractLsb' 5 6) = 0#6 then (if f.a = 0#5 ∧ f.b = 0#5 then .ok (.cfgsigA f.d) else .error .mustBeZero)
  else
  if (f.fn.extractLsb' 0 5) = 3#5 ∧ (f.fn.extractLsb' 5 6) = 1#6 then (if f.a = 0#5 ∧ f.b = 0#5 then .ok (.cfgsigSh f.d) else .error .mustBeZero)
  else
  if (f.fn.extractLsb' 0 5) = 4#5 then (if f.b = 0#5 ∧ (f.fn.extractLsb' 5 6) = 0#6 then .ok (.cfgsave f.d f.a) else .error .mustBeZero)
  else
  if (f.fn.extractLsb' 0 5) = 5#5 then (if f.b = 0#5 ∧ (f.fn.extractLsb' 5 6) = 0#6 then .ok (.cfgrest f.d f.a) else .error .mustBeZero)
  else
    .error .unallocated

/-- Major 0x1D. -/
def decodeMajor1D (f : Fields) : Except DecodeError Instr :=
  if (f.fn.extractLsb' 0 5) = 0#5 then (if f.b = 0#5 then .ok (.strm f.d f.a (f.fn.extractLsb' 5 6)) else .error .mustBeZero)
  else
  if (f.fn.extractLsb' 0 5) = 1#5 then (if f.d = 0#5 then .ok (.pws f.a f.b (f.fn.extractLsb' 5 6)) else .error .mustBeZero)
  else
  if (f.fn.extractLsb' 0 5) = 2#5 then (if f.d = 0#5 then .ok (.pwv f.a f.b (f.fn.extractLsb' 5 6)) else .error .mustBeZero)
  else
  if (f.fn.extractLsb' 0 5) = 3#5 then (if f.b = 0#5 then .ok (.prd f.d f.a (f.fn.extractLsb' 5 6)) else .error .mustBeZero)
  else
  if (f.fn.extractLsb' 0 5) = 4#5 then (if f.d = 0#5 ∧ f.b = 0#5 then .ok (.mki f.a (f.fn.extractLsb' 5 6)) else .error .mustBeZero)
  else
  if (f.fn.extractLsb' 0 5) = 5#5 then (if f.a = 0#5 ∧ f.b = 0#5 ∧ (f.fn.extractLsb' 5 6) = 0#6 then .ok (.drain f.d) else .error .mustBeZero)
  else
  if (f.fn.extractLsb' 0 5) = 6#5 then (if f.a = 0#5 then .ok (.pstat f.d f.b (f.fn.extractLsb' 5 6)) else .error .mustBeZero)
  else
    .error .unallocated

/-- Major 0x1E. -/
def decodeMajor1E (f : Fields) : Except DecodeError Instr :=
  if (f.fn.extractLsb' 0 5) = 0#5 then (if f.d = 0#5 ∧ f.a = 0#5 ∧ f.b = 0#5 ∧ (f.fn.extractLsb' 10 1) = 0#1 then .ok (.accz (f.fn.extractLsb' 5 5)) else .error .mustBeZero)
  else
  if (f.fn.extractLsb' 0 5) = 1#5 then (if f.b = 0#5 ∧ (f.fn.extractLsb' 10 1) = 0#1 then .ok (.accrd f.d f.a (f.fn.extractLsb' 5 5)) else .error .mustBeZero)
  else
  if (f.fn.extractLsb' 0 5) = 2#5 ∧ (f.fn.extractLsb' 5 6) = 0#6 then (if f.b = 0#5 then .ok (.bktokTake f.d f.a) else .error .mustBeZero)
  else
  if (f.fn.extractLsb' 0 5) = 2#5 ∧ (f.fn.extractLsb' 5 6) = 1#6 then (if f.b = 0#5 then .ok (.bktokGive f.d f.a) else .error .mustBeZero)
  else
  if (f.fn.extractLsb' 0 5) = 2#5 ∧ (f.fn.extractLsb' 5 6) = 2#6 then (if f.b = 0#5 then .ok (.bktokQuery f.d f.a) else .error .mustBeZero)
  else
    .error .unallocated

/-- Major 0x22. -/
def decodeMajor22 (f : Fields) : Except DecodeError Instr :=
  if (f.fn.extractLsb' 0 5) = 0#5 then (if f.b = 0#5 then .ok (.mtok f.d f.a (f.fn.extractLsb' 5 6)) else .error .mustBeZero)
  else
  if (f.fn.extractLsb' 0 5) = 1#5 then (if (f.fn.extractLsb' 5 6) = 0#6 then .ok (.mbld f.d f.a f.b) else .error .mustBeZero)
  else
  if (f.fn.extractLsb' 0 5) = 2#5 then (if f.a = 0#5 ∧ f.b = 0#5 ∧ (f.fn.extractLsb' 8 3) = 0#3 then (if (f.fn.extractLsb' 5 3).toNat ≤ 5 then .ok (.mstat f.d (f.fn.extractLsb' 5 3)) else .error .badOperand) else .error .mustBeZero)
  else
  if (f.fn.extractLsb' 0 5) = 3#5 then (if f.d = 0#5 ∧ f.a = 0#5 ∧ f.b = 0#5 ∧ (f.fn.extractLsb' 9 2) = 0#2 then .ok (.mwait (f.fn.extractLsb' 5 4)) else .error .mustBeZero)
  else
    .error .unallocated

/-- Major 0x24. -/
def decodeMajor24 (f : Fields) : Except DecodeError Instr :=
  if (f.fn.extractLsb' 0 5) = 0#5 then (if f.b = 0#5 ∧ (f.fn.extractLsb' 7 4) = 0#4 then .ok (.rload f.d f.a (f.fn.extractLsb' 5 2)) else .error .mustBeZero)
  else
  if (f.fn.extractLsb' 0 5) = 1#5 then (if f.b = 0#5 ∧ (f.fn.extractLsb' 7 4) = 0#4 then (if (f.fn.extractLsb' 5 2).toNat ≤ 2 then .ok (.rsel f.d f.a (f.fn.extractLsb' 5 2)) else .error .badOperand) else .error .mustBeZero)
  else
  if (f.fn.extractLsb' 0 5) = 2#5 then (if f.a = 0#5 ∧ f.b = 0#5 ∧ (f.fn.extractLsb' 8 3) = 0#3 then (if (f.fn.extractLsb' 5 3).toNat ≠ 3 then .ok (.rstat f.d (f.fn.extractLsb' 5 3)) else .error .badOperand) else .error .mustBeZero)
  else
  if (f.fn.extractLsb' 0 5) = 3#5 then (if f.a = 0#5 ∧ f.b = 0#5 ∧ (f.fn.extractLsb' 9 2) = 0#2 then (if (f.fn.extractLsb' 5 4) ≠ 0 then .ok (.rfree f.d (f.fn.extractLsb' 5 4)) else .error .badOperand) else .error .mustBeZero)
  else
    .error .unallocated

/-- Major 0x26. -/
def decodeMajor26 (f : Fields) : Except DecodeError Instr :=
  if (f.fn.extractLsb' 0 5) = 0#5 then (if f.b = 0#5 then .ok (.cparm f.d f.a (f.fn.extractLsb' 5 6)) else .error .mustBeZero)
  else
  if (f.fn.extractLsb' 0 5) = 1#5 then (if (f.fn.extractLsb' 5 6) = 0#6 then .ok (.cpfire f.d f.a f.b) else .error .mustBeZero)
  else
  if (f.fn.extractLsb' 0 5) = 2#5 then (if f.b = 0#5 then .ok (.cpstat f.d f.a (f.fn.extractLsb' 5 6)) else .error .mustBeZero)
  else
  if (f.fn.extractLsb' 0 5) = 3#5 then (if f.a = 0#5 ∧ f.b = 0#5 then .ok (.cpres f.d (f.fn.extractLsb' 5 6)) else .error .mustBeZero)
  else
  if (f.fn.extractLsb' 0 5) = 4#5 then (if f.a = 0#5 ∧ f.b = 0#5 then .ok (.cpkill f.d (f.fn.extractLsb' 5 6)) else .error .mustBeZero)
  else
    .error .unallocated

/-- Major 0x27. -/
def decodeMajor27 (f : Fields) : Except DecodeError Instr :=
  if (f.fn.extractLsb' 0 5) = 0#5 then (if (f.fn.extractLsb' 7 4) = 0#4 then .ok (.tbinit f.d f.a f.b (f.fn.extractLsb' 5 2)) else .error .mustBeZero)
  else
  if (f.fn.extractLsb' 0 5) = 1#5 then (if (f.fn.extractLsb' 7 4) = 0#4 then .ok (.tbarr f.d f.a f.b (f.fn.extractLsb' 5 2)) else .error .mustBeZero)
  else
  if (f.fn.extractLsb' 0 5) = 2#5 then (if (f.fn.extractLsb' 7 4) = 0#4 then .ok (.tbexp f.d f.a f.b (f.fn.extractLsb' 5 2)) else .error .mustBeZero)
  else
  if (f.fn.extractLsb' 0 5) = 3#5 then (if (f.fn.extractLsb' 7 4) = 0#4 then .ok (.tbwait f.d f.a f.b (f.fn.extractLsb' 5 2)) else .error .mustBeZero)
  else
  if (f.fn.extractLsb' 0 5) = 4#5 then (if f.b = 0#5 ∧ (f.fn.extractLsb' 7 4) = 0#4 then .ok (.tbtest f.d f.a (f.fn.extractLsb' 5 2)) else .error .mustBeZero)
  else
    .error .unallocated

/-- Major 0x29. -/
def decodeMajor29 (f : Fields) : Except DecodeError Instr :=
  if (f.fn.extractLsb' 0 5) = 0#5 then (if f.b = 0#5 ∧ (f.fn.extractLsb' 9 2) = 0#2 then .ok (.slbind f.d f.a (f.fn.extractLsb' 5 4)) else .error .mustBeZero)
  else
  if (f.fn.extractLsb' 0 5) = 1#5 then (if f.b = 0#5 ∧ (f.fn.extractLsb' 9 2) = 0#2 then .ok (.slstat f.d f.a (f.fn.extractLsb' 5 4)) else .error .mustBeZero)
  else
  if (f.fn.extractLsb' 0 5) = 2#5 then (if f.a = 0#5 ∧ f.b = 0#5 ∧ (f.fn.extractLsb' 9 2) = 0#2 then .ok (.slrel f.d (f.fn.extractLsb' 5 4)) else .error .mustBeZero)
  else
  if (f.fn.extractLsb' 0 5) = 3#5 then (if f.b = 0#5 ∧ (f.fn.extractLsb' 5 6) = 0#6 then .ok (.warpset f.d f.a) else .error .mustBeZero)
  else
    .error .unallocated

/-- Major 0x2A. -/
def decodeMajor2A (f : Fields) : Except DecodeError Instr :=
  if (f.fn.extractLsb' 0 5) = 0#5 then (if f.b = 0#5 ∧ (f.fn.extractLsb' 9 2) = 0#2 then .ok (.spbind f.d f.a (f.fn.extractLsb' 5 4)) else .error .mustBeZero)
  else
  if (f.fn.extractLsb' 0 5) = 1#5 then (if f.b = 0#5 ∧ (f.fn.extractLsb' 9 2) = 0#2 then .ok (.sphdr f.d f.a (f.fn.extractLsb' 5 4)) else .error .mustBeZero)
  else
  if (f.fn.extractLsb' 0 5) = 2#5 then (if f.b = 0#5 ∧ (f.fn.extractLsb' 9 2) = 0#2 then .ok (.spstat f.d f.a (f.fn.extractLsb' 5 4)) else .error .mustBeZero)
  else
    .error .unallocated

/-- Major 0x2C. That field a of WDOM unit 2 must be zero is the model's choice (log 83): R318 names ga for WDOM, R324 gives only unit 0 an
operand. -/
def decodeMajor2C (f : Fields) : Except DecodeError Instr :=
  if (f.fn.extractLsb' 0 5) = 0#5 then (if f.b = 0#5 ∧ (f.fn.extractLsb' 7 4) = 0#4 then .ok (.wpush f.d f.a (f.fn.extractLsb' 5 2)) else .error .mustBeZero)
  else
  if (f.fn.extractLsb' 0 5) = 1#5 then (if f.b = 0#5 ∧ (f.fn.extractLsb' 7 4) = 0#4 then .ok (.wpop f.d f.a (f.fn.extractLsb' 5 2)) else .error .mustBeZero)
  else
  if (f.fn.extractLsb' 0 5) = 2#5 then (if f.b = 0#5 ∧ (f.fn.extractLsb' 7 4) = 0#4 then .ok (.wtry f.d f.a (f.fn.extractLsb' 5 2)) else .error .mustBeZero)
  else
  if (f.fn.extractLsb' 0 5) = 3#5 ∧ (f.fn.extractLsb' 5 1) = 0#1 then (if f.a = 0#5 ∧ (f.fn.extractLsb' 8 3) = 0#3 then .ok (.wdone f.d f.b (f.fn.extractLsb' 6 2)) else .error .mustBeZero)
  else
  if (f.fn.extractLsb' 0 5) = 3#5 ∧ (f.fn.extractLsb' 5 1) = 1#1 then (if f.a = 0#5 ∧ (f.fn.extractLsb' 8 3) = 0#3 then .ok (.wdoneF f.d f.b (f.fn.extractLsb' 6 2)) else .error .mustBeZero)
  else
  if (f.fn.extractLsb' 0 5) = 4#5 then (if (f.fn.extractLsb' 5 6) = 0#6 then .ok (.wpromo f.d f.a f.b) else .error .mustBeZero)
  else
  if (f.fn.extractLsb' 0 5) = 5#5 ∧ (f.fn.extractLsb' 5 6) = 0#6 then (if f.a = 0#5 ∧ f.b = 0#5 then .ok (.wfloor f.d) else .error .mustBeZero)
  else
  if (f.fn.extractLsb' 0 5) = 5#5 ∧ (f.fn.extractLsb' 5 6) = 1#6 then (if f.a = 0#5 ∧ f.b = 0#5 then .ok (.wfloorR f.d) else .error .mustBeZero)
  else
  if (f.fn.extractLsb' 0 5) = 6#5 ∧ (f.fn.extractLsb' 5 6) = 0#6 then (if f.b = 0#5 then .ok (.wdomJoin f.d f.a) else .error .mustBeZero)
  else
  if (f.fn.extractLsb' 0 5) = 6#5 ∧ (f.fn.extractLsb' 5 6) = 1#6 then (if f.a = 0#5 ∧ f.b = 0#5 then .ok (.wdomLeave f.d) else .error .mustBeZero)
  else
  if (f.fn.extractLsb' 0 5) = 6#5 ∧ (f.fn.extractLsb' 5 6) = 2#6 then (if f.b = 0#5 then .ok (.wdomQuery f.d) else .error .mustBeZero)
  else
  if (f.fn.extractLsb' 0 5) = 7#5 then (if f.b = 0#5 ∧ (f.fn.extractLsb' 5 6) = 0#6 then .ok (.wstat f.d f.a) else .error .mustBeZero)
  else
  if (f.fn.extractLsb' 0 5) = 8#5 then (if f.a = 0#5 ∧ f.b = 0#5 ∧ (f.fn.extractLsb' 7 4) = 0#4 then .ok (.wdrain f.d (f.fn.extractLsb' 5 2)) else .error .mustBeZero)
  else
    .error .unallocated

/-- Major 0x2F (R349): GBAR and CTRACT alone have units 0 to 3; every other bit of fn and every field that a word does not name is zero. -/
def decodeMajor2F (f : Fields) : Except DecodeError Instr :=
  if (f.fn.extractLsb' 0 5) = 0#5 then (if f.b = 0#5 ∧ (f.fn.extractLsb' 5 6) = 0#6 then .ok (.gjoin f.d f.a) else .error .mustBeZero)
  else
  if (f.fn.extractLsb' 0 5) = 1#5 then (if f.a = 0#5 ∧ f.b = 0#5 ∧ (f.fn.extractLsb' 5 6) = 0#6 then .ok (.gleave f.d) else .error .mustBeZero)
  else
  if (f.fn.extractLsb' 0 5) = 2#5 then (if f.a = 0#5 ∧ f.b = 0#5 ∧ (f.fn.extractLsb' 7 4) = 0#4 then .ok (.gbar f.d (f.fn.extractLsb' 5 2)) else .error .mustBeZero)
  else
  if (f.fn.extractLsb' 0 5) = 3#5 then (if f.a = 0#5 ∧ f.b = 0#5 ∧ (f.fn.extractLsb' 5 6) = 0#6 then .ok (.gsize f.d) else .error .mustBeZero)
  else
  if (f.fn.extractLsb' 0 5) = 4#5 then (if f.a = 0#5 ∧ f.b = 0#5 ∧ (f.fn.extractLsb' 5 6) = 0#6 then .ok (.segend f.d) else .error .mustBeZero)
  else
  if (f.fn.extractLsb' 0 5) = 5#5 then (if f.b = 0#5 ∧ (f.fn.extractLsb' 5 6) = 0#6 then .ok (.park f.d f.a) else .error .mustBeZero)
  else
  if (f.fn.extractLsb' 0 5) = 6#5 then (if f.a = 0#5 ∧ f.b = 0#5 ∧ (f.fn.extractLsb' 7 4) = 0#4 then .ok (.ctract f.d (f.fn.extractLsb' 5 2)) else .error .mustBeZero)
  else
    .error .unallocated

/-- Major 0x3D. -/
def decodeMajor3D (f : Fields) : Except DecodeError Instr :=
  if f.fn = 0#11 then (if f.d = 0#5 ∧ f.b = 0#5 then .ok (.trap f.a) else .error .mustBeZero)
  else
  if f.fn = 1#11 then (if f.b = 0#5 then .ok (.sysc f.d f.a) else .error .mustBeZero)
  else
  if f.fn = 2#11 then (if f.d = 0#5 ∧ f.a = 0#5 ∧ f.b = 0#5 then .ok .halt else .error .mustBeZero)
  else
  if f.fn = 16#11 then (if f.d = 0#5 ∧ f.a = 0#5 ∧ f.b = 0#5 then .ok .eret else .error .mustBeZero)
  else
  if f.fn = 17#11 then (if f.d = 0#5 then .ok (.invr f.a f.b) else .error .mustBeZero)
  else
  if f.fn = 18#11 then (if f.d = 0#5 ∧ f.b = 0#5 then .ok (.inva f.a) else .error .mustBeZero)
  else
    .error .unallocated

/-- Major 0x3E. -/
def decodeMajor3E (f : Fields) : Except DecodeError Instr :=
  if (f.b.extractLsb' 1 4) = 0#4 then (if f.a = 0#5 then (if csrAssigned (f.b.extractLsb' 0 1 ++ f.fn) then .ok (.csrr f.d (f.b.extractLsb' 0 1 ++ f.fn)) else .error .badOperand) else .error .mustBeZero)
  else
  if (f.b.extractLsb' 1 4) = 1#4 then (if csrAssigned (f.b.extractLsb' 0 1 ++ f.fn) then .ok (.csrw f.d f.a (f.b.extractLsb' 0 1 ++ f.fn)) else .error .badOperand)
  else
  if (f.b.extractLsb' 1 4) = 2#4 then (if csrAssigned (f.b.extractLsb' 0 1 ++ f.fn) then .ok (.csrs f.d f.a (f.b.extractLsb' 0 1 ++ f.fn)) else .error .badOperand)
  else
  if (f.b.extractLsb' 1 4) = 3#4 then (if csrAssigned (f.b.extractLsb' 0 1 ++ f.fn) then .ok (.csrc f.d f.a (f.b.extractLsb' 0 1 ++ f.fn)) else .error .badOperand)
  else
    .error .unallocated

/-- The opcode map (R33). -/
def decodeFields (f : Fields) : Except DecodeError Instr :=
  if f.op = 1#6 then decodeMajor01 f else
  if f.op = 2#6 then decodeMajor02 f else
  if f.op = 3#6 then decodeMajor03 f else
  if f.op = 4#6 then decodeMajor04 f else
  if f.op = 5#6 then decodeMajor05 f else
  if f.op = 6#6 then decodeMajor06 f else
  if f.op = 7#6 then decodeMajor07 f else
  if f.op = 8#6 then decodeMajor08 f else
  if f.op = 9#6 then decodeMajor09 f else
  if f.op = 10#6 then decodeMajor0A f else
  if f.op = 11#6 then decodeMajor0B f else
  if f.op = 12#6 then decodeMajor0C f else
  if f.op = 13#6 then decodeMajor0D f else
  if f.op = 14#6 then decodeMajor0E f else
  if f.op = 15#6 then decodeMajor0F f else
  if f.op = 16#6 then decodeMajor10 f else
  if f.op = 17#6 then decodeMajor11 f else
  if f.op = 18#6 then decodeMajor12 f else
  if f.op = 19#6 then decodeMajor13 f else
  if f.op = 20#6 then decodeMajor14 f else
  if f.op = 21#6 then decodeMajor15 f else
  if f.op = 24#6 then decodeMajor18 f else
  if f.op = 25#6 then decodeMajor19 f else
  if f.op = 26#6 then decodeMajor1A f else
  if f.op = 27#6 then decodeMajor1B f else
  if f.op = 28#6 then decodeMajor1C f else
  if f.op = 29#6 then decodeMajor1D f else
  if f.op = 30#6 then decodeMajor1E f else
  if f.op = 34#6 then decodeMajor22 f else
  if f.op = 36#6 then decodeMajor24 f else
  if f.op = 38#6 then decodeMajor26 f else
  if f.op = 39#6 then decodeMajor27 f else
  if f.op = 41#6 then decodeMajor29 f else
  if f.op = 42#6 then decodeMajor2A f else
  if f.op = 44#6 then decodeMajor2C f else
  if f.op = 47#6 then decodeMajor2F f else
  if f.op = 61#6 then decodeMajor3D f else
  if f.op = 62#6 then decodeMajor3E f else
    .error .reservedMajor

/-- The instruction of a word, or why there is none. -/
def decode (w : W32) : Except DecodeError Instr := decodeFields (Fields.of w)

/-- The fields of a sequencer word; a step of another agent has no encoding, and gives the all-zero fields, which decode to
nothing (R45). -/
def fieldsOf : Instr → Fields
  | .add d a b => ⟨1#6, d, a, b, 0#11⟩
  | .sub d a b => ⟨1#6, d, a, b, 1#11⟩
  | .and d a b => ⟨1#6, d, a, b, 2#11⟩
  | .or d a b => ⟨1#6, d, a, b, 3#11⟩
  | .xor d a b => ⟨1#6, d, a, b, 4#11⟩
  | .andn d a b => ⟨1#6, d, a, b, 5#11⟩
  | .shl d a b => ⟨1#6, d, a, b, 6#11⟩
  | .shr d a b => ⟨1#6, d, a, b, 7#11⟩
  | .sra d a b => ⟨1#6, d, a, b, 8#11⟩
  | .rol d a b => ⟨1#6, d, a, b, 9#11⟩
  | .min d a b => ⟨1#6, d, a, b, 10#11⟩
  | .max d a b => ⟨1#6, d, a, b, 11#11⟩
  | .minn d a b => ⟨1#6, d, a, b, 12#11⟩
  | .maxn d a b => ⟨1#6, d, a, b, 13#11⟩
  | .seq d a b => ⟨1#6, d, a, b, 14#11⟩
  | .sne d a b => ⟨1#6, d, a, b, 15#11⟩
  | .slt d a b => ⟨1#6, d, a, b, 16#11⟩
  | .sltn d a b => ⟨1#6, d, a, b, 17#11⟩
  | .clz d a => ⟨1#6, d, a, 0#5, 18#11⟩
  | .ctz d a => ⟨1#6, d, a, 0#5, 19#11⟩
  | .popc d a => ⟨1#6, d, a, 0#5, 20#11⟩
  | .mul d a b => ⟨1#6, d, a, b, 24#11⟩
  | .mulh d a b => ⟨1#6, d, a, b, 25#11⟩
  | .mulhn d a b => ⟨1#6, d, a, b, 26#11⟩
  | .div d a b => ⟨1#6, d, a, b, 27#11⟩
  | .divn d a b => ⟨1#6, d, a, b, 28#11⟩
  | .rem d a b => ⟨1#6, d, a, b, 29#11⟩
  | .remn d a b => ⟨1#6, d, a, b, 30#11⟩
  | .jalr d a => ⟨1#6, d, a, 0#5, 32#11⟩
  | .pause => ⟨1#6, 0#5, 0#5, 0#5, 33#11⟩
  | .shli d a s => ⟨1#6, d, a, 0#5, 1#5 ++ s⟩
  | .shri d a s => ⟨1#6, d, a, 0#5, 2#5 ++ s⟩
  | .srai d a s => ⟨1#6, d, a, 0#5, 3#5 ++ s⟩
  | .addi d a i => ⟨2#6, d, a, (i.extractLsb' 11 5), (i.extractLsb' 0 11)⟩
  | .andi d a i => ⟨3#6, d, a, (i.extractLsb' 11 5), (i.extractLsb' 0 11)⟩
  | .ori d a i => ⟨4#6, d, a, (i.extractLsb' 11 5), (i.extractLsb' 0 11)⟩
  | .xori d a i => ⟨5#6, d, a, (i.extractLsb' 11 5), (i.extractLsb' 0 11)⟩
  | .slti d a i => ⟨6#6, d, a, (i.extractLsb' 11 5), (i.extractLsb' 0 11)⟩
  | .lui d i => ⟨7#6, d, 0#5, (i.extractLsb' 11 5), (i.extractLsb' 0 11)⟩
  | .addpc d i => ⟨7#6, d, 1#5, (i.extractLsb' 11 5), (i.extractLsb' 0 11)⟩
  | .loopi d l => ⟨7#6, d, 2#5, (l.extractLsb' 11 5), (l.extractLsb' 0 11)⟩
  | .beq a b o => ⟨8#6, a, b, (o.extractLsb' 11 5), (o.extractLsb' 0 11)⟩
  | .bne a b o => ⟨9#6, a, b, (o.extractLsb' 11 5), (o.extractLsb' 0 11)⟩
  | .blt a b o => ⟨10#6, a, b, (o.extractLsb' 11 5), (o.extractLsb' 0 11)⟩
  | .bge a b o => ⟨11#6, a, b, (o.extractLsb' 11 5), (o.extractLsb' 0 11)⟩
  | .bltn a b o => ⟨12#6, a, b, (o.extractLsb' 11 5), (o.extractLsb' 0 11)⟩
  | .bgen a b o => ⟨13#6, a, b, (o.extractLsb' 11 5), (o.extractLsb' 0 11)⟩
  | .j o => ⟨14#6, (o.extractLsb' 21 5), (o.extractLsb' 16 5), (o.extractLsb' 11 5), (o.extractLsb' 0 11)⟩
  | .jal o => ⟨15#6, (o.extractLsb' 21 5), (o.extractLsb' 16 5), (o.extractLsb' 11 5), (o.extractLsb' 0 11)⟩
  | .ldB d a o => ⟨16#6, d, a, 0#4 ++ (o.extractLsb' 11 1), (o.extractLsb' 0 11)⟩
  | .ldH d a o => ⟨16#6, d, a, 1#4 ++ (o.extractLsb' 11 1), (o.extractLsb' 0 11)⟩
  | .ldW d a o => ⟨16#6, d, a, 2#4 ++ (o.extractLsb' 11 1), (o.extractLsb' 0 11)⟩
  | .ldD d a o => ⟨16#6, d, a, 3#4 ++ (o.extractLsb' 11 1), (o.extractLsb' 0 11)⟩
  | .ldBn d a o => ⟨16#6, d, a, 4#4 ++ (o.extractLsb' 11 1), (o.extractLsb' 0 11)⟩
  | .ldHn d a o => ⟨16#6, d, a, 5#4 ++ (o.extractLsb' 11 1), (o.extractLsb' 0 11)⟩
  | .ldWn d a o => ⟨16#6, d, a, 6#4 ++ (o.extractLsb' 11 1), (o.extractLsb' 0 11)⟩
  | .stB d a o => ⟨17#6, d, a, 0#4 ++ (o.extractLsb' 11 1), (o.extractLsb' 0 11)⟩
  | .stH d a o => ⟨17#6, d, a, 1#4 ++ (o.extractLsb' 11 1), (o.extractLsb' 0 11)⟩
  | .stW d a o => ⟨17#6, d, a, 2#4 ++ (o.extractLsb' 11 1), (o.extractLsb' 0 11)⟩
  | .stD d a o => ⟨17#6, d, a, 3#4 ++ (o.extractLsb' 11 1), (o.extractLsb' 0 11)⟩
  | .ldsB d a o => ⟨18#6, d, a, 0#4 ++ (o.extractLsb' 11 1), (o.extractLsb' 0 11)⟩
  | .ldsH d a o => ⟨18#6, d, a, 1#4 ++ (o.extractLsb' 11 1), (o.extractLsb' 0 11)⟩
  | .ldsW d a o => ⟨18#6, d, a, 2#4 ++ (o.extractLsb' 11 1), (o.extractLsb' 0 11)⟩
  | .ldsD d a o => ⟨18#6, d, a, 3#4 ++ (o.extractLsb' 11 1), (o.extractLsb' 0 11)⟩
  | .ldsBn d a o => ⟨18#6, d, a, 4#4 ++ (o.extractLsb' 11 1), (o.extractLsb' 0 11)⟩
  | .ldsHn d a o => ⟨18#6, d, a, 5#4 ++ (o.extractLsb' 11 1), (o.extractLsb' 0 11)⟩
  | .ldsWn d a o => ⟨18#6, d, a, 6#4 ++ (o.extractLsb' 11 1), (o.extractLsb' 0 11)⟩
  | .stsB d a o => ⟨19#6, d, a, 0#4 ++ (o.extractLsb' 11 1), (o.extractLsb' 0 11)⟩
  | .stsH d a o => ⟨19#6, d, a, 1#4 ++ (o.extractLsb' 11 1), (o.extractLsb' 0 11)⟩
  | .stsW d a o => ⟨19#6, d, a, 2#4 ++ (o.extractLsb' 11 1), (o.extractLsb' 0 11)⟩
  | .stsD d a o => ⟨19#6, d, a, 3#4 ++ (o.extractLsb' 11 1), (o.extractLsb' 0 11)⟩
  | .pref h a o => ⟨20#6, h, a, (o.extractLsb' 11 5), (o.extractLsb' 0 11)⟩
  | .tlook d a => ⟨21#6, d, a, 0#5, 0#11⟩
  | .tins d a b => ⟨21#6, d, a, b, 1#11⟩
  | .tinv d a => ⟨21#6, d, a, 0#5, 2#11⟩
  | .ord o s => ⟨24#6, o ++ s, 0#5, 0#5, 0#11⟩
  | .fence o s => ⟨27#6, o ++ s, 0#5, 0#5, 0#11⟩
  | .amoAdd d a b z => ⟨25#6, d, a, b, 0#5 ++ z ++ 0#5⟩
  | .amoAnd d a b z => ⟨25#6, d, a, b, 0#5 ++ z ++ 1#5⟩
  | .amoOr d a b z => ⟨25#6, d, a, b, 0#5 ++ z ++ 2#5⟩
  | .amoXor d a b z => ⟨25#6, d, a, b, 0#5 ++ z ++ 3#5⟩
  | .amoMin d a b z => ⟨25#6, d, a, b, 0#5 ++ z ++ 4#5⟩
  | .amoMax d a b z => ⟨25#6, d, a, b, 0#5 ++ z ++ 5#5⟩
  | .amoMinn d a b z => ⟨25#6, d, a, b, 0#5 ++ z ++ 6#5⟩
  | .amoMaxn d a b z => ⟨25#6, d, a, b, 0#5 ++ z ++ 7#5⟩
  | .amoSwp d a b z => ⟨25#6, d, a, b, 0#5 ++ z ++ 8#5⟩
  | .amoFadd d a b => ⟨25#6, d, a, b, 9#11⟩
  | .casW d a b => ⟨26#6, d, a, b, 0#11⟩
  | .casD d a b => ⟨26#6, d, a, b, 1#11⟩
  | .woclr d a b => ⟨26#6, d, a, b, 2#11⟩
  | .wotest d a => ⟨26#6, d, a, 0#5, 3#11⟩
  | .cfgld d a => ⟨28#6, d, a, 0#5, 0#11⟩
  | .cfggo => ⟨28#6, 0#5, 0#5, 0#5, 1#11⟩
  | .cfggoS => ⟨28#6, 0#5, 0#5, 0#5, 33#11⟩
  | .cfgwaitLd d => ⟨28#6, d, 0#5, 0#5, 2#11⟩
  | .cfgwaitGo d => ⟨28#6, d, 0#5, 0#5, 34#11⟩
  | .cfgsigA d => ⟨28#6, d, 0#5, 0#5, 3#11⟩
  | .cfgsigSh d => ⟨28#6, d, 0#5, 0#5, 35#11⟩
  | .cfgsave d a => ⟨28#6, d, a, 0#5, 4#11⟩
  | .cfgrest d a => ⟨28#6, d, a, 0#5, 5#11⟩
  | .strm d a n => ⟨29#6, d, a, 0#5, n ++ 0#5⟩
  | .pws a b n => ⟨29#6, 0#5, a, b, n ++ 1#5⟩
  | .pwv a b n => ⟨29#6, 0#5, a, b, n ++ 2#5⟩
  | .prd d a n => ⟨29#6, d, a, 0#5, n ++ 3#5⟩
  | .mki a n => ⟨29#6, 0#5, a, 0#5, n ++ 4#5⟩
  | .drain d => ⟨29#6, d, 0#5, 0#5, 5#11⟩
  | .pstat d b n => ⟨29#6, d, 0#5, b, n ++ 6#5⟩
  | .accz n => ⟨30#6, 0#5, 0#5, 0#5, 0#1 ++ n ++ 0#5⟩
  | .accrd d a n => ⟨30#6, d, a, 0#5, 0#1 ++ n ++ 1#5⟩
  | .bktokTake d a => ⟨30#6, d, a, 0#5, 2#11⟩
  | .bktokGive d a => ⟨30#6, d, a, 0#5, 34#11⟩
  | .bktokQuery d a => ⟨30#6, d, a, 0#5, 66#11⟩
  | .mtok d a n => ⟨34#6, d, a, 0#5, n ++ 0#5⟩
  | .mbld d a b => ⟨34#6, d, a, b, 1#11⟩
  | .mstat d s => ⟨34#6, d, 0#5, 0#5, 0#3 ++ s ++ 2#5⟩
  | .mwait m => ⟨34#6, 0#5, 0#5, 0#5, 0#2 ++ m ++ 3#5⟩
  | .rload d a s => ⟨36#6, d, a, 0#5, 0#4 ++ s ++ 0#5⟩
  | .rsel d a p => ⟨36#6, d, a, 0#5, 0#4 ++ p ++ 1#5⟩
  | .rstat d s => ⟨36#6, d, 0#5, 0#5, 0#3 ++ s ++ 2#5⟩
  | .rfree d m => ⟨36#6, d, 0#5, 0#5, 0#2 ++ m ++ 3#5⟩
  | .cparm d a s => ⟨38#6, d, a, 0#5, s ++ 0#5⟩
  | .cpfire d a b => ⟨38#6, d, a, b, 1#11⟩
  | .cpstat d a s => ⟨38#6, d, a, 0#5, s ++ 2#5⟩
  | .cpres d s => ⟨38#6, d, 0#5, 0#5, s ++ 3#5⟩
  | .cpkill d s => ⟨38#6, d, 0#5, 0#5, s ++ 4#5⟩
  | .tbinit d a b c => ⟨39#6, d, a, b, 0#4 ++ c ++ 0#5⟩
  | .tbarr d a b c => ⟨39#6, d, a, b, 0#4 ++ c ++ 1#5⟩
  | .tbexp d a b c => ⟨39#6, d, a, b, 0#4 ++ c ++ 2#5⟩
  | .tbwait d a b c => ⟨39#6, d, a, b, 0#4 ++ c ++ 3#5⟩
  | .tbtest d a c => ⟨39#6, d, a, 0#5, 0#4 ++ c ++ 4#5⟩
  | .slbind d a n => ⟨41#6, d, a, 0#5, 0#2 ++ n ++ 0#5⟩
  | .slstat d a n => ⟨41#6, d, a, 0#5, 0#2 ++ n ++ 1#5⟩
  | .slrel d n => ⟨41#6, d, 0#5, 0#5, 0#2 ++ n ++ 2#5⟩
  | .warpset d a => ⟨41#6, d, a, 0#5, 3#11⟩
  | .spbind d a n => ⟨42#6, d, a, 0#5, 0#2 ++ n ++ 0#5⟩
  | .sphdr d a n => ⟨42#6, d, a, 0#5, 0#2 ++ n ++ 1#5⟩
  | .spstat d a n => ⟨42#6, d, a, 0#5, 0#2 ++ n ++ 2#5⟩
  | .wpush d a c => ⟨44#6, d, a, 0#5, 0#4 ++ c ++ 0#5⟩
  | .wpop d a c => ⟨44#6, d, a, 0#5, 0#4 ++ c ++ 1#5⟩
  | .wtry d a c => ⟨44#6, d, a, 0#5, 0#4 ++ c ++ 2#5⟩
  | .wdone d b c => ⟨44#6, d, 0#5, b, 0#3 ++ c ++ 3#6⟩
  | .wdoneF d b c => ⟨44#6, d, 0#5, b, 0#3 ++ c ++ 35#6⟩
  | .wpromo d a b => ⟨44#6, d, a, b, 4#11⟩
  | .wfloor d => ⟨44#6, d, 0#5, 0#5, 5#11⟩
  | .wfloorR d => ⟨44#6, d, 0#5, 0#5, 37#11⟩
  | .wdomJoin d a => ⟨44#6, d, a, 0#5, 6#11⟩
  | .wdomLeave d => ⟨44#6, d, 0#5, 0#5, 38#11⟩
  | .wdomQuery d => ⟨44#6, d, 0#5, 0#5, 70#11⟩
  | .wstat d a => ⟨44#6, d, a, 0#5, 7#11⟩
  | .wdrain d c => ⟨44#6, d, 0#5, 0#5, 0#4 ++ c ++ 8#5⟩
  | .gjoin d a => ⟨47#6, d, a, 0#5, 0#11⟩
  | .gleave d => ⟨47#6, d, 0#5, 0#5, 1#11⟩
  | .gbar d c => ⟨47#6, d, 0#5, 0#5, 0#4 ++ c ++ 2#5⟩
  | .gsize d => ⟨47#6, d, 0#5, 0#5, 3#11⟩
  | .segend d => ⟨47#6, d, 0#5, 0#5, 4#11⟩
  | .park d a => ⟨47#6, d, a, 0#5, 5#11⟩
  | .ctract d s => ⟨47#6, d, 0#5, 0#5, 0#4 ++ s ++ 6#5⟩
  | .trap a => ⟨61#6, 0#5, a, 0#5, 0#11⟩
  | .sysc d a => ⟨61#6, d, a, 0#5, 1#11⟩
  | .halt => ⟨61#6, 0#5, 0#5, 0#5, 2#11⟩
  | .eret => ⟨61#6, 0#5, 0#5, 0#5, 16#11⟩
  | .invr a b => ⟨61#6, 0#5, a, b, 17#11⟩
  | .inva a => ⟨61#6, 0#5, a, 0#5, 18#11⟩
  | .csrr d c => ⟨62#6, d, 0#5, 0#4 ++ (c.extractLsb' 11 1), (c.extractLsb' 0 11)⟩
  | .csrw d a c => ⟨62#6, d, a, 1#4 ++ (c.extractLsb' 11 1), (c.extractLsb' 0 11)⟩
  | .csrs d a c => ⟨62#6, d, a, 2#4 ++ (c.extractLsb' 11 1), (c.extractLsb' 0 11)⟩
  | .csrc d a c => ⟨62#6, d, a, 3#4 ++ (c.extractLsb' 11 1), (c.extractLsb' 0 11)⟩
  | .woclrSectorStep _ => ⟨0, 0, 0, 0, 0⟩
  | .bktokGrant _ => ⟨0, 0, 0, 0, 0⟩
  | .tbwaitTimeout _ => ⟨0, 0, 0, 0, 0⟩
  | .gbarEpisodeComplete _ _ => ⟨0, 0, 0, 0, 0⟩
  | .syscAnswer _ => ⟨0, 0, 0, 0, 0⟩
  | .waitingWordComplete _ => ⟨0, 0, 0, 0, 0⟩
  | .asyncTrap _ => ⟨0, 0, 0, 0, 0⟩
  | .veDataFiring _ _ => ⟨0, 0, 0, 0, 0⟩
  | .veMarkerFiring _ _ => ⟨0, 0, 0, 0, 0⟩
  | .veRankDiscard _ _ => ⟨0, 0, 0, 0, 0⟩
  | .isectCompare _ _ => ⟨0, 0, 0, 0, 0⟩
  | .veFiringResult _ _ => ⟨0, 0, 0, 0, 0⟩
  | .linkTokenMove _ _ _ => ⟨0, 0, 0, 0, 0⟩
  | .ringRefill _ _ _ => ⟨0, 0, 0, 0, 0⟩
  | .creditReturn _ _ => ⟨0, 0, 0, 0, 0⟩
  | .cutEdgeWindowGrant _ _ _ => ⟨0, 0, 0, 0, 0⟩
  | .routerIngress _ => ⟨0, 0, 0, 0, 0⟩
  | .seRamRead _ _ => ⟨0, 0, 0, 0, 0⟩
  | .seRamWrite _ _ => ⟨0, 0, 0, 0, 0⟩
  | .seFifoPass _ _ => ⟨0, 0, 0, 0, 0⟩
  | .seLutLookup _ _ => ⟨0, 0, 0, 0, 0⟩
  | .warpStoreSetup _ _ => ⟨0, 0, 0, 0, 0⟩
  | .warpStoreFill _ _ => ⟨0, 0, 0, 0, 0⟩
  | .warpStoreRequest _ _ => ⟨0, 0, 0, 0, 0⟩
  | .warpStoreMarker _ _ => ⟨0, 0, 0, 0, 0⟩
  | .configTokenArrive _ _ => ⟨0, 0, 0, 0, 0⟩
  | .siteSwap _ _ => ⟨0, 0, 0, 0, 0⟩
  | .planeDrained _ => ⟨0, 0, 0, 0, 0⟩
  | .streamLoaderRead _ _ => ⟨0, 0, 0, 0, 0⟩
  | .streamLoadInject _ _ => ⟨0, 0, 0, 0, 0⟩
  | .streamStore _ _ => ⟨0, 0, 0, 0, 0⟩
  | .qwcFault _ => ⟨0, 0, 0, 0, 0⟩
  | .watchdogFault _ => ⟨0, 0, 0, 0, 0⟩
  | .mma _ _ => ⟨0, 0, 0, 0, 0⟩
  | .mmac _ _ => ⟨0, 0, 0, 0, 0⟩
  | .bld _ => ⟨0, 0, 0, 0, 0⟩
  | .bswp _ => ⟨0, 0, 0, 0, 0⟩
  | .drn _ => ⟨0, 0, 0, 0, 0⟩
  | .clr _ => ⟨0, 0, 0, 0, 0⟩
  | .chk _ => ⟨0, 0, 0, 0, 0⟩
  | .matrixTokenComplete _ => ⟨0, 0, 0, 0, 0⟩
  | .rillVectorStart _ => ⟨0, 0, 0, 0, 0⟩
  | .rillOutputInject _ => ⟨0, 0, 0, 0, 0⟩
  | .rillMarker _ => ⟨0, 0, 0, 0, 0⟩
  | .fireTokenEnqueue _ _ => ⟨0, 0, 0, 0, 0⟩
  | .copyFiringStart _ _ => ⟨0, 0, 0, 0, 0⟩
  | .copyMarker _ _ => ⟨0, 0, 0, 0, 0⟩
  | .copyReadIssue _ _ _ => ⟨0, 0, 0, 0, 0⟩
  | .copyPiecePerformed _ _ _ => ⟨0, 0, 0, 0, 0⟩
  | .barrierUpdate _ => ⟨0, 0, 0, 0, 0⟩
  | .copyFiringComplete _ _ => ⟨0, 0, 0, 0, 0⟩
  | .copyFault _ _ _ => ⟨0, 0, 0, 0, 0⟩
  | .copyKillDrained _ _ => ⟨0, 0, 0, 0, 0⟩
  | .sluicePictureStart _ _ => ⟨0, 0, 0, 0, 0⟩
  | .sluiceLeaf _ _ _ => ⟨0, 0, 0, 0, 0⟩
  | .sluicePictureEnd _ _ _ => ⟨0, 0, 0, 0, 0⟩
  | .sluiceStreamEnd _ _ => ⟨0, 0, 0, 0, 0⟩
  | .sluiceSyntaxError _ _ _ _ => ⟨0, 0, 0, 0, 0⟩
  | .sluiceUnsupportedSkip _ _ _ => ⟨0, 0, 0, 0, 0⟩
  | .laneFault _ _ _ _ _ => ⟨0, 0, 0, 0, 0⟩
  | .spoutPictureStart _ _ => ⟨0, 0, 0, 0, 0⟩
  | .spoutLeaf _ _ _ => ⟨0, 0, 0, 0, 0⟩
  | .spoutPictureComplete _ _ _ _ => ⟨0, 0, 0, 0, 0⟩
  | .spoutEnd _ _ => ⟨0, 0, 0, 0, 0⟩
  | .floorLowMessage _ => ⟨0, 0, 0, 0, 0⟩
  | .lowAck _ _ => ⟨0, 0, 0, 0, 0⟩
  | .setfApply _ _ => ⟨0, 0, 0, 0, 0⟩
  | .floorRoundStart _ => ⟨0, 0, 0, 0, 0⟩
  | .floorQuery _ _ => ⟨0, 0, 0, 0, 0⟩
  | .floorReply _ _ => ⟨0, 0, 0, 0, 0⟩
  | .balanceRequest _ _ _ => ⟨0, 0, 0, 0, 0⟩
  | .balanceAnswer _ _ _ => ⟨0, 0, 0, 0, 0⟩
  | .pipMoveArrive _ _ => ⟨0, 0, 0, 0, 0⟩
  | .terminationPass _ => ⟨0, 0, 0, 0, 0⟩
  | .spillRefill _ _ => ⟨0, 0, 0, 0, 0⟩
  | .notifyStore _ _ => ⟨0, 0, 0, 0, 0⟩
  | .scannerStep => ⟨0, 0, 0, 0, 0⟩
  | .queueFetch _ => ⟨0, 0, 0, 0, 0⟩
  | .launch _ => ⟨0, 0, 0, 0, 0⟩
  | .regionPlace _ => ⟨0, 0, 0, 0, 0⟩
  | .bind _ => ⟨0, 0, 0, 0, 0⟩
  | .seed _ => ⟨0, 0, 0, 0, 0⟩
  | .contract _ => ⟨0, 0, 0, 0, 0⟩
  | .preempt _ => ⟨0, 0, 0, 0, 0⟩
  | .abort _ => ⟨0, 0, 0, 0, 0⟩
  | .replyResume _ => ⟨0, 0, 0, 0, 0⟩
  | .replyAbort _ => ⟨0, 0, 0, 0, 0⟩
  | .checkpoint _ => ⟨0, 0, 0, 0, 0⟩
  | .checkpointDone _ => ⟨0, 0, 0, 0, 0⟩
  | .paramAtbase _ => ⟨0, 0, 0, 0, 0⟩
  | .paramRemoteBound _ => ⟨0, 0, 0, 0, 0⟩
  | .paramPowerCap _ => ⟨0, 0, 0, 0, 0⟩
  | .paramJournal _ => ⟨0, 0, 0, 0, 0⟩
  | .regionRetire _ => ⟨0, 0, 0, 0, 0⟩
  | .savePoint _ => ⟨0, 0, 0, 0, 0⟩
  | .regionRestore _ => ⟨0, 0, 0, 0, 0⟩
  | .contractPeriodStart _ => ⟨0, 0, 0, 0, 0⟩
  | .contractBudgetExhausted _ => ⟨0, 0, 0, 0, 0⟩
  | .homeAccessPerform _ => ⟨0, 0, 0, 0, 0⟩
  | .atomicPerform _ => ⟨0, 0, 0, 0, 0⟩
  | .memoryResponse _ _ => ⟨0, 0, 0, 0, 0⟩
  | .storeAcknowledge _ => ⟨0, 0, 0, 0, 0⟩
  | .remoteRequestLost _ => ⟨0, 0, 0, 0, 0⟩
  | .translationWalk _ _ => ⟨0, 0, 0, 0, 0⟩
  | .walkComplete _ _ => ⟨0, 0, 0, 0, 0⟩
  | .invalidationReceive _ _ => ⟨0, 0, 0, 0, 0⟩
  | .invalidationAck _ _ => ⟨0, 0, 0, 0, 0⟩
  | .faultTokenRoute _ => ⟨0, 0, 0, 0, 0⟩
  | .rootRequest _ => ⟨0, 0, 0, 0, 0⟩
  | .configStoreEccError _ _ _ => ⟨0, 0, 0, 0, 0⟩
  | .configStoreReloadDone _ => ⟨0, 0, 0, 0, 0⟩
  | .counterClearStore _ => ⟨0, 0, 0, 0, 0⟩
  | .claimRegisterStore _ _ => ⟨0, 0, 0, 0, 0⟩
  | .featureNegotiation _ _ => ⟨0, 0, 0, 0, 0⟩
  | .registerWrite _ _ _ => ⟨0, 0, 0, 0, 0⟩
  | .hostMemoryRequest _ _ _ _ => ⟨0, 0, 0, 0, 0⟩
  | .headLinkDown _ => ⟨0, 0, 0, 0, 0⟩
  | .headLinkUp _ => ⟨0, 0, 0, 0, 0⟩
  | .herranFlitReceive _ _ => ⟨0, 0, 0, 0, 0⟩
  | .herranFlitReplay _ _ => ⟨0, 0, 0, 0, 0⟩
  | .herranPortDown _ => ⟨0, 0, 0, 0, 0⟩
  | .startup _ _ => ⟨0, 0, 0, 0, 0⟩
  | .pldmSensors => ⟨0, 0, 0, 0, 0⟩
  | .pldmFirmwareUpdate _ => ⟨0, 0, 0, 0, 0⟩
  | .spdmGetMeasurements => ⟨0, 0, 0, 0, 0⟩
  | .mgmtReset => ⟨0, 0, 0, 0, 0⟩
  | .mgmtRecovery => ⟨0, 0, 0, 0, 0⟩
  | .mgmtReadCounters _ _ => ⟨0, 0, 0, 0, 0⟩
  | .mgmtSetPackageNumber _ => ⟨0, 0, 0, 0, 0⟩
  | .illegalInstruction _ => ⟨0, 0, 0, 0, 0⟩
  | .instructionFetchFault _ => ⟨0, 0, 0, 0, 0⟩
  | .islandCycle _ => ⟨0, 0, 0, 0, 0⟩
  | .governorClockChange _ _ => ⟨0, 0, 0, 0, 0⟩
  | .planeSoftError _ _ _ _ _ => ⟨0, 0, 0, 0, 0⟩
  | .moveVisibleReport _ _ => ⟨0, 0, 0, 0, 0⟩
  | .setfApplied _ => ⟨0, 0, 0, 0, 0⟩

/-- The word of an instruction (R29 to R44). -/
def encode (i : Instr) : W32 := (fieldsOf i).pack

/-- Four bytes at rising addresses as a word (R4). -/
def wordOfBytes (b0 b1 b2 b3 : Byte) : W32 := b3 ++ b2 ++ b1 ++ b0

/-- The bytes of a word, lowest address first (R4). -/
def bytesOfWord (w : W32) : List Byte :=
  [w.extractLsb' 0 8, w.extractLsb' 8 8, w.extractLsb' 16 8, w.extractLsb' 24 8]

/-- The decoder on bytes: the instruction at their start and the bytes behind it. -/
def decodeBytes : List Byte → Except DecodeError (Instr × List Byte)
  | b0 :: b1 :: b2 :: b3 :: rest =>
    match decode (wordOfBytes b0 b1 b2 b3) with
    | .ok i => .ok (i, rest)
    | .error e => .error e
  | _ => .error .truncated

/-- The instruction the decoder reads from an opcode-table word of `nbits` bits. Every row with an encoding has 32 bits, so the
word is the whole instruction. -/
def decodeTableWord (nbits w : Nat) : Option Instr :=
  if nbits = 0 then none
  else match decodeBytes (bytesOfWord (BitVec.ofNat 32 w)) with
    | .ok (i, _) => some i
    | .error _ => none

end Sys2Proof
end

