-- ==== Sys2Proof/Config.lean ====
section
/-! DEFINITION. The free values: what the spec leaves open, as constants without a body. -/

namespace Sys2Proof

/-- A byte of an SE bank that nothing has written since launch (R122): `gen` counts the launches of the bank's tile (log 6). -/
opaque Config.seByte (gen la : Nat) : Byte

/-- A byte whose contents the spec calls undefined, drawn by number (log 4, log 7). -/
opaque Config.freeByte : Nat → Byte

/-- A 64-bit value the spec leaves open, drawn by number: an unassigned device register, a sensor (log 4, log 15). -/
opaque Config.freeWord : Nat → W64

/-- The revision field of the id register (R378), which the spec does not give (log 15). -/
opaque Config.revision : BitVec 16

/-- The bits of the slice or tile data that a Spout writes for the blocks of a picture (R288, R290), drawn by number: the codec standards
stand outside the spec (log 13); `merged` and `skipped` name the blocks that the Spout chose to code so. -/
opaque Config.codedBits (draw : Nat) (av1 : Bool) (typ qp w4 h4 : Nat) (blocks : List CodedBlock)
    (merged skipped : List Nat) : List Bool

/-- The Herran port, below 36, of a request to a peer package (R388): the route table gives each peer a set of ports, and PA[17:6] chooses one of
them; what the table holds and how it chooses the spec does not give (log 62). -/
opaque Config.herranPort (peer sel : Nat) : Nat

/-- The CXL port, below 4, by which a request for host memory leaves the package (R369): the spec does not say which (log 102). -/
opaque Config.cxlPort (pa : Nat) : Nat

/-- An ECDSA P-384 signature over a digest verifies under a public key (R389): the standard stands outside the spec (log 60). -/
opaque Config.ecdsaP384 (key digest sig : List Byte) : Bool

/-- An HSS signature of two LMS levels over a digest verifies under a public key (R389): the standard stands outside the spec (log 60). -/
opaque Config.hssLms (key digest sig : List Byte) : Bool

/-- The fuses with the hashes of the public keys, as bytes (R389): set as the part is made (log 60). -/
opaque Config.fuses : List Byte

/-- The draw of an island at a clock, in watts (R25, R27), of which the spec gives sums alone (log 63). -/
opaque Config.islandDraw (island mhz : Nat) : Nat

end Sys2Proof
end

