-- ==== Sys2Proof/Machine/Types.lean ====
section
/-! DEFINITION. The records of which the machine's state is made: one structure per unit of the spec, plain data. -/

namespace Sys2Proof.Machine

open Sys2Proof

/-- The kinds of R107. -/
inductive PageKind where
  | normal | writeOnce | device
  deriving DecidableEq, Repr

/-- One translation of a page (R106, R367, R368). -/
structure TlbEnt where
  asid : BitVec 16
  va   : Nat          -- first byte of the page
  size : Nat          -- bytes
  pa   : Nat
  kind : PageKind
  cow  : Bool
  x    : Bool
  w    : Bool
  r    : Bool
  deriving DecidableEq, Repr

/-- An access kind as R115 and R138 check it. -/
inductive Access where
  | load | store | fetch
  deriving DecidableEq, Repr

/-- The operations a home memory tile performs (R131, R137, R139, R140, R262, R268). -/
inductive HomeOp where
  | read | write | add | and | or | xor | min | max | minn | maxn | swp | fadd | cas
  | tbInit | tbArr | tbExp | tbTest | tbWait | woTest
  deriving DecidableEq, Repr

/-- Who issued a request: a word of a context for a register, a word for itself (R402), or an engine. -/
inductive Agent where
  | ctx (t : Nat)
  | own (t : Nat)
  | stream (t vp tok part : Nat)
  | mbld (t seq blk : Nat)
  | copy (die slot piece part : Nat)
  | lane (die : Nat) (spout : Bool) (n seq : Nat)   -- a codec lane: its bitstream, in order, or its output (R295)
  | gone (holder tile : Nat)                -- the region has left (R363): who translated it, and where its events count
  deriving DecidableEq, Repr

/-- Where a request stands: on its way, deferred at its home (R142), performed, or reported lost once (R340). -/
inductive ReqSt where
  | issued | deferred | performed
  deriving DecidableEq, Repr

/-- A request for one sector at most (R131). -/
structure Req where
  id     : Nat
  agent  : Agent
  op     : HomeOp
  pa     : Nat
  n      : Nat                 -- bytes
  kind   : PageKind
  dat    : List Byte           -- bytes to write, the operand, or the bytes read
  expect : W64                 -- the expected value of a CAS, the phase of a TBWAIT
  reg    : Option Reg          -- the register the answer is written to
  signed : Bool
  acked  : Bool                -- the issuing word holds issue until the home acknowledges
  va     : W64
  asid   : BitVec 16
  st     : ReqSt
  failed : Bool                -- a write that found its write-once word present (R144), a read that was lost or met an error (R118)
  retried : Bool               -- R118
  bornAt : W64                 -- cycle count of the issuing tile's island
  ordered : BitVec 3           -- the order of its ORD prefix, as the save image records it (R371)
  stalled : Bool := false      -- it stalls the read input channel of its memory tile (R143)
  lost : Bool := false         -- given up after its retry (R118, R340)
  drops : Nat := 0             -- words of a write-once page that a write found present (R144)
  deriving DecidableEq, Repr

/-- A page-table walk (R367). -/
structure Walk where
  id    : Nat
  tile  : Nat
  asid  : BitVec 16
  va    : W64
  level : Nat
  table : Nat                  -- physical address of the table to read next
  done  : Option (Option TlbEnt)
  stale : Bool                 -- an invalidation of its ASID arrived meanwhile (R369)
  what  : Access
  quiet : Bool                 -- a PREF: no trap, no wait (R124)
  walker : Option Nat := none  -- which of the die's four walkers has it (R368)
  deriving DecidableEq, Repr

/-- A hardware-loop entry (R84, R97). -/
structure LoopEnt where
  cnt  : W32
  beg  : W64
  last : W64
  deriving DecidableEq, Repr

/-- An asynchronous trap held pending (R357). -/
structure Pend where
  code : BitVec 8
  tval : W64
  src  : Nat := 0                 -- the tile whose fault it is
  deriving DecidableEq, Repr

/-- The wait of a word that has issued and not completed (R172, R117, R145, R269, R351, R374). -/
inductive Wait where
  | idle
  | again                                   -- the word tests its own condition again
  | walk (id : Nat)
  | fetch (id : Nat)                        -- no word has issued: its address is being translated
  | access (id : Nat)                       -- its own request
  | own                                     -- reads that it makes for itself (R402)
  | sectors (id pa len next done : Nat) (stop : Bool) -- WOCLR: its number, physical range, next sector, bytes emptied, a deferred read met
  | until (cyc : W64)                       -- TBWAIT: the island cycle at which it gives up
  | arrived                                 -- GBAR, arrived in the open episode
  | later                                   -- GBAR, pending in the open episode
  | episode                                 -- GBAR, its episode is complete
  | flush (id : Nat)                        -- INVR, INVA
  | push (pip : Nat)                        -- WPUSH: a pip not yet visible
  | promo (pip : Nat) (old : W64)           -- WPROMO: a lowering on its way, and the old word 0
  | release (dom : Nat)                     -- WPUSH: its release, in the domain it issued under (R328)
  | pop (dom : Nat)                         -- WPOP, in the domain it issued under
  | drain (dom : Nat)                       -- WDRAIN
  | told (v : W64)                          -- WPOP, WDRAIN: the domain has terminated (R312)
  | park                                    -- PARK
  | slot (x : Lanes)                        -- PWV: what it has read, until a slot is free (R178)
  | ready                                   -- MBLD: its checks have passed, until the queue takes it (R225)
  | round (dom n : Nat)                     -- WFLOOR.R
  | redo                                    -- reads that a save withdrew are to be issued again (R339, R373)
  | answer                                  -- SYSC at the monitor level
  | answered (v : W64)
  | timedOut
  deriving DecidableEq, Repr

/-- One sequencer context (R82, R84). -/
structure Ctx where
  g      : Vector W64 32 := Vector.replicate 32 0
  pc     : W64 := 0
  lvl    : Bool := false          -- true: monitor
  plvl   : Bool := false
  rpos   : W32 := 0
  ret    : W64 := 0
  ldep   : BitVec 2 := 0
  l0     : LoopEnt := ⟨0, 0, 0⟩
  l1     : LoopEnt := ⟨0, 0, 0⟩
  mloop  : List LoopEnt := []     -- the monitor stack, innermost first (R100)
  asid   : BitVec 16 := 0
  tvec   : W64 := 0
  tvset  : Bool := false          -- csr.tvec has been written (R375)
  tcause : BitVec 16 := 0
  tval   : W64 := 0
  epc    : W64 := 0
  mscr   : W64 := 0
  qwc    : W32 := 0
  wdog   : W32 := 0
  ord    : Option (BitVec 3 × BitVec 2) := none   -- an ORD waiting for its access (R40)
  eord   : Option (BitVec 3 × BitVec 2) := none   -- the ORD before the word at csr.epc, which a fetch fault kept apart (R40, log 37)
  mem0   : List (Nat × Byte) := []  -- a root core: generic memory as it stood when the request entered (R114)
  wait   : Wait := .idle
  word   : W32 := 0               -- the word that issued last: the one that waits
  own    : List (Nat × List Byte) := []  -- what it has read for itself so far, by physical address (R402)
  pend   : List Pend := []
  src    : Nat := 0               -- the tile whose fault the trap that it awaits is of (R361, R362)
  dom0   : Option Nat := none     -- the domain in which a WDOM that waits issued (R328)
  holds  : SMap Nat := []         -- hold index to pip number (R313)
  group  : Option (BitVec 3) := none
  pendingMember : Bool := false   -- joined after the open episode's first arrival (R336)
  arrivedAt : Bool := false
  segOpen : Bool := false         -- R337
  tags   : SMap W64 := []         -- the tag table (R125); an absent entry is invalid and reads 0
  halted : Bool := false
  awaiting : Bool := false        -- waits at the monitor level for an answer (R362)
  isRoot : Bool := false
  redo   : List (W64 × W64) := []  -- reads that a save withdrew and whose pages a restore did not find: address and entry (R371, R373)
  deriving DecidableEq, Repr

/-- A token buffer under flow control (R159): slots held, slots reserved by firings, slots freed and not yet reported. -/
structure Buf where
  toks : List Tok := []
  resv : Nat := 0
  ret  : Nat := 0
  ahead : Nat := 0                -- tokens of the head that stand ahead of the config tokens on their way (R165)
  deriving DecidableEq, Repr

/-- The configuration words of one VE (R163). -/
structure VeCfg where
  st : List W32                   -- st1 to st6
  pw : List W32                   -- in0 to in3, out0, out1
  sc : List Byte                  -- sc0 to sc7
  ch : List W32                   -- vc0 to vc31
  deriving DecidableEq, Repr

/-- The configuration of one SE (R163). -/
structure SeCfg where
  word : W32
  pre  : List Byte                -- preload, from unit base
  deriving DecidableEq, Repr

/-- A ring entry of an image (R163) with its head and tail (R160, R372). -/
structure RingCfg where
  base : W64
  lg   : Nat
  deriving DecidableEq, Repr

/-- A cut edge of an image (R163). -/
structure CutCfg where
  tile : BitVec 22
  site : Nat
  deriving DecidableEq, Repr

/-- A configuration plane (R163, R165). -/
structure Plane where
  addr  : W64
  asid  : BitVec 16
  sig   : W64
  mask  : W64
  ves   : SMap VeCfg
  ses   : SMap SeCfg
  links : SMap (List (BitVec 16))
  vps   : SMap W32
  rings : SMap RingCfg            -- by 8 * site + link
  cuts  : SMap CutCfg
  deriving DecidableEq, Repr

/-- A firing that has entered st1 and not left st6 (R151): its results per output port, in order, and the slots it has reserved. -/
structure Firing where
  o0    : List Tok
  o1    : List Tok
  r0    : Bool
  r1    : Bool
  flags : BitVec 6
  marker : Bool
  ep : Bool                       -- the epoch it fired under (R165)
  started : Bool                  -- a marker firing that has emitted its result and waits for a further slot (R154)
  deriving DecidableEq, Repr

/-- The state of one VE (R191, R193, R75). -/
structure Ve where
  acc0  : Lanes := Vector.replicate 16 0
  acc1  : Lanes := Vector.replicate 16 0
  st    : List Lanes := [Vector.replicate 16 0, Vector.replicate 16 0, Vector.replicate 16 0, Vector.replicate 16 0, Vector.replicate 16 0, Vector.replicate 16 0]
  touched : List (BitVec 16) := [0, 0, 0, 0, 0, 0]
  flags : BitVec 6 := 0
  pipe  : List Firing := []       -- oldest first
  lastA : Option (BitVec 16) := none
  lastB : Option (BitVec 16) := none
  skipA : Bool := false
  skipB : Bool := false
  raised : BitVec 6 := 0          -- flags raised in the present island cycle, which a clear in it leaves set (R75)
  pairs : List (W32 × W32) := []
  pairHdrA : List Byte := []      -- kind and vc of the tokens that the pairs' words came from
  pairHdrB : List Byte := []
  eos   : Bool := false
  deriving DecidableEq, Repr

/-- The state of one SE (R156, R279, R280). -/
structure Se where
  fifo  : List Tok := []
  first : Nat := 0                -- the entry, of the FIFO's capacity, in which its oldest token stands
  on    : Bool := false           -- warp reference store set up
  ox    : W32 := 0
  oy    : W32 := 0
  ww    : Nat := 0
  wh    : Nat := 0
  fmt   : Nat := 0
  fill  : Nat := 0
  done1 : Bool := false
  done2 : Bool := false
  outq  : List Tok := []          -- features due on O0
  eos   : Bool := false
  deriving DecidableEq, Repr

/-- A region port bound by STRM or BIND (R169, R170, R335). -/
structure Strm where
  out    : Bool
  desc   : List W64               -- the four doubles of the descriptor
  asid   : BitVec 16
  issued : Nat := 0               -- tokens whose reads are issued
  done   : Nat := 0               -- tokens injected or stored
  sotOut : Bool := false
  eotOut : Bool := false
  sent   : Bool := false          -- all has gone to the decoder (R170): the stream ends when that has injected it
  eosIn  : Bool := false          -- EOS has passed, or, out, has been taken
  ended  : Bool := false          -- the descriptor's tokens are all done: the port is bound no longer
  xbuf   : List Byte := []        -- bytes of the XE8 block being parsed by the loader
  xleft  : Nat := 0               -- blocks not yet parsed
  xbase  : Nat := 0               -- bytes of the blocks parsed
  cmd    : Option (Nat × W32 × W32) := none   -- the BIND command to complete: queue, tag, handle
  deriving DecidableEq, Repr

/-- The XE8 decoder of a region port (R67). -/
structure Xe8 where
  bytes : List Byte := []
  blk   : Nat := 0
  skip  : Bool := false           -- discards until the next marker
  due   : List Tok := []          -- expanded tokens not yet injected
  ahead : Nat := 0                -- how many of them stand ahead of the config tokens on their way (R165, R173)
  deriving DecidableEq, Repr

/-- One plane of a matrix macro (R207). Absent entries are 0, scale 0x7F, ordinary. -/
structure MPlane where
  valid : Bool := false
  bad   : Bool := false
  fmt   : Nat := 0
  k     : Nat := 0                -- loaded shapeK
  n     : Nat := 0                -- loaded shapeN
  b     : SMap Int := []          -- by 128 * k + n
  e     : SMap Int := []          -- E_B by 128 * kb + n
  s     : SMap Byte := []
  spec  : SMap (List Byte) := []  -- the codes of a special block
  b1    : SMap Int := []
  deriving DecidableEq, Repr

/-- The row buffer (R207). -/
structure RowBuf where
  valid : Bool := false
  fmt   : Nat := 0
  rows  : Nat := 0
  kbs   : Nat := 0
  a     : SMap Int := []          -- by 128 * m + k
  e     : SMap Int := []          -- by 4 * m + kb
  s     : SMap Byte := []
  spec  : SMap (List Byte) := []
  deriving DecidableEq, Repr

/-- A matrix token that has been issued and has not completed (R207, R211). -/
structure MTok where
  word : W64
  vp   : Nat
  mem  : Option (W64 × BitVec 16) := none   -- MBLD: where its blocks lie
  seq  : Nat
  started : Bool := false
  taken : Nat := 0
  rb   : RowBuf := {}
  pl   : MPlane := {}
  pos  : Nat := 0                 -- tokens drained
  done : Bool := false
  deriving DecidableEq, Repr

/-- What the matrix node has recorded in the present island cycle, which a clear in it leaves standing (R226): counts, and the bits [7:2] of the node
word from bit 0. -/
structure MNow where
  cinv : BitVec 16 := 0
  crr  : BitVec 16 := 0
  cdmg : BitVec 16 := 0
  fl   : BitVec 6 := 0
  deriving DecidableEq, Repr

/-- The matrix node (R207, R226). -/
structure Matrix where
  act  : List MPlane := [{}, {}, {}, {}]
  ld   : List MPlane := [{}, {}, {}, {}]
  rb   : RowBuf := {}
  ac   : SMap (SMap W32) := []    -- banks; an absent bank or element is +0
  dmg  : W32 := 0
  q    : List MTok := []
  seq  : Nat := 0
  cinv : BitVec 16 := 0
  crr  : BitVec 16 := 0
  cdmg : BitVec 16 := 0
  spec : Bool := false
  clip : Bool := false
  skip : Bool := false
  lerr : Bool := false
  short : Bool := false
  lost : Bool := false
  now  : MNow := {}
  deriving DecidableEq, Repr

/-- A rill slot (R242, R247). -/
structure RSlot where
  valid : Bool := false
  head  : Bool := false
  ii    : Nat := 0
  nin   : Nat := 0
  nout  : Nat := 0
  sig   : W64 := 0
  addr  : W64 := 0
  asid  : BitVec 16 := 0
  deriving DecidableEq, Repr

/-- Four counts of a status word, as they have risen in the present cycle: a clear in it leaves these standing (R247, R296, R325). -/
structure Tally where
  c3 : BitVec 16 := 0
  c2 : BitVec 16 := 0
  c1 : BitVec 16 := 0
  c0 : BitVec 16 := 0
  deriving DecidableEq, Repr

/-- The rill array (R231, R242 to R247). -/
structure Rill where
  nodes : SMap (W32 × W32) := []  -- by 1024 * slot + 32 * col + row
  slots : List RSlot := [{}, {}, {}, {}]
  ctl   : W64 := 0
  map1  : W64 := 0
  map2  : W64 := 0
  half  : Option (Tok × Nat) := none  -- the first token of a two-token vector, and its slot
  infl  : List (List Tok) := []   -- vectors in the array, oldest first, as the output tokens they will give
  closing : Bool := false         -- a part-0 RSEL waits: no new input token is taken
  brc   : BitVec 16 := 0
  sato  : BitVec 16 := 0
  drop  : BitVec 16 := 0
  skip  : BitVec 16 := 0
  now   : Tally := {}             -- brc, sato, drop and skip of the present cycle
  lost  : Bool := false
  deriving DecidableEq, Repr

/-- A token at a tile's router ingress (R54): from which cut edge it came, or for which XE8 port it is (64 more for the first token
of a stream), and the site it is for. -/
structure InTok where
  src  : Nat                      -- sending tile × 1024 + link key of a cut edge
  site : Nat
  xe8  : Option Nat
  tok  : Tok
  ahead : Bool := false           -- it stands ahead of the config tokens on their way (R165, R173)
  deriving DecidableEq, Repr

/-- One user tile (R13). -/
structure Tile where
  region : Nat := 0               -- handle, 0 when free
  frozen : Bool := false
  tlb    : List TlbEnt := []      -- oldest first
  warp   : W64 := 0               -- the WARPSET double (R286)
  p0     : Option Plane := none   -- the planes, by epoch
  p1     : Option Plane := none
  epoch  : Bool := false          -- the epoch of a site that has not swapped
  flipped : List Nat := []        -- sites that have swapped in the swap in progress
  swapping : Bool := false
  strict : Bool := false
  loading : Option Plane := none  -- an accepted image whose config tokens are on their way (R165)
  arrived : List Nat := []        -- sites whose shadow plane is complete
  bufs   : SMap Buf := []
  ves    : SMap Ve := []
  ses    : SMap Se := []
  banks  : SMap Nat := []         -- bank owner codes (R157); absent: 0, free
  sem    : SMap Byte := []        -- SE bytes written since launch, by local address
  gen    : Nat := 0               -- which free contents the unwritten SE bytes have
  ports  : SMap Strm := []
  held   : List Nat := []         -- ports that EOS has passed
  windows : SMap Nat := []        -- cut edges: the sender's window, by 8 * site + link, 512 more in the plane of epoch 1
  ringHT : SMap (Nat × Nat) := [] -- ring head and tail, by the same key
  turns  : SMap Nat := []         -- the link that a hop to another site served last, by 4 * site + direction (R159)
  seqBanks : List Nat := []       -- SE banks that the sequencer accessed in the present island cycle (R123)
  inq    : List InTok := []       -- the router ingress (R54)
  xe8    : SMap Xe8 := []
  mx     : Matrix := {}
  rill   : Rill := {}
  stray  : W32 := 0
  dropped : W32 := 0
  reload : Option (EccWhere) := none
  deriving DecidableEq, Repr

/-- The firing of a copy slot (R254 to R258): its argument and token, the lowest piece not performed, the pieces above it that are
performed, and the pieces whose reads are issued. -/
structure CopyFir where
  k    : Nat
  tok  : Tok
  low  : Nat := 0
  perf : List Nat := []
  issued : List Nat := []
  deriving DecidableEq, Repr

/-- A copy slot (R250 to R267). -/
structure CSlot where
  st    : Nat := 1                -- the state code of R266
  region : Nat
  tile  : Nat
  asid  : BitVec 16
  tpl   : List W64                -- the sixteen doubles of the descriptor
  count : Nat := 0
  fir   : Option CopyFir := none
  cause : Nat := 0
  fva   : W64 := 0
  off   : Nat := 0                -- o, as recorded at the suspension (R260)
  done  : Nat := 0                -- completion steps made (R258): 0 none, 1 arrival, 2 pip, 3 chain waiting
  owed  : Nat := 0                -- piece updates that its barrier has not been sent (R258, R260)
  cfir  : BitVec 16 := 0
  cdrop : BitVec 16 := 0
  czf   : BitVec 16 := 0
  cwor  : BitVec 16 := 0
  pushed : Option Nat := none     -- the pip that its completion has pushed, until it is visible (R258, R319)
  lastq : Nat := 0                -- the bank queue that its last gather read was of (R257)
  detVp : Bool := false
  detFvp : Bool := false
  deriving DecidableEq, Repr

/-- A barrier update on its way to its home (R258, R262). -/
structure BarUpd where
  id   : Nat
  va   : W64
  asid : BitVec 16
  pa   : Nat
  ds   : Nat
  da   : Nat
  die  : Nat
  slot : Nat
  deriving DecidableEq, Repr

/-- A codec lane (R272 to R296). -/
structure Lane where
  region : Nat
  tile   : Nat
  asid   : BitVec 16
  desc   : List W64
  st     : Nat := 1               -- the state code of R296
  cause  : Nat := 0
  fva    : W64 := 0
  off    : Nat := 0               -- Sluice: the offset of the first byte not parsed
  pics   : Nat := 0
  open_  : Bool := false          -- inside a picture
  outq   : List (Nat × Tok) := [] -- Sluice: tokens due: port number and token
  fire   : Bool := false          -- Sluice: a fire token is due after the last EOT
  inLeaf : Bool := false          -- Sluice: inside a leaf, its EOB still due
  leaves : Nat := 0               -- Sluice: leaves of the picture so far
  rows   : Nat := 0               -- Sluice: rows of the picture that have ended
  errs   : Nat := 0               -- Sluice: syntax errors in the picture
  head   : Option PicHead := none -- Sluice: the headers of the picture
  dpb    : List (Option W32) := List.replicate 7 none -- Sluice: the order counts of the reference slots
  asked  : Nat := 0               -- Sluice: bytes whose reads are issued
  answered : Nat := 0             -- Sluice: bytes answered
  bad    : List (Nat × Nat) := [] -- Sluice: the bytes answered that were lost or met an error, from one offset to another
  mid    : Bool := false          -- Sluice: a SOT of a picture has been injected, and not yet its last EOT (R337)
  seen   : SMap Nat := []         -- Sluice: cells of the picture parsed or covered, by 16 × 16 square
  tpl    : Option (List Byte) := none
  nextTpl : Option (List Byte) := none
  side   : Option Tok := none     -- Spout: the picture header
  toks   : List Tok := []         -- Spout: the C tokens of the leaf being taken
  blocks : List CodedBlock := []  -- Spout: what it codes of the picture, in coding order
  pos    : Nat := 0               -- Spout: where the last block ended in coding order
  fill   : Nat := 0               -- Spout: fill blocks of the CTB or superblock that is not finished
  out    : List (W64 × List Byte) := [] -- Spout: writes of the picture's slot not yet issued
  fin    : Bool := false          -- Spout: the picture is complete but for its writes
  c3     : BitVec 16 := 0
  c2     : BitVec 16 := 0
  c1     : BitVec 16 := 0
  c0     : BitVec 16 := 0
  now    : Tally := {}            -- these counts in the present cycle
  deriving DecidableEq, Repr

/-- A fire token that waits at its source (R253, R258). -/
structure FireWait where
  q    : Nat
  tok  : Tok
  slot : Option Nat               -- the slot whose chain it is
  region : Nat
  lane : Option (Bool × Nat) := none -- the codec lane that sends it: a Spout lane, and its number
  tile : Nat := 0                 -- the tile whose counters its drop is counted in (R401)
  deriving DecidableEq, Repr

/-- A command that a conduit has fetched (R331, R379, R380). -/
structure Cmd where
  q    : Nat
  prio : Nat                      -- the queue's priority, latched at the fetch
  ordn : Nat                      -- the order of fetching
  d    : List W64                 -- the eight doubles
  deriving DecidableEq, Repr

/-- The engines of one compute die. -/
structure Die where
  slots : SMap CSlot := []
  lastSlot : Nat := 63            -- the slot whose read was issued last (R257)
  fireq : SMap (List Tok) := []
  fwait : List FireWait := []
  sluice : SMap Lane := []
  spout : SMap Lane := []
  ctlb  : List TlbEnt := []       -- the copy engine complex (R368)
  etlb  : SMap (List TlbEnt) := [] -- loaders 0 to 9, storers 16 to 25, Sluice lanes 32 to 47, Spout lanes 48 to 63
  wcache : SMap (List (BitVec 16 × Nat × W64)) := []   -- the table entries that each walker caches (R368)
  cmds  : List Cmd := []          -- fetched commands, oldest first
  deriving DecidableEq, Repr

/-- A pip where it stands (R298, R304, R308). -/
inductive PipAt where
  | pending (die : Nat) | visible (die : Nat) | ring (die : Nat) | held (die : Nat)
  | moving (src dst : Nat)
  deriving DecidableEq, Repr

/-- A pip of a domain. -/
structure Pip where
  id   : Nat
  w    : List W64                 -- the four doubles of the record
  at_  : PipAt
  src  : Option Nat := none       -- the die that still counts a moved pip (R308)
  tile : Nat                      -- the tile of the context that pushed or holds it (R401)
  deep : Bool := false            -- a pending pip that has gone to the spill ring (R302)
  deriving DecidableEq, Repr

/-- Messages to the floor master and its progress (R306, R307, R309). -/
inductive MasterSt where
  | rest
  | lowering (pip die : Nat) (back : Bool)   -- back: a round is collecting replies
  | collecting
  | spreading
  deriving DecidableEq, Repr

/-- One die's share of a domain (R304, R311). -/
structure DomDie where
  f   : Nat := 0
  t   : Nat := 0
  p   : W64 := 0
  r   : W64 := 0
  psh : BitVec 16 := 0
  pop : BitVec 16 := 0
  rpl : BitVec 16 := 0
  drp : BitVec 16 := 0
  now : Tally := {}               -- psh, pop, rpl and drp of the present cycle
  last : W64 := 0                 -- word 0 of the last unreplayable pip
  setf : Option Nat := none       -- a SETF on its way
  query : Bool := false
  reply : Option Nat := none
  askedAt : Option W64 := none
  asks : List Nat := []           -- dies asked and not yet answered
  askedAll : List Nat := []
  idle1 : Option (W64 × W64) := none   -- what it answered in pass 1
  deriving DecidableEq, Repr

/-- A Cascade domain (R300 to R312). Dies are numbered 4p + d over the package list. -/
structure Domain where
  desc  : List W64
  asid  : BitVec 16
  pkgs  : List Nat                -- the package list
  here  : Nat                     -- this package's place in it
  dies  : List Nat
  master : Nat
  floor : Nat := 0
  pend  : Nat := 65536
  got   : Nat := 65536            -- the least reply of the round so far
  st    : MasterSt := .rest
  lows  : List (Nat × Nat) := []  -- LOW messages: pip, die
  acks  : List (Nat × Nat) := []  -- acknowledgements on their way: pip, die
  asked : Bool := false           -- a round is asked for
  rounds : Nat := 0               -- rounds ended
  lastRound : W64 := 0
  lastTerm : Option W64 := none
  pass1 : Bool := false
  term  : Bool := false
  pips  : List Pip := []          -- in the order they came
  share : SMap DomDie := []
  members : List Nat := []        -- regions of this package
  reports : List (Nat × Nat) := [] -- a moved pip became visible: the die that counts it, its basin
  deriving DecidableEq, Repr

/-- A contract (R343 to R345). -/
structure Contract where
  frames : Bool
  tile  : Nat
  vp    : Nat
  p     : Nat
  b     : Nat
  start : W64                     -- cycle at which the present period began
  began : Bool
  num   : W32
  left  : Nat
  ovr   : BitVec 16
  due   : Option W64 := none      -- a frame period delayed to P_min
  out   : Bool := false           -- the budget has run out in this period, and is not yet looked at
  above : Bool := false           -- the period has been counted as one over a lower cap (R390)
  deriving DecidableEq, Repr

/-- Where a region stands. -/
inductive RegionSt where
  | waiting | running | saved
  deriving DecidableEq, Repr

/-- A fault token (R362). -/
structure FaultTok where
  cause : BitVec 16
  tval  : W64
  epc   : W64
  tile  : Nat
  region : Nat
  stage : Nat                     -- 0 die root, 1 package root, 2 host; settled by a root core: 3 by an abort, 4 with nothing further
  asks  : Bool                    -- no report only: the host's reply settles it
  asid  : BitVec 16 := 0          -- that of the context that it comes from, as it was sent (R375)
  deriving DecidableEq, Repr

/-- A region (R16, R17, R333 to R348). -/
structure Region where
  st    : RegionSt
  queue : Nat
  tag   : W32
  lprio : Nat
  qprio : Nat
  ordn  : Nat                     -- order of fetching (R331)
  asid  : BitVec 16
  dies  : Nat
  image : W64
  lp    : Nat
  recVa : W64
  saveVa : W64
  live  : BitVec 128
  w     : Nat := 0
  h     : Nat := 0
  die   : Nat := 0
  ty    : Nat := 0
  tx    : Nat := 0
  codeVa : W64 := 0
  code  : List Byte := []         -- the code as it stood when the region was launched (R114)
  mem0  : List (Nat × Byte) := [] -- generic memory as it stood then, which the fetch of other pages reads (R114)
  entry : Nat := 0
  set   : Option (Nat × Nat) := none -- while it waits: its launch set, and the number of parts of that (R334)
  domain : Option Nat := none
  latched : Bool := false
  waited : Option Nat := none     -- cycles since a segment boundary was reached with a request latched (R346)
  late  : Nat := 0                -- cycles unsaved beyond L_p (R346)
  preCmds : List (Nat × W32) := []  -- PREEMPT commands to complete: queue and tag
  contract : Option Contract := none
  gArr  : List Nat := []          -- groups whose open episode has had its first arrival
  quiet : Nat := 0                -- QWC count
  stir  : Bool := false           -- a VE has fired or a token has moved in the present cycle (R171)
  idle  : Nat := 0                -- watchdog count
  frozen : Bool := false
  faults : List FaultTok := []    -- the faults that await the host's reply, in the order in which they came to it
  nfaults : W32 := 0
  dropped : Bool := false
  sctx  : SMap Ctx := []          -- by position: the contexts as they stood at the save point (R82, R371)
  areas : SMap Nat := []          -- by position: the virtual address of the tile's save area (log 16)
  rings : List (BitVec 16 × RingCfg) := [] -- saved: the spill rings of its planes, with their ASIDs (R150)
  deriving DecidableEq, Repr

/-- What the save image names no place for (R372, log 16), by the area it was written to and by what the image says: the epoch, the windows
of warp stores, the sites that have passed EOS, bank owners, decoders and bindings as they stood. -/
structure Kept where
  asid  : BitVec 16
  va    : W64
  sum   : W64                     -- the CRC of the image
  epoch : Bool
  ses   : SMap Se
  eos   : List Nat
  held  : List Nat
  banks : SMap Nat
  xe8   : SMap Xe8
  ports : SMap Strm
  inq   : List InTok
  deriving DecidableEq, Repr

/-- An invalidation (R369). -/
structure Inval where
  id    : Nat
  asid  : Option (BitVec 16)
  lo    : Nat
  hi    : Nat
  todo  : List Nat                -- holders that have not received it
  acks  : List Nat                -- holders that have not acknowledged
  wait  : SMap (List Nat)         -- requests a holder waits for
  deriving DecidableEq, Repr

/-- A root core's request (R375): a SYSC of tile `t` of region `h` with its destination and argument, a fault token, or the answer of
a SYSC on its way back. -/
inductive RootReq where
  | sysc (t h : Nat) (d : Reg) (arg : W64)
  | fault (f : FaultTok)
  | answer (t h : Nat) (d : Reg) (v : W64)
  deriving DecidableEq, Repr

/-- A work queue (R329, R379). -/
structure Queue where
  base  : W64 := 0
  cfg   : W64 := 0
  fetched : W32 := 0
  posted : W32 := 0
  cbase : W64 := 0
  cseq  : W64 := 0                -- completion records written
  deriving DecidableEq, Repr

/-- A Herran port (R388). -/
structure Port where
  rxSeq : SMap Nat := []          -- by virtual lane: the number of the flit taken last
  fails : Nat := 0                -- failed replays of the flit that is awaited
  wait  : Bool := false           -- a flit failed its CRC and is to be replayed
  down  : Bool := false
  ack   : Nat := 0                -- the flit of this package that the peer's last flit acknowledges
  got   : SMap (List (List Byte)) := []  -- by virtual lane: its flits, in the order in which they came
  deriving DecidableEq, Repr

/-- The hub die and the package's own registers. -/
structure Hub where
  pkg   : BitVec 12 := 0
  pkgNext : BitVec 12 := 0
  atbase : Nat := 0
  br    : Nat := 4096
  cap   : Nat := 3000
  capOver : W32 := 0              -- periods in which contracted islands exceed a lower cap (R390)
  queues : SMap Queue := []
  pvec  : List Nat := []          -- the set bits of the pending vector, rising
  scan  : Nat := 0
  fetches : List (Nat × Nat) := [] -- fetch requests: die, queue
  jset  : Bool := false
  jbase : Nat := 0
  jlg   : Nat := 0
  jseq  : W64 := 0
  devfeat : BitVec 256 := 0
  drvfeat : BitVec 256 := 0
  done  : Bool := false
  ok    : Bool := false
  gen   : List (BitVec 16) := [0, 0, 0, 0]
  live  : BitVec 4 := 0
  up    : BitVec 4 := 0           -- the heads whose links are up
  claim : BitVec 4 := 0
  hand  : SMap Byte := []         -- handover bytes 40 to 2047, by offset
  magic : Bool := false
  ports : SMap Port := []
  recovery : Bool := true
  booted : Bool := false
  digest : List W64 := []
  fw    : List W64 := []          -- the firmware image that runs, and the one for the next start-up
  fwNext : List W64 := []
  reply : List W64 := []          -- the last management answer
  lateReqs : W32 := 0             -- pre-emption requests discarded at a retirement (R21)
  ckpt  : Option (Nat × W32 × W64 × W64) := none -- a checkpoint in progress: queue, tag, route, target
  deriving DecidableEq, Repr

end Sys2Proof.Machine
end

