-- ==== Sys2Proof/Machine/State.lean ====
section
/-! DEFINITION. The state of the machine, all of it plain data, its faults and refusals, and the state after reset. -/

namespace Sys2Proof.Machine

open Sys2Proof

/-- Who moves next (log 1): the context of a tile, whose word issues, or one step of another agent. -/
inductive Turn where
  | word (t : TileId)
  | event (i : Instr)
  deriving DecidableEq, Repr

/-- Generic memory (R103, R108): bytes by physical address, in strictly rising order; an unlisted byte reads 0 (log 5). -/
abbrev Memory := List Host.Cell

/-- The byte an unlisted address reads as (log 5). -/
def Memory.blank : Byte := 0

/-- The canonical form: rising addresses, and no entry that equals what an unlisted address reads as. -/
abbrev Memory.wf (m : Memory) : Prop :=
  SMap.rising m = true ∧ m.all (fun c => c.2 != Memory.blank) = true

/-- Why a step stops. -/
inductive Fault where
  /-- Raised by a step of the hub (QUEUE_FETCH, HOST_MEMORY_REQUEST) whose command, ring or request names a physical address
  outside the ranges of R108: the spec says such an address is not populated and gives the access no effect. Safe (log 9). -/
  | unpopulated (pa : Nat)
  deriving DecidableEq, Repr

/-- Why an instruction has no meaning. -/
inductive Refusal where
  /-- Raised by an arm of `exec` whose instruction has no meaning in this model. Safe. -/
  | notModelled (mnemonic : String)
  deriving DecidableEq, Repr

/-- The machine. -/
structure State where
  agenda  : List Turn        -- the model's own: which agent moves next (log 1)
  cur     : TileId           -- the model's own: the tile whose context issues when the agenda is empty (log 1)
  ctxs    : SMap Ctx         -- sequencer contexts by tile (R17, R82), the root core of die d at 256 d + 255 (R375)
  tiles   : SMap Tile        -- user tiles (R12, R13)
  dies    : SMap Die         -- the engines of each compute die
  mem     : Memory
  pages   : List TlbEnt      -- the pages of launched code and data sections, newest first (R110)
  present : List Nat         -- write-once words whose presence bit is set (R107, R142), by physical address div 8, rising
  reqs    : List Req         -- requests in flight, oldest first (R131)
  walks   : List Walk        -- table walks in progress (R367)
  invals  : List Inval       -- invalidations in progress (R369)
  bars    : List BarUpd      -- barrier updates in flight (R258)
  regions : SMap Region      -- by handle (R16)
  domains : SMap Domain      -- Cascade domains (R300)
  ftoks   : List FaultTok    -- fault tokens on the tree (R362)
  roots   : SMap RootReq     -- the request each root core serves, by die (R375)
  rootq   : List (Nat × RootReq)
  rtlb    : SMap (List TlbEnt)  -- root-core translation caches (R368)
  kept    : List Kept        -- the model's own: beside the save images (log 16)
  hub     : Hub
  cyc     : SMap W64         -- cycle counters of the islands (R24, R86)
  mhz     : SMap Nat         -- island clocks (R24, R25)
  ctr     : SMap W32         -- error counters by double number of the device range (R366)
  nextId  : Nat              -- the model's own: numbers for requests, walks and pips
  nextHandle : Nat           -- the model's own: the next region handle (log 8)
  free    : Nat              -- the model's own: free values drawn so far (log 4)
  deriving DecidableEq, Repr

/-- The tile number of the root core of die `d` (R9). -/
def rootTile (d : Nat) : Nat := 256 * d + 255

/-- A root core right after reset: at the monitor level (R375), every other register at the value log 3 names. -/
def Ctx.root : Ctx := { lvl := true, plvl := true, isRoot := true }

/-- The machine right after reset: no region, no configuration, nothing in flight, the queues disabled (R389) and the root cores
without a request (R375). -/
def State.reset : State where
  agenda := []
  cur := 0
  ctxs := [(rootTile 0, Ctx.root), (rootTile 1, Ctx.root), (rootTile 2, Ctx.root), (rootTile 3, Ctx.root)]
  tiles := []
  dies := []
  mem := []
  pages := []
  present := []
  reqs := []
  walks := []
  invals := []
  bars := []
  regions := []
  domains := []
  ftoks := []
  roots := []
  rootq := []
  rtlb := []
  kept := []
  hub := {}
  cyc := []
  mhz := []
  ctr := []
  nextId := 0
  nextHandle := 1
  free := 0

/-- What a meaning answers. -/
abbrev Out := Host.Outcome State Fault Refusal

end Sys2Proof.Machine
end

