-- ==== Sys2Proof/Machine/Ops.lean ====
section
/-! DEFINITION. The named operations over the parts of the state: contexts, tiles, memory bytes, counters, registers, the
advance of the program counter with its hardware loops, and taking an exception and returning from one. -/

namespace Sys2Proof.Machine

open Sys2Proof

/-! ### Parts of the state -/

/-- The context of tile `t`, if it has one. -/
def State.ctxAt (s : State) (t : Nat) : Option Ctx := SMap.get? s.ctxs t
/-- Write the context of tile `t`. -/
def State.setCtx (s : State) (t : Nat) (c : Ctx) : State := { s with ctxs := SMap.put s.ctxs t c }
/-- The context whose word issues. -/
def State.curCtx (s : State) : Option Ctx := s.ctxAt s.cur.toNat
/-- Write the context whose word issues. -/
def State.setCur (s : State) (c : Ctx) : State := s.setCtx s.cur.toNat c
/-- User tile `t`. -/
def State.tile (s : State) (t : Nat) : Tile := SMap.getD s.tiles t {}
/-- Write user tile `t`. -/
def State.setTile (s : State) (t : Nat) (x : Tile) : State := { s with tiles := SMap.put s.tiles t x }
/-- Change user tile `t`. -/
def State.updTile (s : State) (t : Nat) (f : Tile → Tile) : State := s.setTile t (f (s.tile t))
/-- Die `d`. -/
def State.die (s : State) (d : Nat) : Die := SMap.getD s.dies d {}
/-- Write die `d`. -/
def State.setDie (s : State) (d : Nat) (x : Die) : State := { s with dies := SMap.put s.dies d x }
/-- Write region `h`. -/
def State.setRegion (s : State) (h : Nat) (r : Region) : State := { s with regions := SMap.put s.regions h r }
/-- Region `h`. -/
def State.region? (s : State) (h : Nat) : Option Region := SMap.get? s.regions h

/-- die of a tile number (R10). -/
def tileDie (t : Nat) : Nat := t / 256 % 4
/-- ty of a tile number. -/
def tileTy (t : Nat) : Nat := t / 16 % 16
/-- tx of a tile number. -/
def tileTx (t : Nat) : Nat := t % 16
/-- The tile number of die, ty and tx. -/
def tileNo (d ty tx : Nat) : Nat := 256 * d + 16 * ty + tx
/-- A tile number of a user tile (R9). -/
def isUserTile (t : Nat) : Bool := t < 1024 && tileTy t < 10 && tileTx t < 10
/-- A pair that R9 lists. -/
def isTile (ty tx : Nat) : Bool :=
  (ty < 10 && tx < 12) || (ty == 10 && tx < 10) || (ty == 11 && tx < 10) || (ty == 15 && tx == 15)

/-- The region of tile `t`, with its handle. -/
def State.regionOf (s : State) (t : Nat) : Option (Nat × Region) :=
  let h := (s.tile t).region
  match s.region? h with
  | some r => if h = 0 then none else some (h, r)
  | none => none

/-- The tiles of a placed region in the order ry × rw + rx (R84). -/
def Region.tiles (r : Region) : List Nat :=
  (List.range (r.w * r.h)).map fun i => tileNo r.die (r.ty + i / r.w) (r.tx + i % r.w)

/-- The south-west tile of a region (R171). -/
def Region.sw (r : Region) : Nat := tileNo r.die r.ty r.tx

/-- Change the context of tile `t`, if it has one. -/
def State.updCtx (s : State) (t : Nat) (f : Ctx → Ctx) : State :=
  match s.ctxAt t with
  | some c => s.setCtx t (f c)
  | none => s

/-- The code of a fault token's cause (R358). -/
def FaultTok.code (f : FaultTok) : Nat := f.cause.toNat % 256

/-! ### Islands and counters -/

/-- The island of a tile of a compute die (R24, R344): tile pairs first, then the loader column, the storer column, the memory
row, and the conduit row with the root core. -/
def islandOf (t : Nat) : Nat :=
  60 * tileDie t +
    (if tileTy t < 10 ∧ tileTx t < 10 then tileTx t / 2 + 5 * tileTy t
     else if tileTx t = 11 ∧ tileTy t < 10 then 50
     else if tileTx t = 10 ∧ tileTy t < 10 then 51
     else if tileTy t = 11 then 52
     else 53)

/-- The hub control island (R24). -/
def hubIsland : Nat := 255

/-- The cycle count of island `i` (R86). -/
def State.cycles (s : State) (i : Nat) : W64 := SMap.getD s.cyc i 0

/-- Add `n` to a saturating 16-bit counter. -/
def sat16 (c : BitVec 16) (n : Nat) : BitVec 16 := BitVec.ofNat 16 (min 65535 (c.toNat + n))
/-- Add `n` to a saturating 32-bit counter. -/
def sat32 (c : W32) (n : Nat) : W32 := BitVec.ofNat 32 (min 4294967295 (c.toNat + n))

/-- Add to the four counts of a cycle. -/
def Tally.add (x : Tally) (n3 n2 n1 n0 : Nat) : Tally := ⟨sat16 x.c3 n3, sat16 x.c2 n2, sat16 x.c1 n1, sat16 x.c0 n0⟩

/-- Add `n` to an error counter, by its double number in the device range (R366). -/
def State.count (s : State) (dbl n : Nat) : State :=
  if n = 0 then s else { s with ctr := SMap.upd s.ctr dbl 0 (fun c => sat32 c n) }

/-- The double number of double `j` of tile `t`'s block (R366). -/
def ctrTile (t j : Nat) : Nat := 512 * t + j
/-- The double number of double `j` of hub island `i`'s block (R366). -/
def ctrHub (i j : Nat) : Nat := 0x80000 + 512 * i + j

/-- Count `n` in double `j` of tile `t`'s block, or of the die's root core where the tile's region has gone (R401). -/
def State.countTile (s : State) (t j n : Nat) : State :=
  s.count (ctrTile (if isUserTile t ∧ (s.tile t).region = 0 then rootTile (tileDie t) else t) j) n

/-- Count `n` in double `j` of the block of the tile that owns the work of an engine for region `h`, or of its die's root core where that
region has retired (R401). -/
def State.countWork (s : State) (t h j n : Nat) : State :=
  s.count (ctrTile (if (s.region? h).isSome then t else rootTile (tileDie t)) j) n

/-- The clock of island `i` in MHz (R24): the full clock until a governor has set another (log 3). -/
def State.clock (s : State) (i : Nat) : Nat := SMap.getD s.mhz i 2400

/-- Draw a free value's number (log 4). -/
def State.draw (s : State) (n : Nat) : State := { s with free := s.free + n }

/-! ### Bytes and memory -/

/-- The value of bytes, lowest address first (R4). -/
def leNat : List Byte → Nat
  | [] => 0
  | b :: bs => b.toNat + 256 * leNat bs

/-- The `n` low bytes of a value, lowest address first (R4). -/
def leBytes : Nat → Nat → List Byte
  | 0, _ => []
  | n + 1, x => BitVec.ofNat 8 x :: leBytes n (x / 256)

/-- The byte at physical address `a`. -/
def Memory.get (m : Memory) (a : Nat) : Byte := (SMap.get? m a).getD Memory.blank

/-- Write the byte at physical address `a`, keeping the canonical form. -/
def Memory.put (m : Memory) (a : Nat) (b : Byte) : Memory :=
  if b = Memory.blank then SMap.del m a else SMap.put m a b

/-- The `n` bytes at `a`. -/
def Memory.bytes (m : Memory) (a : Nat) : Nat → List Byte
  | 0 => []
  | n + 1 => m.get a :: Memory.bytes m (a + 1) n

/-- Write bytes at `a` upward. -/
def Memory.putBytes (m : Memory) (a : Nat) : List Byte → Memory
  | [] => m
  | b :: bs => Memory.putBytes (m.put a b) (a + 1) bs

/-- The `n` bytes at `a` as one little-endian value (R7). -/
def Memory.nat (m : Memory) (a n : Nat) : Nat := leNat (m.bytes a n)

/-- The first three ranges of R108: what a package holds itself. -/
def inPackage (pa : Nat) : Bool :=
  pa < 0x4000000000 || (0x20000000000 ≤ pa && pa < 0x38000000000) || (0x3F000000000 ≤ pa && pa < 0x40000000000)
/-- Peer memory (R108). -/
def isPeer (pa : Nat) : Bool := 0x80000000000000 ≤ pa && pa < 0xC0000000000000
/-- The ranges of R108 that are populated: the package's own, host memory, and of peer memory what the peer's first three ranges hold. -/
def populated (pa : Nat) : Bool :=
  inPackage pa || (0x40000000000000 ≤ pa && pa < 0x80000000000000) || (isPeer pa && inPackage (pa % 2 ^ 42))

/-- Device memory of the package: stacked DRAM and LPDDR-6 (R108). -/
def inDeviceMemory (pa : Nat) : Bool := pa < 0x4000000000 || (0x20000000000 ≤ pa && pa < 0x38000000000)
/-- The device registers (R108). -/
def inDevice (pa : Nat) : Bool := 0x3F000000000 ≤ pa && pa < 0x40000000000
/-- Host or peer memory (R108). -/
def isRemote (pa : Nat) : Bool := 0x40000000000000 ≤ pa

/-- The home memory tile of an address under the rule for a package's own ranges (R109): die and tx. -/
def homeIn (pa : Nat) : Nat × Nat :=
  (if pa < 0x4000000000 then pa / 0x1000000000 else pa / 4096 % 4, pa / 64 % 10)

/-- The home memory tile of a sector (R109): of a peer sector by its peer-local address. -/
def homeOf (pa : Nat) : Nat × Nat := homeIn (if isPeer pa then pa % 2 ^ 42 else pa)

/-- The tile number of a sector's home; a peer's tiles are numbered behind this package's 1,024, by its package number. -/
def homeTile (pa : Nat) : Nat :=
  tileNo (homeOf pa).1 11 (homeOf pa).2 + if isPeer pa then 1024 * (1 + pa / 2 ^ 42 % 4096) else 0

/-- Count `n` in double `j` of the block of a home memory tile (R366); a peer's homes count in the peer (log 67). -/
def State.countHome (s : State) (pa j n : Nat) : State := if isPeer pa then s else s.countTile (homeTile pa) j n

/-- Insert into a rising list without repeats. -/
def insRising : List Nat → Nat → List Nat
  | [], k => [k]
  | j :: l, k => if k < j then k :: j :: l else if k = j then j :: l else j :: insRising l k

/-- The presence bit of the 8-byte word that holds `pa` (R107). -/
def State.present? (s : State) (pa : Nat) : Bool := s.present.contains (pa / 8)

/-! ### Registers -/

/-- Read a general register; g0 reads zero (R82). -/
def Ctx.r (c : Ctx) (x : Reg) : W64 := if x = 0 then 0 else c.g[x.toNat]

/-- Write a general register; a write to g0 is discarded (R30). -/
def Ctx.w (c : Ctx) (x : Reg) (v : W64) : Ctx :=
  if x = 0 then c else { c with g := c.g.set x.toNat v }

/-! ### The advance of the program counter -/

/-- A word address: the program counter always holds a multiple of 4 (R82), so the low bits of a rewritten lbeg are not used (log 19). -/
def wordAddr (x : W64) : W64 := x &&& 0xFFFFFFFFFFFFFFFC#64

/-- The loop check of R98 on a stack, innermost entry first: the stack and the address after the word at `a`. -/
def loopStep (a : W64) : List LoopEnt → List LoopEnt × W64
  | [] => ([], a + 4)
  | e :: es =>
    if e.last = a then
      if 1 < e.cnt.toNat then ({ e with cnt := e.cnt - 1 } :: es, wordAddr e.beg) else loopStep a es
    else (e :: es, a + 4)

/-- The entries of a stack that stay after a taken transfer to `x` (R99). -/
def loopKeep (x : W64) : List LoopEnt → List LoopEnt
  | [] => []
  | e :: es => if e.beg.toNat ≤ x.toNat ∧ x.toNat ≤ e.last.toNat then e :: es else loopKeep x es

/-- The loop stack of the current level, innermost first (R100). -/
def Ctx.stack (c : Ctx) : List LoopEnt :=
  if c.lvl then c.mloop
  else if c.ldep = 0 then [] else if c.ldep = 1 then [c.l0] else [c.l1, c.l0]

/-- Write back the loop stack of the current level. -/
def Ctx.setStack (c : Ctx) (l : List LoopEnt) : Ctx :=
  if c.lvl then { c with mloop := l }
  else match l with
    | [] => { c with ldep := 0 }
    | [e] => { c with ldep := 1, l0 := e }
    | e :: f :: _ => { c with ldep := 2, l1 := e, l0 := f }

/-- A word completes (R86): csr.ret rises, by two where an ORD stood before the word (log 20); the ORD and the wait are over. -/
def Ctx.count (c : Ctx) : Ctx :=
  { c with ret := c.ret + (if c.ord.isSome then 2 else 1), ord := none, wait := .idle, own := [] }

/-- A word completes without a taken transfer (R98). -/
def Ctx.next (c : Ctx) : Ctx :=
  let (l, p) := loopStep c.pc c.stack
  { (c.count.setStack l) with pc := p }

/-- A word completes with a taken transfer to `x` that pops loops (R99). -/
def Ctx.branch (c : Ctx) (x : W64) : Ctx :=
  { (c.count.setStack (loopKeep x c.stack)) with pc := x }

/-- A word completes with a transfer that pops no loop (JAL, JALR, LOOPI). -/
def Ctx.jump (c : Ctx) (x : W64) : Ctx := { c.count with pc := x }

/-! ### Exceptions -/

/-- Where a trapped word resumes: its own address, or that of its ORD (R40). -/
def Ctx.here (c : Ctx) : W64 := if c.ord.isSome then c.pc - 4 else c.pc

/-- csr.tcause (R357). -/
def causeWord (async : Bool) (sub code : Nat) : BitVec 16 :=
  BitVec.ofBool async ++ BitVec.ofNat 7 sub ++ BitVec.ofNat 8 code

/-- TAKING AN EXCEPTION (R357), as one step: csr.epc, csr.tcause and csr.tval are written, plvl takes the level, the level
becomes monitor, the program counter goes to csr.tvec and the monitor loop stack is empty. -/
def Ctx.takeTrap (c : Ctx) (cause : BitVec 16) (tval epc : W64) : Ctx :=
  { c with epc := epc, tcause := cause, tval := tval, plvl := c.lvl, lvl := true, pc := c.tvec, mloop := [], ord := none,
           eord := none, wait := .idle, own := [] }

/-- RETURN FROM AN EXCEPTION (R360): the program counter takes csr.epc, the level takes plvl, the monitor loop stack is
discarded; an ORD that stood before a word that could not be fetched stands before it again (R40, log 37), and reads that a restore could
not issue again are due (R373, log 16). -/
def Ctx.returnFromTrap (c : Ctx) : Ctx :=
  { c with pc := c.epc, lvl := c.plvl, mloop := [], ret := c.ret + 1, ord := c.eord, eord := none,
           wait := if c.redo.isEmpty then .idle else .redo, awaiting := false }

end Sys2Proof.Machine
end

