-- ==== Sys2Proof/Machine/Float.lean ====
section
/-! DEFINITION. The number formats of R58 to R64 and the rounding, conversion and exact arithmetic of R70 to R74 and R195 to R197:
a code becomes an exact number, arithmetic is exact on integers and powers of two, and one rounding makes the result's code. -/

namespace Sys2Proof.Machine

open Sys2Proof

/-- A floating-point format of R58: mantissa bits, bias, largest finite code, the code of infinity and of the canonical NaN. -/
structure Fmt where
  width : Nat
  mb   : Nat
  bias : Int
  maxC : Nat
  infC : Option Nat
  nanC : Option Nat
  deriving DecidableEq, Repr

/-- FP32 (R58, R60). -/
def fp32 : Fmt := ⟨32, 23, 127, 0x7F7FFFFF, some 0x7F800000, some 0x7FC00000⟩
/-- BF16. -/
def bf16 : Fmt := ⟨16, 7, 127, 0x7F7F, some 0x7F80, some 0x7FC0⟩
/-- FP16. -/
def fp16 : Fmt := ⟨16, 10, 15, 0x7BFF, some 0x7C00, some 0x7E00⟩
/-- E4M3. -/
def e4m3 : Fmt := ⟨8, 3, 7, 0x7E, none, some 0x7F⟩
/-- E5M2. -/
def e5m2 : Fmt := ⟨8, 2, 15, 0x7B, some 0x7C, some 0x7E⟩
/-- E2M3. -/
def e2m3 : Fmt := ⟨6, 3, 1, 0x1F, none, none⟩
/-- E3M2. -/
def e3m2 : Fmt := ⟨6, 2, 3, 0x1F, none, none⟩
/-- E2M1. -/
def e2m1 : Fmt := ⟨4, 1, 1, 0x7, none, none⟩

/-- An exact number: (−1)^s × m × 2^e. -/
inductive Num where
  | nan
  | inf (s : Bool)
  | fin (s : Bool) (m : Nat) (e : Int)
  deriving DecidableEq, Repr

/-- The number of a code (R59); bits above the format's width are ignored (R61). -/
def Fmt.num (f : Fmt) (code : Nat) : Num :=
  let s := code / 2 ^ (f.width - 1) % 2 == 1
  let c := code % 2 ^ (f.width - 1)
  if c ≤ f.maxC then
    let e := c / 2 ^ f.mb
    let m := c % 2 ^ f.mb
    if e = 0 then .fin s m (1 - f.bias - f.mb) else .fin s (m + 2 ^ f.mb) (e - f.bias - f.mb)
  else if f.infC = some c then .inf s else .nan

/-! Flags of R75 as bits: sat 32, inexact 16, underflow 8, overflow 4, divzero 2, invalid 1. -/
/-- No flag. -/
abbrev Flags := BitVec 6
/-- invalid -/
def fInvalid : Flags := 1
/-- divzero -/
def fDivZero : Flags := 2
/-- overflow -/
def fOverflow : Flags := 4
/-- underflow -/
def fUnderflow : Flags := 8
/-- inexact -/
def fInexact : Flags := 16
/-- sat -/
def fSat : Flags := 32

/-- Whether the magnitude is rounded up (R71): mode 0 RNE, 1 RZ, 2 RU, 3 RD; `q` the kept part, `r` of `2^sh` the rest. -/
def roundsUp (mode : Nat) (s : Bool) (q r sh : Nat) : Bool :=
  if r = 0 then false
  else match mode with
    | 0 => 2 ^ sh < 2 * r || (2 * r == 2 ^ sh && q % 2 == 1)
    | 1 => false
    | 2 => !s
    | _ => s

/-- Round `m × 2^e` to `p` significant bits with no exponent below `emin`: `q`, its exponent, and whether it is inexact. -/
def roundMag (mode : Nat) (s : Bool) (m : Nat) (e : Int) (p : Nat) (emin : Int) : Nat × Int × Bool :=
  if m = 0 then (0, emin, false)
  else
    let ex := max (e + (m.log2 + 1 : Nat) - p) emin
    let sh := ex - e
    if sh ≤ 0 then (m * 2 ^ (-sh).toNat, ex, false)
    else
      let d := sh.toNat
      let q := m / 2 ^ d
      let r := m % 2 ^ d
      ((if roundsUp mode s q r d then q + 1 else q), ex, r != 0)

/-- The exponent of the least significant bit of the subnormals. -/
def Fmt.emin (f : Fmt) : Int := 1 - f.bias - f.mb

/-- The sign bit in a format. -/
def Fmt.sgn (f : Fmt) (s : Bool) : Nat := if s then 2 ^ (f.width - 1) else 0

/-- Whether `m × 2^e` lies below the smallest normal. -/
def Fmt.tiny (f : Fmt) (m : Nat) (e : Int) : Bool :=
  let d := e - (1 - f.bias)
  if d < 0 then m < 2 ^ (-d).toNat else m == 0

/-- Round an exact number to a format under R72: overflow goes to infinity or to the largest finite value, as the mode says. -/
def Fmt.round (f : Fmt) (mode : Nat) : Num → Nat × Flags
  | .nan => (f.nanC.getD 0, 0)
  | .inf s => (f.sgn s + f.infC.getD f.maxC, 0)
  | .fin s m e =>
    let (q, ex, inx) := roundMag mode s m e (f.mb + 1) f.emin
    let c := (ex - f.emin).toNat * 2 ^ f.mb + q
    if f.maxC < c then
      let big := f.infC.getD f.maxC
      (f.sgn s + (if mode == 0 then big else if mode == 1 then f.maxC else if (mode == 2) == !s then big else f.maxC),
        fOverflow ||| fInexact)
    else (f.sgn s + c, if inx then (fInexact ||| if f.tiny m e then fUnderflow else 0) else 0)

/-- Conversion to a floating-point format (R73): no infinity comes of a finite value. -/
def Fmt.convert (f : Fmt) (mode : Nat) : Num → Nat × Flags
  | .nan => match f.nanC with
    | some c => (c, 0)
    | none => (0, fInvalid)
  | .inf s => match f.infC with
    | some c => (f.sgn s + c, 0)
    | none => (f.sgn s + f.maxC, fSat)
  | .fin s m e =>
    let (q, ex, inx) := roundMag mode s m e (f.mb + 1) f.emin
    let c := (ex - f.emin).toNat * 2 ^ f.mb + q
    if f.maxC < c then (f.sgn s + f.maxC, fOverflow ||| fSat ||| if inx then fInexact else 0)
    else (f.sgn s + c, if inx then (fInexact ||| if f.tiny m e then fUnderflow else 0) else 0)

/-- The value of an E8M0 code (R63). -/
def e8m0 (c : Nat) : Num := if c = 255 then .nan else .fin false 1 ((c : Int) - 127)

/-- Conversion to E8M0 (R73): one significant bit, the sign taken as positive, the exponent clamped. -/
def toE8m0 (mode : Nat) : Num → Nat × Flags
  | .nan => (255, 0)
  | .inf _ => (254, fSat)
  | .fin _ m e =>
    if m = 0 then (0, fSat)
    else
      let (q, ex, inx) := roundMag mode false m e 1 (-100000)
      let x := ex + q.log2
      let fl : Flags := if inx then fInexact else 0
      if x < -127 then (0, fl ||| fSat) else if 127 < x then (254, fl ||| fSat) else ((x + 127).toNat, fl)

/-- Round to an integer (R74): the integer and whether it is inexact. -/
def roundInt (mode : Nat) (s : Bool) (m : Nat) (e : Int) : Int × Bool :=
  let (q, inx) : Nat × Bool :=
    if 0 ≤ e then (m * 2 ^ e.toNat, false)
    else
      let d := (-e).toNat
      let q := m / 2 ^ d
      let r := m % 2 ^ d
      ((if roundsUp mode s q r d then q + 1 else q), r != 0)
  (if s then -(q : Int) else q, inx)

/-- Sat of R7 on integers. -/
def satInt (x lo hi : Int) : Int × Bool := if x < lo then (lo, true) else if hi < x then (hi, true) else (x, false)

/-- Conversion to an integer range (R74). -/
def toInt (mode : Nat) (lo hi : Int) : Num → Int × Flags
  | .nan => (0, fInvalid)
  | .inf s => (if s then lo else hi, fSat)
  | .fin s m e =>
    let (x, inx) := roundInt mode s m e
    let (y, cl) := satInt x lo hi
    (y, (if cl then fSat else 0) ||| (if inx then fInexact else 0))

/-- An integer as an exact number. -/
def Num.ofInt (x : Int) : Num := .fin (x < 0) x.natAbs 0

/-- The exact sum; zero from opposite signs is −0 under RD and +0 otherwise (R72). The flag is invalid for ∞ − ∞. -/
def Num.add (mode : Nat) : Num → Num → Num × Flags
  | .nan, _ => (.nan, 0)
  | _, .nan => (.nan, 0)
  | .inf s, .inf t => if s = t then (.inf s, 0) else (.nan, fInvalid)
  | .inf s, _ => (.inf s, 0)
  | _, .inf t => (.inf t, 0)
  | .fin s m e, .fin t n f =>
    let g := min e f
    let x : Int := (m * 2 ^ (e - g).toNat : Nat)
    let y : Int := (n * 2 ^ (f - g).toNat : Nat)
    let z := (if s then -x else x) + (if t then -y else y)
    if z = 0 then (.fin (if s = t then s else mode == 3) 0 g, 0) else (.fin (z < 0) z.natAbs g, 0)

/-- Negation. -/
def Num.neg : Num → Num
  | .nan => .nan
  | .inf s => .inf (!s)
  | .fin s m e => .fin (!s) m e

/-- The exact product; the flag is invalid for 0 × ∞. -/
def Num.mul : Num → Num → Num × Flags
  | .nan, _ => (.nan, 0)
  | _, .nan => (.nan, 0)
  | .inf s, .inf t => (.inf (s != t), 0)
  | .inf s, .fin t n _ => if n = 0 then (.nan, fInvalid) else (.inf (s != t), 0)
  | .fin s m _, .inf t => if m = 0 then (.nan, fInvalid) else (.inf (s != t), 0)
  | .fin s m e, .fin t n f => (.fin (s != t) (m * n) (e + f), 0)

/-- Is it a NaN? -/
def Num.isNan : Num → Bool
  | .nan => true
  | _ => false

/-- Compare two numbers, neither a NaN: −1, 0 or 1; −0 and +0 are equal. -/
def Num.cmp : Num → Num → Int
  | .inf s, .inf t => if s = t then 0 else if s then -1 else 1
  | .inf s, _ => if s then -1 else 1
  | _, .inf t => if t then 1 else -1
  | .fin s m e, .fin t n f =>
    let g := min e f
    let x : Int := (m * 2 ^ (e - g).toNat : Nat)
    let y : Int := (n * 2 ^ (f - g).toNat : Nat)
    let z := (if s then -x else x) - (if t then -y else y)
    if z < 0 then -1 else if z = 0 then 0 else 1
  | _, _ => 0

/-- floor of the square root, by bits below `2^k`. -/
def isqrt (x : Nat) : Nat → Nat → Nat
  | 0, r => r
  | k + 1, r => if (r + 2 ^ k) * (r + 2 ^ k) ≤ x then isqrt x k (r + 2 ^ k) else isqrt x k r

/-- 1/a with its special values (R197). An inexact quotient keeps 40 bits and a sticky bit below them. -/
def Num.rcp : Num → Num × Flags
  | .nan => (.nan, 0)
  | .inf s => (.fin s 0 0, 0)
  | .fin s m e =>
    if m = 0 then (.inf s, fDivZero)
    else
      let k := m.log2 + 40
      let q := 2 ^ k / m
      (.fin s (2 * q + (if 2 ^ k % m = 0 then 0 else 1)) (-e - k - 1), 0)

/-- 1/√a with its special values (R197). -/
def Num.rsq : Num → Num × Flags
  | .nan => (.nan, 0)
  | .inf s => if s then (.nan, fInvalid) else (.fin false 0 0, 0)
  | .fin s m e =>
    if m = 0 then (.inf s, fDivZero)
    else if s then (.nan, fInvalid)
    else
      let odd := e % 2 != 0
      let m' := if odd then 2 * m else m
      let e' := (if odd then e - 1 else e) / 2
      let k := m'.log2 / 2 + 42
      let r := isqrt (2 ^ (2 * k) / m') 100 0
      (.fin false (2 * r + (if r * r * m' = 2 ^ (2 * k) then 0 else 1)) (-e' - k - 1), 0)

/-- The product of 2^(2^−i) over the set bits of a fraction, most significant first, in fixed point of 2^−140. -/
def exp2Frac : Nat → Nat → Nat → Nat → Nat
  | 0, _, _, acc => acc
  | n + 1, f, root, acc =>
    let r := isqrt (root * 2 ^ 140) 142 0
    exp2Frac n f r (if f / 2 ^ n % 2 = 1 then acc * r / 2 ^ 140 else acc)

/-- 2^a with its special values (R197). An exact power of two is exact; any other result is irrational, and its leading bits
are computed with a sticky bit below them (log 17). -/
def Num.exp2 : Num → Num × Flags
  | .nan => (.nan, 0)
  | .inf s => (if s then .fin false 0 0 else .inf false, 0)
  | .fin s m e =>
    if m = 0 then (.fin false 1 0, 0)
    else if 9 ≤ e + m.log2 then (.fin false 1 (if s then -400 else 400), 0)
    else if e + m.log2 < -40 then
      (.fin false (if s then 2 ^ 60 - 1 else 2 ^ 60 + 1) (-60), 0)
    else
      let d := (-e).toNat
      let v : Int := if s then -(m : Int) else m
      if 0 ≤ e then (.fin false 1 (v * (2 ^ e.toNat : Nat)), 0)
      else
        let n := v / (2 ^ d : Nat)
        let f := (v % (2 ^ d : Nat)).toNat
        if f = 0 then (.fin false 1 n, 0)
        else (.fin false (2 * exp2Frac d f (2 ^ 141) (2 ^ 140) + 1) (n - 141), 0)

/-- The bits of log2 of `y` in [1, 2), fixed point 2^−256, most significant first. -/
def log2Frac : Nat → Nat → Nat → Nat
  | 0, _, acc => acc
  | n + 1, y, acc =>
    let z := y * y / 2 ^ 256
    if 2 ^ 257 ≤ z then log2Frac n (z / 2) (2 * acc + 1) else log2Frac n z (2 * acc)

/-- log2 a with its special values (R197). -/
def Num.log2 : Num → Num × Flags
  | .nan => (.nan, 0)
  | .inf s => if s then (.nan, fInvalid) else (.inf false, 0)
  | .fin s m e =>
    if m = 0 then (.inf true, fDivZero)
    else if s then (.nan, fInvalid)
    else
      let n : Int := e + m.log2
      if m = 2 ^ m.log2 then
        (if n = 0 then .fin false 0 0 else .ofInt n, 0)
      else
        let y := m * 2 ^ 256 / 2 ^ m.log2
        let v : Int := n * (2 ^ 110 : Nat) + log2Frac 110 y 0
        if 0 ≤ v then (.fin false (2 * v.toNat + 1) (-111), 0)
        else (.fin true (2 * (-(v + 1)).toNat + 1) (-111), 0)

/-- FP32 of a word. -/
def num32 (w : W32) : Num := fp32.num w.toNat

/-- Round to an FP32 word. -/
def round32 (mode : Nat) (x : Num) : W32 × Flags :=
  let (c, f) := fp32.round mode x
  (BitVec.ofNat 32 c, f)

/-- The canonical NaN of FP32 (R60). -/
def nan32 : W32 := 0x7FC00000

/-- a + b, rounded once. -/
def fadd (mode : Nat) (a b : W32) : W32 × Flags :=
  let (x, f) := (num32 a).add mode (num32 b)
  let (r, g) := round32 mode x
  (r, f ||| g)
/-- a − b, rounded once. -/
def fsub (mode : Nat) (a b : W32) : W32 × Flags :=
  let (x, f) := (num32 a).add mode (num32 b).neg
  let (r, g) := round32 mode x
  (r, f ||| g)
/-- a × b, rounded once. -/
def fmul (mode : Nat) (a b : W32) : W32 × Flags :=
  let (x, f) := (num32 a).mul (num32 b)
  let (r, g) := round32 mode x
  (r, f ||| g)
/-- a × b ± c, rounded once (R195). -/
def fma (mode : Nat) (sub : Bool) (a b c : W32) : W32 × Flags :=
  let z := num32 c
  if z.isNan then (nan32, 0)
  else
    let (p, f) := (num32 a).mul (num32 b)
    if p.isNan then (nan32, f)
    else
      let (x, h) := p.add mode (if sub then z.neg else z)
      let (r, g) := round32 mode x
      (r, h ||| g)

/-- The order of FMIN and FMAX: −0 below +0 (R195). -/
def fless (a b : W32) : Bool :=
  let c := (num32 a).cmp (num32 b)
  c < 0 || (c == 0 && a.msb && !b.msb)

/-- FMIN (R195). -/
def fmin (a b : W32) : W32 :=
  if (num32 a).isNan then (if (num32 b).isNan then nan32 else b)
  else if (num32 b).isNan then a
  else if fless b a then b else a
/-- FMAX (R195). -/
def fmax (a b : W32) : W32 :=
  if (num32 a).isNan then (if (num32 b).isNan then nan32 else b)
  else if (num32 b).isNan then a
  else if fless a b then b else a

/-- The floating-point formats by their codes in R69. -/
def fmtOf : Nat → Option Fmt
  | 0 => some fp32
  | 1 => some bf16
  | 2 => some fp16
  | 3 => some e4m3
  | 4 => some e5m2
  | 5 => some e2m3
  | 6 => some e3m2
  | 7 => some e2m1
  | _ => none

/-- A two's-complement value of the low `w` bits. -/
def sextNat (w x : Nat) : Int := if x / 2 ^ (w - 1) % 2 = 1 then (x % 2 ^ w : Nat) - (2 ^ w : Nat) else (x % 2 ^ w : Nat)

/-- Decode one lane word under a channel entry (R69, R70, R155): `fmt` the format code, `sc` the E8M0 scale. -/
def decodeLane (fmt sc : Nat) (w : W32) : W32 × Flags :=
  match fmtOf fmt with
  | some f =>
    match e8m0 sc with
    | .nan => (nan32, 0)
    | k =>
      let (x, _) := (f.num w.toNat).mul k
      round32 0 x
  | none =>
    if fmt = 8 then (BitVec.ofInt 32 (sextNat 8 w.toNat), 0)
    else if fmt = 9 then (BitVec.ofInt 32 (sextNat 16 w.toNat), 0)
    else if fmt = 11 then (BitVec.ofNat 32 (w.toNat % 256), 0)
    else if fmt = 12 then (BitVec.ofNat 32 (w.toNat % 65536), 0)
    else if fmt = 16 then ((round32 0 (e8m0 (w.toNat % 256))).1, 0)
    else (w, 0)

end Sys2Proof.Machine
end

