-- ==== Sys2Proof/Machine/Element.lean ====
section
/-! DEFINITION. The element operations of a VE (R185 to R206, R282 to R285): operands, lane masks, void results, the meaning of
every op code in a data firing and in a marker firing, and the checks of a stage word at load (R46, R47, R186, R194). -/

namespace Sys2Proof

/-- The index in R53's header. -/
def Tok.index (t : Tok) : Nat := t.hdr.toNat / 16777216
/-- The lane mask in R53's header. -/
def Tok.mask (t : Tok) : BitVec 16 := BitVec.ofNat 16 (t.hdr.toNat / 256 % 65536)
/-- The kind in R53's header. -/
def Tok.kind (t : Tok) : Nat := t.hdr.toNat / 32 % 8
/-- The virtual channel in R53's header. -/
def Tok.vc (t : Tok) : Nat := t.hdr.toNat % 32
/-- Is it a marker? -/
def Tok.isMarker (t : Tok) : Bool := t.kind == 2
end Sys2Proof

namespace Sys2Proof.Machine

open Sys2Proof

/-- Bits hi down to lo of a word (R7). -/
def bits (w : W32) (hi lo : Nat) : Nat := w.toNat / 2 ^ lo % 2 ^ (hi + 1 - lo)
/-- Bits hi down to lo of a double. -/
def bits64 (w : W64) (hi lo : Nat) : Nat := w.toNat / 2 ^ lo % 2 ^ (hi + 1 - lo)

/-- A stage word (R46), split. -/
structure Stage where
  op : Nat
  a : Nat
  b : Nat
  dst : Nat
  lvl : Nat
  mod : Nat
  imm : Nat
  deriving DecidableEq, Repr

/-- The fields of a stage word (R46). -/
def Stage.of (w : W32) : Stage :=
  ⟨bits w 31 26, bits w 25 23, bits w 22 20, bits w 19 18, bits w 17 15, bits w 14 12, bits w 11 0⟩

/-- Which operands an op reads (R194, R282): A, B, C. -/
def opReads (op mod imm : Nat) : Bool × Bool × Bool :=
  if op = 0x04 ∨ op = 0x05 ∨ op = 0x13 ∨ op = 0x1C ∨ op = 0x1D ∨ op = 0x30 ∨ op = 0x31 then (true, true, true)
  else if (0x01 ≤ op ∧ op ≤ 0x08) ∨ (0x10 ≤ op ∧ op ≤ 0x1B) ∨ op = 0x2C ∨ op = 0x32 then (true, true, false)
  else if op = 0x1E then (true, imm % 32 = 14, false)
  else if op = 0x26 then (true, mod = 0, false)
  else if op = 0x2B then (true, mod = 0 ∨ mod = 2, false)
  else if op = 0x28 ∨ op = 0 then (false, false, false)
  else (true, false, false)

/-- The classes whose imm12 is an operand when code 7 names it (R185): F, I, L, S; or none. -/
inductive ImmClass where
  | f | i | l | s | none
  deriving DecidableEq, Repr

/-- The immediate's class of an op (R194). CLAMP takes the class of the type its modifier names: FP32, INT32 or NAT32. -/
def opClass (op mod : Nat) : ImmClass :=
  if (0x01 ≤ op ∧ op ≤ 0x08) then .f
  else if (0x10 ≤ op ∧ op ≤ 0x15) ∨ op = 0x1C ∨ op = 0x1F ∨ op = 0x2C ∨ op = 0x32 then .i
  else if 0x16 ≤ op ∧ op ≤ 0x18 then .l
  else if 0x19 ≤ op ∧ op ≤ 0x1B then .s
  else if op = 0x2B then (if mod = 2 then .f else .i)
  else .none

/-- The immediate's lane value (R185). Where code 7 stands for an operand of an op without a class, the lane value 0 is the model's choice
(log 78). -/
def immWord (op mod imm : Nat) : W32 :=
  match opClass op mod with
  | .f => BitVec.ofNat 32 (imm * 2 ^ 20)
  | .i => BitVec.ofInt 32 (sextNat 12 imm)
  | .l => BitVec.ofNat 32 imm
  | .s => BitVec.ofNat 32 (imm % 32)
  | .none => 0

/-- The modifiers an op allows (R194, R198 to R205, R282). -/
def opMods (op : Nat) : List Nat :=
  if op ∈ [0x01, 0x02, 0x03, 0x04, 0x05, 0x09, 0x0A, 0x0B, 0x0C, 0x1E] then [0, 1, 2, 3]
  else if op = 0x08 then [0, 1, 2, 3, 4, 5, 6]
  else if op = 0x10 ∨ op = 0x11 ∨ op = 0x2B ∨ op = 0x32 then [0, 1, 2]
  else if op = 0x12 then [0, 1, 2, 3]
  else if op ∈ [0x13, 0x14, 0x15, 0x28, 0x29, 0x2A, 0x30, 0x31] then [0, 1]
  else if op = 0x1D then [0, 4, 5]
  else if op ∈ [0x20, 0x21, 0x22, 0x24, 0x27] then [0, 1, 2, 3, 4, 5]
  else if op = 0x23 then [0, 1, 2, 3, 4]
  else if op = 0x26 then [0, 1, 2, 3, 4]
  else [0]

/-- The op codes of R47. -/
def opAllocated (op : Nat) : Bool :=
  op ≤ 0x0C || (0x10 ≤ op && op ≤ 0x2C) || (0x30 ≤ op && op ≤ 0x32)
/-- SCAN, ACC and CNT react to markers (R190). -/
def opReactive (op : Nat) : Bool := op == 0x24 || op == 0x27 || op == 0x2A
/-- The multiplying ops, legal in st2 and st5 only (R47, R194). -/
def opMultiplies (op : Nat) : Bool := op ∈ [0x03, 0x04, 0x05, 0x12, 0x13, 0x23]

/-- A channel format code that R69 allows. -/
def fmtLegal (c : Nat) : Bool := c ≤ 14 || c == 16

/-- The checks of a stage word's imm12 (R185, R186, R194, R200 to R205). -/
def immLegal (st : Stage) : Bool :=
  let (_, rb, rc) := opReads st.op st.mod st.imm
  let imm := st.imm
  let usesImm := (opReads st.op st.mod st.imm).1 && st.a == 7 || rb && st.b == 7
  if rc then imm / 8 == 0 && imm % 8 != 7 && st.a != 7 && st.b != 7
  else if st.op = 0x1E then imm / 1024 == 0 && fmtLegal (imm / 32 % 32) && fmtLegal (imm % 32) && !(imm % 32 == 14 && st.b == 7)
  else if st.op = 0x25 then imm / 16 == 0
  else if st.op = 0x26 then (if st.mod = 3 then imm / 16 == 0 else imm == 0)
  else if st.op = 0x27 ∨ st.op = 0x28 then imm / 2 == 0
  else if st.op = 0x29 then imm % 8 == 0 && imm / 8 % 16 ≤ 12
  else if opClass st.op st.mod = .none then imm == 0
  else if usesImm then (opClass st.op st.mod != .s || imm / 32 == 0)
  else imm == 0

/-- Whether some stage before position `i` (0 for st1) is not empty. -/
def priorFull (ws : List W32) (i : Nat) : Bool := (ws.take i).any fun w => bits w 31 26 != 0

/-- A stage word at position `i` of a VE's six is accepted (R46, R47, R185, R186, R194). -/
def stageLegal (ws : List W32) (i : Nat) : Bool :=
  let w := ws.getD i 0
  let st := Stage.of w
  let (ra, rb, rc) := opReads st.op st.mod st.imm
  let reads4 := ra && st.a == 4 || rb && st.b == 4 || rc && st.imm % 8 == 4
  if st.op = 0 then w == 0
  else opAllocated st.op && (opMods st.op).contains st.mod
    && (if opReactive st.op then st.lvl ≤ 3 || st.lvl == 7 else st.lvl == 7)
    && (!opMultiplies st.op || i == 1 || i == 4)
    && (ra || st.a == 0) && (rb || st.b == 0)
    && immLegal st
    && (!reads4 || priorFull ws i)

/-- The ports that a stage names as operands (R153). -/
def stagePorts (w : W32) : List Nat :=
  let st := Stage.of w
  let (ra, rb, rc) := opReads st.op st.mod st.imm
  (if ra && st.a < 4 then [st.a] else []) ++ (if rb && st.b < 4 then [st.b] else []) ++ (if rc && st.imm % 8 < 4 then [st.imm % 8] else [])

/-- The read set of a VE, rising (R153). -/
def readSet (v : VeCfg) : List Nat := (List.range 4).filter fun p => v.st.any fun w => (stagePorts w).contains p

/-- Whether some stage names out port `o` (R153, R189). -/
def writes (v : VeCfg) (o : Nat) : Bool := v.st.any fun w => bits w (18 + o) (18 + o) == 1

/-- The accumulator that a stage writes, if any (R204). That the reset by ACCOUT modifier 1 is a write under R191, so that an ACC on the same
accumulator in the same VE is rejected at load, is the model's choice (log 90). -/
def stageAcc (w : W32) : Option Nat :=
  let st := Stage.of w
  if st.op = 0x27 ∨ (st.op = 0x28 ∧ st.mod = 1) then some (st.imm % 2) else none

/-- Across the six stages: each out port named at most once (R189), each accumulator written at most once (R191). -/
def stagesLegal (v : VeCfg) : Bool :=
  (List.range 2).all (fun o => (v.st.filter fun w => bits w (18 + o) (18 + o) == 1).length ≤ 1)
    && (List.range 2).all (fun k => (v.st.filter fun w => stageAcc w == some k).length ≤ 1)

/-- The sum identity of a type (R201). -/
def sumId (ty : Nat) : W32 := if ty ≤ 2 then 0x80000000 else 0
/-- The identity of RMAX. -/
def maxId (ty : Nat) : W32 := if ty ≤ 3 then 0xFF800000 else if ty = 4 then 0x80000000 else 0
/-- The identity of RMIN. -/
def minId (ty : Nat) : W32 := if ty ≤ 3 then 0x7F800000 else if ty = 4 then 0x7FFFFFFF else 0xFFFFFFFF

/-- One combination of a sum of a type (R201, R202, R204). -/
def combine (ty : Nat) (a b : W32) : W32 × Flags := if ty ≤ 3 then fadd ty a b else (a + b, 0)
/-- One combination of RMAX. -/
def combMax (ty : Nat) (a b : W32) : W32 × Flags :=
  (if ty ≤ 3 then fmax a b else if ty = 4 then (if a.slt b then b else a) else (if a < b then b else a), 0)
/-- One combination of RMIN. -/
def combMin (ty : Nat) (a b : W32) : W32 × Flags :=
  (if ty ≤ 3 then fmin a b else if ty = 4 then (if b.slt a then b else a) else (if b < a then b else a), 0)

/-- One level of the pairwise tree of R79. -/
def treeLevel (f : W32 → W32 → W32 × Flags) : List W32 → List W32 × Flags
  | a :: b :: l =>
    let (r, g) := f a b
    let (rs, h) := treeLevel f l
    (r :: rs, g ||| h)
  | l => (l, 0)

/-- The four levels of R79 on sixteen words. -/
def treeSum (f : W32 → W32 → W32 × Flags) (l : List W32) : W32 × Flags :=
  let (l1, f1) := treeLevel f l
  let (l2, f2) := treeLevel f l1
  let (l3, f3) := treeLevel f l2
  let (l4, f4) := treeLevel f l3
  (l4.headD 0, f1 ||| f2 ||| f3 ||| f4)

/-- A stage's result: void, or a value with its mask (R187, R188). -/
inductive SRes where
  | void
  | val (l : Lanes) (m : BitVec 16)
  deriving DecidableEq, Repr

/-- What a firing knows: the decoded heads, the WARPSET double, and the stage words of its VE. -/
structure FireIn where
  heads : SMap (Lanes × BitVec 16 × Flags)   -- by port, decoded, with the flags each decoding raises
  warp  : W64
  st    : List W32
  deriving DecidableEq, Repr

/-- Lane-wise result with OR of the flags of the lanes whose mask bit is set; other lanes read 0 and raise nothing (R187). -/
def lanewise (m : BitVec 16) (f : Nat → W32 × Flags) : Lanes × Flags :=
  (lanesOf fun i => if m.getLsbD i then (f i).1 else 0,
   (List.range 16).foldl (fun g i => if m.getLsbD i then g ||| (f i).2 else g) 0)

/-- FCMP (R196). -/
def fcmp (pred : Nat) (a b : W32) : W32 × Flags :=
  let x := num32 a
  let y := num32 b
  let t : W32 := 0xFFFFFFFF
  if x.isNan || y.isNan then
    (if pred = 3 ∨ pred = 6 then t else 0, if pred ∈ [0, 1, 4, 5] then fInvalid else 0)
  else
    let c := x.cmp y
    let h := match pred with
      | 0 => decide (c < 0)
      | 1 => decide (c ≤ 0)
      | 2 => decide (c = 0)
      | 3 => decide (c ≠ 0)
      | 4 => decide (0 ≤ c)
      | 5 => decide (0 < c)
      | _ => false
    (if h then t else 0, 0)

/-- Saturate an integer to INT32 (R198). -/
def satI32 (x : Int) : W32 × Flags :=
  let (y, c) := satInt x (-2147483648) 2147483647
  (BitVec.ofInt 32 y, if c then fSat else 0)
/-- Saturate an integer to NAT32 (R198). -/
def satN32 (x : Int) : W32 × Flags :=
  let (y, c) := satInt x 0 4294967295
  (BitVec.ofInt 32 y, if c then fSat else 0)

/-- The exact source of a CVT (R200). -/
def cvtSource (fmt : Nat) (w : W32) : Num :=
  match fmtOf fmt with
  | some f => f.num w.toNat
  | none =>
    if fmt = 8 then .ofInt (sextNat 8 w.toNat)
    else if fmt = 9 ∨ fmt = 14 then .ofInt (sextNat 16 w.toNat)
    else if fmt = 10 then .ofInt w.toInt
    else if fmt = 11 then .ofInt (w.toNat % 256 : Nat)
    else if fmt = 12 then .ofInt (w.toNat % 65536 : Nat)
    else if fmt = 16 then e8m0 (w.toNat % 256)
    else .ofInt w.toNat

/-- CVT (R73, R74, R200): `c` is the word that keeps its coordinate for a CT16 target. -/
def cvt (mode src dst : Nat) (w c : W32) : W32 × Flags :=
  let x := cvtSource src w
  match fmtOf dst with
  | some f =>
    let (r, g) := f.convert mode x
    (BitVec.ofNat 32 r, g)
  | none =>
    if dst = 16 then
      let (r, g) := toE8m0 mode x
      (BitVec.ofNat 32 r, g)
    else
      let (lo, hi, wd) : Int × Int × Nat :=
        if dst = 8 then (-128, 127, 8) else if dst = 9 ∨ dst = 14 then (-32768, 32767, 16)
        else if dst = 10 then (-2147483648, 2147483647, 32) else if dst = 11 then (0, 255, 8)
        else if dst = 12 then (0, 65535, 16) else (0, 4294967295, 32)
      let (r, g) := toInt mode lo hi x
      let v := BitVec.ofNat 32 ((BitVec.ofInt wd r).toNat)
      (if dst = 14 then BitVec.ofNat 32 (bits c 31 16 * 65536) ||| v else v, g)

/-- CLAMP (R199): min(max(a, b), c). -/
def clampOp (mod : Nat) (a b c : W32) : W32 × Flags :=
  if mod = 0 then
    if (num32 a).isNan || (num32 b).isNan || (num32 c).isNan then (nan32, fInvalid ||| if nan32 ≠ a then fSat else 0)
    else
      let r := fmin (fmax a b) c
      (r, if r ≠ a then fSat else 0)
  else
    let r := (combMin mod (combMax mod a b).1 c).1
    (r, if r ≠ a then fSat else 0)

/-- LUT (R205). -/
def lutOp (mod imm : Nat) (a : W32) : W32 × Flags :=
  let k := sextNat 5 (imm / 128)
  let l := imm / 8 % 16
  let half : Int := if l = 0 then 0 else (2 ^ (l - 1) : Nat)
  let top : Int := (2 ^ l : Nat) - 1
  let idx (s : Bool) (m : Nat) (e : Int) : W32 × Flags :=
    let (fl, _) := roundInt 3 s m (e + k)
    let (r, c) := satInt (fl + half) 0 top
    (BitVec.ofInt 32 r, if c then fSat else 0)
  if mod = 1 then idx (a.msb) a.toInt.natAbs 0
  else match num32 a with
    | .nan => (0, fInvalid)
    | .inf s => (if s then 0 else BitVec.ofInt 32 top, fSat)
    | .fin s m e => idx s m e

/-- PERM's pattern (R203). -/
def permIx (mod imm : Nat) (b : Lanes) (i : Nat) : Nat :=
  if mod = 0 then (b.at i).toNat % 16
  else if mod = 1 then 15 - i
  else if mod = 2 then (if i % 2 = 0 then i + 1 else i - 1)
  else if mod = 3 then (i + imm) % 16
  else 4 * (i % 4) + i / 4

/-- DRIFT on one summary (R285). -/
def driftLane (warp : W64) (full : Bool) (s mag leaf : W32) : W32 :=
  let mode := bits leaf 31 26
  let dmax := bits64 warp 7 0
  let sres := bits64 warp 11 8
  let kfrac := bits64 warp 31 16
  let bmax := bits64 warp 47 32
  if mode = 63 then 0x01FFFFFF
  else if full then (if mode ≤ 34 ∨ mode = 44 then 0x0A000000 else 0x08000000)
  else
    let dep := min 255 (bits s 7 0 + 1)
    let dfrac := if bits s 30 30 = 1 ∨ mode = 42 then kfrac else 0
    let dr := min 65535 (bits s 23 8 + dfrac + mag.toNat / 2 ^ sres)
    let cause := if ¬ (40 ≤ mode ∧ mode ≤ 43) then 1 else if dmax < dep then 2 else if bmax < dr then 3
      else if bits s 24 24 = 1 then 4 else if bits s 31 31 = 1 then 5 else 0
    if cause = 0 then BitVec.ofNat 32 (2 ^ 26 + bits s 25 25 * 2 ^ 25 + dr * 256 + dep)
    else BitVec.ofNat 32 (2 ^ 31 + cause * 2 ^ 28)

/-- WARP on one cell (R284). -/
def warpLane (cell mv org : W32) : W32 :=
  let sx : Int := 64 * ((bits cell 15 0 : Int) - bits org 15 0) + sextNat 16 (bits mv 15 0)
  let sy : Int := 64 * ((bits cell 31 16 : Int) - bits org 31 16) + sextNat 16 (bits mv 31 16)
  if sx < -32768 ∨ 32767 < sx ∨ sy < -32768 ∨ 32767 < sy then 0x80008000
  else (BitVec.ofInt 16 sy) ++ (BitVec.ofInt 16 sx)

/-- LEAFX (R283). -/
def leafx (mod : Nat) (a b : Lanes) (ma : BitVec 16) (mb : BitVec 16) : SRes :=
  let w0 := a.at 0
  let w1 := a.at 1
  let lw := bits w0 7 5
  let n := 2 ^ (lw + bits w0 4 2)
  if !(ma.getLsbD 0 && ma.getLsbD 1 && mb.getLsbD 0) then .val (lanesOf fun _ => 0) 0
  else if mod = 0 then
    let p := (b.at 0).toNat
    let m : BitVec 16 := if bits w0 1 0 = 0 then BitVec.ofNat 16 (2 ^ (min 16 (n - 16 * p)) - 1) else 0
    .val (lanesOf fun i =>
      if m.getLsbD i then
        let c := 16 * p + i
        BitVec.ofNat 32 ((bits w0 19 8 + c / 2 ^ lw) % 65536 * 65536 + (bits w0 31 20 + c % 2 ^ lw) % 65536)
      else 0) m
  else if mod = 1 then .val (lanesOf fun _ => w1) 0xFFFF
  else .val (lanesOf fun i => if i = 0 then BitVec.ofNat 32 n else if i = 1 then BitVec.ofNat 32 ((n + 15) / 16) else 0) 3

/-- Running state of a firing as it passes the stages: the VE's registers, the previous result and the raised flags. -/
structure Pass where
  acc0 : Lanes
  acc1 : Lanes
  st   : List Lanes
  touched : List (BitVec 16)
  prev : SRes
  flags : Flags
  out0 : Option (Lanes × BitVec 16)
  out1 : Option (Lanes × BitVec 16)
  deriving DecidableEq, Repr

/-- An operand (R185, R187): `marker` firings read void ports (R190). -/
def operand (p : Pass) (inp : FireIn) (marker : Bool) (st : Stage) (code : Nat) : SRes × Flags :=
  match code with
  | 4 => (p.prev, 0)
  | 5 => (.val p.acc0 0xFFFF, 0)
  | 6 => (.val p.acc1 0xFFFF, 0)
  | 7 => (.val (lanesOf fun _ => immWord st.op st.mod st.imm) 0xFFFF, 0)
  | k =>
    if marker then (.void, 0)
    else match SMap.get? inp.heads k with
      | some (l, m, f) => (.val l m, f)
      | none => (.void, 0)

/-- The type an ACC stage gives its accumulator (R204). -/
def accType (v : VeCfg) (k : Nat) : Option Nat :=
  (v.st.find? fun w => bits w 31 26 == 0x27 && bits w 0 0 == k).map fun w => bits w 14 12

/-- An element-wise op on lanes (R195 to R200, R203, R205): the word and the flags of lane `i`. -/
def elementOp (st : Stage) (a b c : Lanes) (i : Nat) : W32 × Flags :=
  let x := a.at i
  let y := b.at i
  let z := c.at i
  let sh := y.toNat % 32
  match st.op with
  | 0x01 => fadd st.mod x y
  | 0x02 => fsub st.mod x y
  | 0x03 => fmul st.mod x y
  | 0x04 => fma st.mod false x y z
  | 0x05 => fma st.mod true x y z
  | 0x06 => (fmin x y, 0)
  | 0x07 => (fmax x y, 0)
  | 0x08 => fcmp st.mod x y
  | 0x09 => let (r, f) := (num32 x).rcp; let (w, g) := round32 st.mod r; (w, f ||| g)
  | 0x0A => let (r, f) := (num32 x).rsq; let (w, g) := round32 st.mod r; (w, f ||| g)
  | 0x0B => let (r, f) := (num32 x).exp2; let (w, g) := round32 st.mod r; (w, f ||| g)
  | 0x0C => let (r, f) := (num32 x).log2; let (w, g) := round32 st.mod r; (w, f ||| g)
  | 0x10 => if st.mod = 0 then (x + y, 0) else if st.mod = 1 then satI32 (x.toInt + y.toInt) else satN32 (x.toNat + y.toNat)
  | 0x11 => if st.mod = 0 then (x - y, 0) else if st.mod = 1 then satI32 (x.toInt - y.toInt)
      else satN32 ((x.toNat : Int) - y.toNat)
  | 0x12 => if st.mod = 0 then (x * y, 0) else if st.mod = 1 then (BitVec.ofInt 32 (x.toInt * y.toInt / 4294967296), 0)
      else if st.mod = 2 then (BitVec.ofNat 32 (x.toNat * y.toNat / 4294967296), 0) else satI32 (x.toInt * y.toInt)
  | 0x13 => if st.mod = 0 then (x * y + z, 0) else satI32 (x.toInt * y.toInt + z.toInt)
  | 0x14 => if st.mod = 0 then (if y.slt x then y else x, 0) else (if y < x then y else x, 0)
  | 0x15 => if st.mod = 0 then (if x.slt y then y else x, 0) else (if x < y then y else x, 0)
  | 0x16 => (x &&& y, 0)
  | 0x17 => (x ||| y, 0)
  | 0x18 => (x ^^^ y, 0)
  | 0x19 => (x <<< sh, 0)
  | 0x1A => (x >>> sh, 0)
  | 0x1B => (x.sshiftRight sh, 0)
  | 0x1C => (if z ≠ 0 then x else y, 0)
  | 0x1D => clampOp st.mod x y z
  | 0x1E => cvt st.mod (st.imm / 32 % 32) (st.imm % 32) x y
  | 0x29 => lutOp st.mod st.imm x
  | _ => (x, 0)

/-- The op of a non-empty stage in a data firing, its operands values: its result, the VE's registers after it, its flags. That b's mask
narrows MKS too is the model's choice (log 80). -/
def stageData (inp : FireIn) (p : Pass) (i : Nat) (st : Stage) (a : Lanes) (ma : BitVec 16) (b : Lanes) (mb : BitVec 16)
    (c : Lanes) (mc : BitVec 16) : SRes × Pass :=
  let acc := if st.imm % 2 = 0 then p.acc0 else p.acc1
  let setAcc (q : Pass) (x : Lanes) : Pass := if st.imm % 2 = 0 then { q with acc0 := x } else { q with acc1 := x }
  let accHere (q : Nat) : Bool := bits (inp.st.getD q 0) 31 26 == 0x27 && bits (inp.st.getD q 0) 0 0 == st.imm % 2
  let list (m : BitVec 16) (idv : W32) : List W32 := (List.range 16).map fun j => if m.getLsbD j then a.at j else idv
  let one (r : W32 × Flags) : SRes × Pass :=
    (.val (lanesOf fun j => if j = 0 ∧ ma ≠ 0 then r.1 else 0) (if ma = 0 then 0 else 1),
      { p with flags := p.flags ||| (if ma = 0 then 0 else r.2) })
  if st.op = 0x20 then one (treeSum (combine st.mod) (list ma (sumId st.mod)))
  else if st.op = 0x21 then one (treeSum (combMax st.mod) (list ma (maxId st.mod)))
  else if st.op = 0x22 then one (treeSum (combMin st.mod) (list ma (minId st.mod)))
  else if st.op = 0x23 then
    let sq := lanewise ma fun j => if st.mod ≤ 3 then fmul st.mod (a.at j) (a.at j) else (a.at j * a.at j, 0)
    let (r, f) := treeSum (combine st.mod) ((List.range 16).map fun j => if ma.getLsbD j then sq.1.at j else sumId st.mod)
    one (r, f ||| sq.2)
  else if st.op = 0x24 then
    let carry := (p.st.getD i (lanesOf fun _ => 0)).at 0
    let (rs, s, f) := (List.range 16).foldl (fun (acc : List W32 × W32 × Flags) j =>
      if ma.getLsbD j then
        let (x, g) := combine st.mod acc.2.1 (a.at j)
        (acc.1 ++ [x], x, acc.2.2 ||| g)
      else (acc.1 ++ [0], acc.2.1, acc.2.2)) ([], carry, 0)
    (.val (lanesOf fun j => rs.getD j 0) ma,
      { p with st := p.st.set i (lanesOf fun j => if j = 0 then s else 0), flags := p.flags ||| f })
  else if st.op = 0x25 then
    (if ma.getLsbD (st.imm % 16) then .val (lanesOf fun _ => a.at (st.imm % 16)) 0xFFFF else .val (lanesOf fun _ => 0) 0, p)
  else if st.op = 0x26 then
    let m : BitVec 16 := BitVec.ofNat 16 ((List.range 16).foldl (fun s j =>
      if ma.getLsbD (permIx st.mod st.imm b j) && (st.mod != 0 || mb.getLsbD j) then s + 2 ^ j else s) 0)
    (.val (lanesOf fun j => if m.getLsbD j then a.at (permIx st.mod st.imm b j) else 0) m, p)
  else if st.op = 0x27 then
    let (x, f) := lanewise 0xFFFF fun j => if ma.getLsbD j then combine st.mod (acc.at j) (a.at j) else (acc.at j, 0)
    (.void, { (setAcc p x) with touched := p.touched.set i (p.touched.getD i 0 ||| ma), flags := p.flags ||| f })
  else if st.op = 0x28 then
    (.val acc 0xFFFF, if st.mod = 1 then { (setAcc p (lanesOf fun _ => 0)) with touched := (List.range 6).map fun q => if accHere q then 0 else p.touched.getD q 0 } else p)
  else if st.op = 0x2A then
    let cs := p.st.getD i (lanesOf fun _ => 0)
    let (x, f) := lanewise 0xFFFF fun j =>
      if ma.getLsbD j && (st.mod == 0 || a.at j != 0) then
        (if (cs.at j).toNat = 4294967295 then (cs.at j, fSat) else (cs.at j + 1, 0)) else (cs.at j, 0)
    (.void, { p with st := p.st.set i x, flags := p.flags ||| f })
  else if st.op = 0x2B then
    let keep (j : Nat) : Bool :=
      if st.mod = 0 then b.at j != 0 && mb.getLsbD j
      else if st.mod = 1 then a.at j != 0
      else
        let x := num32 (a.at j &&& 0x7FFFFFFF)
        let y := num32 (b.at j &&& 0x7FFFFFFF)
        mb.getLsbD j && !x.isNan && !y.isNan && decide (0 < x.cmp y)
    let m : BitVec 16 := BitVec.ofNat 16 ((List.range 16).foldl (fun s j => if ma.getLsbD j && keep j then s + 2 ^ j else s) 0)
    (.val (lanesOf fun j => if m.getLsbD j then a.at j else 0) m, p)
  else if st.op = 0x2C then
    (if b.at 0 ≠ 0 ∧ mb.getLsbD 0 then .val (lanesOf fun j => if ma.getLsbD j then a.at j else 0) ma else .void, p)
  else if st.op = 0x30 then
    let m := if mb.getLsbD st.mod && mc.getLsbD 0 then ma else 0
    (.val (lanesOf fun j => if m.getLsbD j then warpLane (a.at j) (b.at st.mod) (c.at 0) else 0) m, p)
  else if st.op = 0x31 then
    let m := if mb.getLsbD 0 && mc.getLsbD 0 then ma else 0
    (.val (lanesOf fun j => if m.getLsbD j then driftLane inp.warp (st.mod == 1) (a.at j) (b.at 0) (c.at 0) else 0) m, p)
  else if st.op = 0x32 then (leafx st.mod a b ma mb, p)
  else
    let m := ma &&& mb &&& mc
    let (x, f) := lanewise m (elementOp st a b c)
    (.val x m, { p with flags := p.flags ||| f })

/-- A header of R53. -/
def mkHdr (index mask kind vc : Nat) : W32 := BitVec.ofNat 32 (index % 256 * 16777216 + mask % 65536 * 256 + kind % 8 * 32 + vc % 32)
/-- A marker token. -/
def mkMarker (code vc : Nat) (ep : Bool) : Tok := ⟨mkHdr code 0 2 vc, ep, lanesOf fun _ => 0⟩
/-- The marker codes of R53. -/
def markerLegal (c : Nat) : Bool := c ≤ 3 || c == 0x10 || c == 0x11

/-- What a stage emits on its out ports (R46, R189). -/
def emit (st : Stage) (r : SRes) (p : Pass) : Pass :=
  match r with
  | .void => { p with prev := r }
  | .val l m =>
    { p with prev := r, out0 := if st.dst % 2 = 1 then some (l, m) else p.out0, out1 := if 2 ≤ st.dst then some (l, m) else p.out1 }

/-- One stage of a data firing (R188): an empty stage passes on, a void operand gives void. That the flags of decoding a head count for every
valid lane of it, whatever the stage makes of the lane, is the model's choice (log 79). -/
def stepData (inp : FireIn) (i : Nat) (w : W32) (p : Pass) : Pass :=
  let st := Stage.of w
  if st.op = 0 then p
  else
    let (ra, rb, rc) := opReads st.op st.mod st.imm
    let opd (r : Bool) (code : Nat) : SRes × Flags :=
      if r then operand p inp false st code else (.val (lanesOf fun _ => 0) 0xFFFF, 0)
    let (a, fa) := opd ra st.a
    let (b, fb) := opd rb st.b
    let (c, fc) := opd rc (st.imm % 8)
    match a, b, c with
    | .val a ma, .val b mb, .val c mc =>
      let (r, q) := stageData inp { p with flags := p.flags ||| fa ||| fb ||| fc } i st a ma b mb c mc
      emit st r q
    | _, _, _ => emit st .void { p with flags := p.flags ||| fa ||| fb ||| fc }

/-- One stage of a marker firing at level `lvl` (R190, R204): a reactive stage at or below it emits and resets; any other stage
yields a value only where it reads code 4, that is a value and it reads no port. -/
def stepMarker (inp : FireIn) (lvl : Option Nat) (i : Nat) (w : W32) (p : Pass) : Pass :=
  let st := Stage.of w
  if st.op = 0 then p
  else if opReactive st.op then
    match lvl with
    | some l =>
      if st.lvl ≤ l then
        if st.op = 0x24 then
          emit st .void { p with st := p.st.set i (lanesOf fun j => if j = 0 then sumId st.mod else 0) }
        else if st.op = 0x27 then
          let acc := if st.imm % 2 = 0 then p.acc0 else p.acc1
          let idl := lanesOf fun _ => sumId st.mod
          let m := p.touched.getD i 0
          let q := if st.imm % 2 = 0 then { p with acc0 := idl } else { p with acc1 := idl }
          emit st (.val (lanesOf fun j => if m.getLsbD j then acc.at j else 0) m) { q with touched := p.touched.set i 0 }
        else
          emit st (.val (p.st.getD i (lanesOf fun _ => 0)) 0xFFFF) { p with st := p.st.set i (lanesOf fun _ => 0) }
      else emit st .void p
    | none => emit st .void p
  else
    let (ra, rb, rc) := opReads st.op st.mod st.imm
    let codes := (if ra then [st.a] else []) ++ (if rb then [st.b] else []) ++ (if rc then [st.imm % 8] else [])
    if codes.contains 4 && codes.all (fun k => 4 ≤ k) then
      let get (r : Bool) (code : Nat) : SRes := if r then (operand p inp true st code).1 else .val (lanesOf fun _ => 0) 0xFFFF
      match get ra st.a, get rb st.b, get rc (st.imm % 8) with
      | .val a ma, .val b mb, .val c mc =>
        let (r, q) := stageData inp p i st a ma b mb c mc
        emit st r q
      | _, _, _ => emit st .void p
    else emit st .void p

/-- The pass of a firing before st1. -/
def Pass.start (v : Ve) : Pass := ⟨v.acc0, v.acc1, v.st, v.touched, .void, 0, none, none⟩

/-- The six stages in order. -/
def runStages (f : Nat → W32 → Pass → Pass) (ws : List W32) (p : Pass) : Pass :=
  let p := f 0 (ws.getD 0 0) p
  let p := f 1 (ws.getD 1 0) p
  let p := f 2 (ws.getD 2 0) p
  let p := f 3 (ws.getD 3 0) p
  let p := f 4 (ws.getD 4 0) p
  f 5 (ws.getD 5 0) p

/-- Decode a head under its channel entry (R155); leaf tokens arrive raw (R273). -/
def decodeHead (v : VeCfg) (t : Tok) : Lanes × BitVec 16 × Flags :=
  if t.kind = 5 then (t.lanes, t.mask, 0)
  else
    let e := v.ch.getD t.vc 0
    let sc := (v.sc.getD (bits e 26 24) 0x7F).toNat
    let (l, f) := lanewise t.mask fun i => decodeLane (bits e 31 27) sc (t.lanes.at i)
    (l, t.mask, f)

end Sys2Proof.Machine
end

