-- ==== Sys2Proof/Machine/Translate.lean ====
section
/-! DEFINITION. Translation (R104 to R108, R115, R367, R368): page-table entries, the walk, the caches of every holder, and the
checks of an access in the order of R115 and R138. -/

namespace Sys2Proof.Machine

open Sys2Proof

/-! ### Ports out of the package (R388) -/

/-- The Herran ports of the package (R24): 18 on each of two islands. -/
def herranPorts : Nat := 36

/-- The Herran port on which traffic for an address of peer memory goes (R388). -/
def herranOf (pa : Nat) : Nat := Config.herranPort (pa / 2 ^ 42 % 4096) (pa / 64 % 4096) % herranPorts

/-- Some Herran port is down. -/
def State.anyDown (s : State) : Bool := s.hub.ports.any fun x => x.2.down

/-- Traffic for an address of peer memory is lost: the port that it goes by is down (R388). -/
def State.peerDown (s : State) (pa : Nat) : Bool := isPeer pa && (SMap.getD s.hub.ports (herranOf pa) {}).down

/-- Memory as the package can read it: what a port that is down loses reads 0 (R118, R388). -/
def State.seen (s : State) : Memory := if s.anyDown then s.mem.filter fun c => !s.peerDown c.1 else s.mem

/-- Memory after a write, but for the bytes that a port which is down loses (R118, R388). -/
def State.memWrite (s : State) (pa : Nat) (bs : List Byte) : Memory :=
  if s.anyDown then ((List.range bs.length).zip bs).foldl (fun m x => if s.peerDown (pa + x.1) then m else m.put (pa + x.1) x.2) s.mem
  else s.mem.putBytes pa bs

/-- The sectors of `n` bytes at an address that ports which are down lose. -/
def State.lostSectors (s : State) (pa n : Nat) : Nat :=
  ((List.range (if n = 0 then 0 else (pa + n - 1) / 64 + 1 - pa / 64)).filter fun i => s.peerDown (64 * (pa / 64 + i))).length

/-! ### Tables -/

/-- The page size of a leaf (R105, R367): level and sz; none where sz does not fit the level. -/
def leafSize (level sz : Nat) : Option Nat :=
  match level, sz with
  | 0, 0 => some (2 ^ 12)
  | 0, 1 => some (2 ^ 14)
  | 0, 2 => some (2 ^ 16)
  | 1, 0 => some (2 ^ 21)
  | 1, 2 => some (2 ^ 25)
  | 2, 0 => some (2 ^ 30)
  | 2, 2 => some (2 ^ 34)
  | _, _ => none

/-- The kind field of an entry (R367). -/
def kindOf : Nat → Option PageKind
  | 0 => some .normal
  | 1 => some .writeOnce
  | 2 => some .device
  | _ => none

/-- A mapping of a page keeps R107 and R108. -/
def rangeLegal (k : PageKind) (pa size : Nat) : Bool :=
  populated pa && populated (pa + size - 1) &&
    match k with
    | .normal => !inDevice pa
    | .writeOnce => inDeviceMemory pa && inDeviceMemory (pa + size - 1)
    | .device => inDevice pa || isRemote pa

/-- What an entry of R367 is, read at a level. -/
inductive Pte where
  | invalid
  | table (pa : Nat)
  | leaf (e : TlbEnt)
  deriving DecidableEq, Repr

/-- Read an entry (R367). -/
def readPte (level : Nat) (asid : BitVec 16) (va : W64) (e : W64) : Pte :=
  let pa := bits64 e 55 12 * 4096
  if bits64 e 0 0 = 0 ∨ bits64 e 63 56 ≠ 0 ∨ bits64 e 11 11 ≠ 0 then .invalid
  else match kindOf (bits64 e 7 6) with
    | none => .invalid
    | some k =>
      if bits64 e 1 1 = 0 then
        if level = 0 ∨ !populated pa then .invalid else .table pa
      else match leafSize level (bits64 e 10 8) with
        | none => .invalid
        | some size =>
          if pa % size ≠ 0 ∨ !rangeLegal k pa size then .invalid
          else .leaf ⟨asid, va.toNat / size * size, size, pa, k, bits64 e 5 5 = 1, bits64 e 4 4 = 1, bits64 e 3 3 = 1, bits64 e 2 2 = 1⟩

/-- The index of a level into its table (R367). -/
def ptIndex (va : W64) (level : Nat) : Nat := va.toNat / 2 ^ (12 + 9 * level) % 512

/-- The root of an ASID: the entry at atbase + 8a holds the level-4 table (R367). It is read as a table pointer. -/
def rootTable (s : State) (asid : BitVec 16) : Option Nat :=
  match readPte 5 asid 0 (BitVec.ofNat 64 (s.seen.nat (s.hub.atbase + 8 * asid.toNat) 8)) with
  | .table pa => some pa
  | _ => none

/-- The walk below a table (R367): structural on the level. -/
def walkFrom (m : Memory) (asid : BitVec 16) (va : W64) : Nat → Nat → Option TlbEnt
  | 0, table =>
    match readPte 0 asid va (BitVec.ofNat 64 (m.nat (table + 8 * ptIndex va 0) 8)) with
    | .leaf e => some e
    | _ => none
  | level + 1, table =>
    match readPte (level + 1) asid va (BitVec.ofNat 64 (m.nat (table + 8 * ptIndex va (level + 1)) 8)) with
    | .leaf e => some e
    | .table pa => walkFrom m asid va level pa
    | .invalid => none

/-- An entry covers an address of an ASID. -/
def TlbEnt.covers (e : TlbEnt) (asid : BitVec 16) (va : W64) : Bool :=
  e.asid == asid && e.va ≤ va.toNat && va.toNat < e.va + e.size

/-- The page of a launched code or data section that covers an address (R110). -/
def State.mapped (s : State) (asid : BitVec 16) (va : W64) : Option TlbEnt := s.pages.find? fun e => e.covers asid va

/-- The whole walk (R367); the pages of R110 are mapped without tables of the host (log 24). -/
def walkTables (s : State) (asid : BitVec 16) (va : W64) : Option TlbEnt :=
  if bits64 va 63 57 ≠ 0 then none
  else match s.mapped asid va with
    | some e => some e
    | none => match rootTable s asid with
      | none => none
      | some t => walkFrom s.seen asid va 4 t

/-- The physical address of a covered address. -/
def TlbEnt.phys (e : TlbEnt) (va : W64) : Nat := e.pa + (va.toNat - e.va)

/-- The translation a holder has for an address. -/
def tlbFind (l : List TlbEnt) (asid : BitVec 16) (va : W64) : Option TlbEnt := l.find? fun e => e.covers asid va

/-- Enter a translation; a full holder drops its oldest entry (log 12). -/
def tlbAdd (cap : Nat) (l : List TlbEnt) (e : TlbEnt) : List TlbEnt :=
  if l.contains e then l else (if l.length < cap then l else l.drop 1) ++ [e]

/-- The translation cache of a sequencer context: of its tile, or of the root core (R368). -/
def State.tlbOf (s : State) (t : Nat) : List TlbEnt :=
  if isUserTile t then (s.tile t).tlb else SMap.getD s.rtlb (tileDie t) []

/-- Write it. -/
def State.setTlb (s : State) (t : Nat) (l : List TlbEnt) : State :=
  if isUserTile t then s.updTile t (fun x => { x with tlb := l }) else { s with rtlb := SMap.put s.rtlb (tileDie t) l }

/-- Its size (R368). -/
def tlbCap (t : Nat) : Nat := if isUserTile t then 256 else 64

/-- How a page answers an access (R115 steps 4 and 5, R106): 3 page, 4 permission, or none. -/
def pageCheck (e : TlbEnt) (a : Access) (double : Bool) : Option Nat :=
  match a with
  | .load => if e.r then none else some 4
  | .store => if e.w && !e.cow && (e.kind != .writeOnce || double) then none else some 4
  | .fetch => if e.x then none else some 4

/-- An engine's holder: the copy complex, or loaders, storers and lanes by number (R368). -/
inductive Holder where
  | copy (die : Nat)
  | engine (die ix : Nat)
  deriving DecidableEq, Repr

/-- The entries of an engine's holder. -/
def State.htlb (s : State) : Holder → List TlbEnt
  | .copy d => (s.die d).ctlb
  | .engine d i => SMap.getD (s.die d).etlb i []

/-- Write the entries of an engine's holder, under its capacity (R368). -/
def State.hadd (s : State) (h : Holder) (e : TlbEnt) : State :=
  match h with
  | .copy d => s.setDie d { s.die d with ctlb := tlbAdd 512 (s.die d).ctlb e }
  | .engine d i => s.setDie d { s.die d with etlb := SMap.upd (s.die d).etlb i [] fun l => tlbAdd (if i < 32 then 64 else 16) l e }

/-- Translate an engine access: its cache, else a walk, which it caches. The fault code is 3 for a page and 4 for a permission. -/
def engTranslate (s : State) (h : Holder) (asid : BitVec 16) (va : W64) (a : Access) (double : Bool) : State × Except Nat TlbEnt :=
  match tlbFind (s.htlb h) asid va with
  | some e => (s, match pageCheck e a double with
    | some c => .error c
    | none => .ok e)
  | none =>
    match walkTables s asid va with
    | none => (s, .error 3)
    | some e => (s.hadd h e, match pageCheck e a double with
      | some c => .error c
      | none => .ok e)

/-- An address lies in a spill ring. -/
def RingCfg.covers (r : RingCfg) (va : W64) : Bool := r.base.toNat ≤ va.toNat && va.toNat < r.base.toNat + 2 ^ r.lg

/-- The spill rings of the planes that a tile has loaded, each under the ASID of its configuration. -/
def Tile.allRings (t : Tile) : List (BitVec 16 × RingCfg) :=
  [t.p0, t.p1, t.loading].flatMap fun o => match o with
    | some p => p.rings.map fun (_, r) => (p.asid, r)
    | none => []

/-- Reserve the ring of a configuration from sequencer and engine accesses (R150): whether an address lies in a spill ring of a
plane that is loaded, or of a region that is saved, under the ASID of its configuration. That the range is judged by virtual address and ASID
is the model's choice: an access to the same frames by another address is none to the ring (log 71). -/
def inRing (s : State) (asid : BitVec 16) (va : W64) : Bool :=
  let hit (x : BitVec 16 × RingCfg) : Bool := x.1 == asid && x.2.covers va
  (s.tiles.any fun (_, t) => t.allRings.any hit) || s.regions.any fun (_, r) => r.rings.any hit

/-- A Cascade spill ring of a domain (R303). -/
def inDomainRing (s : State) (asid : BitVec 16) (va : W64) : Bool :=
  s.domains.any fun (_, d) =>
    let lg := bits64 (d.desc.getD 0 0) 45 40
    lg != 0 && d.asid == asid && (d.desc.getD 1 0).toNat ≤ va.toNat &&
      d.dies.contains ((va.toNat - (d.desc.getD 1 0).toNat) / 2 ^ lg)

/-- A separate access path of R150 covers the address. -/
def ringed (s : State) (asid : BitVec 16) (va : W64) : Bool := inRing s asid va || inDomainRing s asid va

/-- What the check of a sequencer access finds: a trap code, a missing translation, or the page. -/
inductive Checked where
  | trap (code : Nat)
  | miss
  | ok (e : TlbEnt)
  deriving DecidableEq, Repr

/-- Steps 2 to 4 of R115 alone, as a load, for a page that an engine reads for a context (R225). -/
def checkPage (s : State) (t : Nat) (asid : BitVec 16) (va : W64) : Checked :=
  if bits64 va 63 57 ≠ 0 then .trap 3
  else match tlbFind (s.tlbOf t) asid va with
    | none => .miss
    | some e => match pageCheck e .load false with
      | some c => .trap c
      | none => .ok e

/-- Steps 1 to 5 of R115 for one access of a context at `va` of `n` bytes aligned to `al`. -/
def checkAccess (s : State) (t : Nat) (asid : BitVec 16) (va : W64) (al : Nat) (a : Access) (double : Bool) : Checked :=
  if va.toNat % al ≠ 0 then .trap 2
  else if bits64 va 63 57 ≠ 0 then .trap 3
  else match tlbFind (s.tlbOf t) asid va with
    | none => .miss
    | some e =>
      match pageCheck e a double with
      | some c => .trap c
      | none => if a != .fetch && ringed s asid va then .trap 4 else .ok e

/-- The checks of R138 for an atomic: write permission, read permission, a normal page. `wr` and `rd` say which permissions are
asked (R268). -/
def checkAtomic (s : State) (t : Nat) (asid : BitVec 16) (va : W64) (al : Nat) (wr rd : Bool) : Checked :=
  if va.toNat % al ≠ 0 then .trap 2
  else if bits64 va 63 57 ≠ 0 then .trap 3
  else match tlbFind (s.tlbOf t) asid va with
    | none => .miss
    | some e =>
      if (wr && !(e.w && !e.cow)) || (rd && !e.r) || e.kind != .normal || ringed s asid va then .trap 4 else .ok e

end Sys2Proof.Machine
end

