-- ==== Sys2Proof/Machine/Fabric.lean ====
section
/-! DEFINITION. The fabric of a tile: sites, planes, buffers and their flow control, routing, injection, and the steps of VEs,
links, rings and the router (R151 to R162, R165 to R169, R189 to R193, R54). -/

namespace Sys2Proof.Machine

open Sys2Proof

/-! ### Sites, planes and buffers -/

/-- Site number 8 × sy + sx (R163). -/
def siteSx (site : Nat) : Nat := site % 8
/-- sy of a site. -/
def siteSy (site : Nat) : Nat := site / 8
/-- A VE site: sx + sy even (R12). -/
def isVe (site : Nat) : Bool := (siteSx site + siteSy site) % 2 == 0

/-- The plane of an epoch. -/
def Tile.plane (t : Tile) (ep : Bool) : Option Plane := if ep then t.p1 else t.p0
/-- Write the plane of an epoch. -/
def Tile.setPlane (t : Tile) (ep : Bool) (p : Option Plane) : Tile := if ep then { t with p1 := p } else { t with p0 := p }
/-- The epoch of the plane active at a site (R165). -/
def Tile.siteEp (t : Tile) (site : Nat) : Bool := if t.flipped.contains site then !t.epoch else t.epoch
/-- The plane active at a site. -/
def Tile.at (t : Tile) (site : Nat) : Option Plane := t.plane (t.siteEp site)
/-- The VE configuration active at a site. -/
def Tile.veCfg (t : Tile) (site : Nat) : Option VeCfg := (t.at site).bind fun p => SMap.get? p.ves site
/-- Scale register `i` of the VE at a site (R155): the byte that the plane active at the site holds for it; 0x7F where the VE lies outside
that plane's site mask, and before the region's first configuration. -/
def Tile.scale (t : Tile) (site i : Nat) : Byte := match t.veCfg site with
  | some c => c.sc.getD i 0x7F
  | none => 0x7F
/-- The SE word active at a site; 0 outside the mask (R163). -/
def Tile.seWord (t : Tile) (site : Nat) : W32 :=
  match t.at site with
  | some p => match SMap.get? p.ses site with
    | some c => c.word
    | none => 0
  | none => 0
/-- The mode of an SE (R49). -/
def Tile.seMode (t : Tile) (site : Nat) : Nat := bits (t.seWord site) 31 29
/-- The VE of a site. -/
def Tile.ve (t : Tile) (site : Nat) : Ve := SMap.getD t.ves site {}
/-- Write it. -/
def Tile.setVe (t : Tile) (site : Nat) (v : Ve) : Tile := { t with ves := SMap.put t.ves site v }
/-- The SE of a site. -/
def Tile.se (t : Tile) (site : Nat) : Se := SMap.getD t.ses site {}
/-- Write it. -/
def Tile.setSe (t : Tile) (site : Nat) (x : Se) : Tile := { t with ses := SMap.put t.ses site x }
/-- A buffer. -/
def Tile.buf (t : Tile) (k : Nat) : Buf := SMap.getD t.bufs k {}
/-- Write it. -/
def Tile.setBuf (t : Tile) (k : Nat) (b : Buf) : Tile := { t with bufs := SMap.put t.bufs k b }

/-- The key of input queue `k` of a site (R152). -/
def qKey (site k : Nat) : Nat := 4 * site + k
/-- The key of link `li` of a site (R158). -/
def lKey (site li : Nat) : Nat := 256 + 8 * site + li
/-- The key of the queue of out region port `vp` (R169). -/
def vKey (vp : Nat) : Nat := 768 + vp

/-- Fields of a switch word (R50). -/
def swFrom (w : BitVec 16) : Nat := w.toNat / 8192
/-- to -/
def swTo (w : BitVec 16) : Nat := w.toNat / 1024 % 8
/-- vc -/
def swVc (w : BitVec 16) : Nat := w.toNat / 32 % 32
/-- slots -/
def swSlots (w : BitVec 16) : Nat := w.toNat / 2 % 16
/-- spill -/
def swSpill (w : BitVec 16) : Bool := w.toNat % 2 == 1

/-- The switch words of a site in a plane. -/
def Plane.linksOf (p : Plane) (site : Nat) : List (BitVec 16) := SMap.getD p.links site []
/-- The switch word of link `li`. -/
def Plane.link (p : Plane) (site li : Nat) : Option (BitVec 16) := (p.linksOf site)[li]?

/-- Slots not held, reserved or unreported (R159). -/
def Buf.free (b : Buf) (size : Nat) : Nat := size - b.toks.length - b.resv - b.ret

/-- Take the head off a buffer; the freed slot is reported later (R159). -/
def Tile.pop (t : Tile) (k : Nat) : Tile :=
  let b := t.buf k
  t.setBuf k { b with toks := b.toks.drop 1, ret := b.ret + 1, ahead := b.ahead - 1 }
/-- Push a token. -/
def Tile.push (t : Tile) (k : Nat) (x : Tok) : Tile :=
  let b := t.buf k
  t.setBuf k { b with toks := b.toks ++ [x] }
/-- Reserve or release a slot (R153, R189). -/
def Tile.resv (t : Tile) (k : Nat) (d : Int) : Tile :=
  let b := t.buf k
  t.setBuf k { b with resv := (b.resv + d).toNat }

/-- The region's port word of a region-port entry (R163). -/
def vpEn (w : W32) : Bool := bits w 31 31 == 1
/-- 1 for out. -/
def vpOut (w : W32) : Bool := bits w 30 30 == 1
/-- The site of an entry. -/
def vpSite (w : W32) : Nat := 8 * bits w 20 18 + bits w 23 21
/-- The VE output port of an out entry. -/
def vpPort (w : W32) : Nat := bits w 17 17
/-- The channel of an in entry. -/
def vpVc (w : W32) : Nat := bits w 4 0

/-- The declaration of vpN in the plane active at its site, with that plane's epoch (R169). -/
def Tile.port? (t : Tile) (vp : Nat) : Option (W32 × Bool) :=
  let look (ep : Bool) : Option (W32 × Bool) :=
    match (t.plane ep).bind fun p => SMap.get? p.vps vp with
    | some w => if t.siteEp (vpSite w) = ep then some (w, ep) else none
    | none => none
  match look t.epoch with
  | some x => some x
  | none => look (!t.epoch)

/-- vpN is an in port of the active plane. -/
def Tile.isIn (t : Tile) (vp : Nat) : Bool := match t.port? vp with
  | some (w, _) => !vpOut w
  | none => false
/-- vpN is an out port of the active plane. -/
def Tile.isOut (t : Tile) (vp : Nat) : Bool := match t.port? vp with
  | some (w, _) => vpOut w
  | none => false
/-- Bound by STRM and its stream has not ended (R169). -/
def Tile.bound (t : Tile) (vp : Nat) : Bool := match SMap.get? t.ports vp with
  | some b => !b.ended
  | none => false

/-! ### Freezing and activity -/

/-- The region of the tile makes a move: it is not quiescent in the present cycle (R171). -/
def State.moved (s : State) (t : Nat) : State :=
  match s.regionOf t with
  | some (h, r) => s.setRegion h { r with quiet := 0, stir := true }
  | none => s
/-- A progress event of the region of the tile (R348). -/
def State.progress (s : State) (t : Nat) : State :=
  match s.regionOf t with
  | some (h, r) => s.setRegion h { r with quiet := 0, stir := true, idle := 0 }
  | none => s

/-- Count tokens dropped at sites: the tile's dropped-token counter and double 4 (R156, R183, R366). -/
def State.drop (s : State) (t n : Nat) : State :=
  if n = 0 then s
  else (s.updTile t fun x => { x with dropped := sat32 x.dropped n }).countTile t 4 n

/-- Count stray tokens (R166). -/
def State.strays (s : State) (t n : Nat) : State :=
  if n = 0 then s
  else (s.updTile t fun x => { x with stray := sat32 x.stray n }).countTile t 5 n

/-- Freeze tile `t`, or take it out of the freeze (R361). -/
def State.freezeTile (s : State) (t : Nat) (b : Bool) : State := s.updTile t fun x => { x with frozen := b }

/-- Raise an asynchronous cause for a context, of the fault of tile `src`: a cause already pending merges (R357). -/
def Ctx.raise (c : Ctx) (code : Nat) (tval : W64) (src : Nat) : Ctx :=
  if c.halted || (c.pend.any fun p => p.code == BitVec.ofNat 8 code) then c
  else { c with pend := c.pend ++ [⟨BitVec.ofNat 8 code, tval, src⟩] }

/-- Freeze tiles for a fault of tile `src` and take their contexts into the monitor level by an asynchronous trap; `but` is the context that
takes the cause itself (R361). -/
def State.freeze (s : State) (ts : List Nat) (code : Nat) (tval : W64) (src : Nat) (but : Option Nat) : State :=
  ts.foldl (fun s t => (s.freezeTile t true).updCtx t fun c => if but = some t then c else c.raise code tval src) s

/-- csr.asid of the context of tile `t`. -/
def State.asidOf (s : State) (t : Nat) : BitVec 16 := match s.ctxAt t with
  | some c => c.asid
  | none => 0

/-- The ASID of the context that a fault token of tile `t` and region `h` comes from (R375): that of its tile while the region stands there,
that of the region where it stands elsewhere. -/
def State.faultAsid (s : State) (t h : Nat) : BitVec 16 := match s.region? h with
  | some r => if r.st == .running && r.tiles.contains t && (s.ctxAt t).isSome then s.asidOf t else r.asid
  | none => s.asidOf t

/-- Send a fault token (R362), counted in double 14 of the tile that reports it (R366). -/
def State.token (s : State) (f : FaultTok) : State := { s.count (ctrTile f.tile 14) 1 with ftoks := s.ftoks ++ [f] }
/-- Send the fault token of a cause on its way up the tree (R362), with the ASID of the context that it comes from (R375). -/
def State.report (s : State) (cause : BitVec 16) (tval epc : W64) (t h : Nat) : State :=
  s.token ⟨cause, tval, epc, t, h, 0, true, s.faultAsid t h⟩

/-- The next word of a context, as its csr.epc holds it at an asynchronous trap (R357, R362): of a context that waits in a word, the one
behind it; of one at the monitor level, whose trap waits for its ERET, the word to which that returns. -/
def Ctx.nextWord (c : Ctx) : W64 :=
  if c.lvl then c.epc
  else match c.wait with
    | .idle | .fetch _ => c.here
    | _ => c.next.pc

/-- A fault that a unit raises and that freezes the region (R166, R171, R348, R362). -/
def State.unitFault (s : State) (h : Nat) (r : Region) (t code : Nat) (tval : W64) : State :=
  let s := s.setRegion h { r with frozen := true }
  let s := s.freeze r.tiles code tval t none
  let epc := match s.ctxAt t with
    | some c => c.nextWord
    | none => 0
  s.report (causeWord true 0 code) tval epc t h

/-! ### Routing -/

/-- Where a token goes next: an input queue, a link buffer, or nowhere. -/
inductive Dest where
  | input (t site k : Nat)
  | link (t site li slots : Nat)
  | lost (t : Nat)
  | shut
  deriving DecidableEq, Repr

/-- The neighbouring site in direction N, E, S or W, across the tile's edge inside the die (R10, R158). -/
def neighbour (t site dir : Nat) : Option (Nat × Nat) :=
  let x := siteSx site
  let y := siteSy site
  match dir with
  | 0 => if y < 7 then some (t, site + 8) else if tileTy t < 9 then some (t + 16, site - 56) else none
  | 1 => if x < 7 then some (t, site + 1) else if tileTx t < 9 then some (t + 1, site - 7) else none
  | 2 => if 0 < y then some (t, site - 8) else if 0 < tileTy t then some (t - 16, site + 56) else none
  | _ => if 0 < x then some (t, site - 1) else if 0 < tileTx t then some (t - 1, site + 7) else none

/-- The direction a token from direction `dir` arrives from. -/
def opposite (dir : Nat) : Nat := (dir + 2) % 4

/-- The links of a plane that a token from `from_` on `vc` takes at a site (R158). -/
def Plane.matches (p : Plane) (site from_ vc : Nat) : List (Nat × BitVec 16) :=
  ((List.range 8).zip (p.linksOf site)).filter fun (_, w) => swFrom w == from_ && swVc w == vc

/-- A token of the new epoch at a site that has not swapped (R166): it waits, and the new plane serves it after the swap. -/
def Tile.early (t : Tile) (site : Nat) (ep : Bool) : Bool := ep != t.epoch && !t.flipped.contains site

/-- The first buffers of a token of epoch `ep` from `from_` on `vc` at a site: a wire passes it on (R158, R159), but no wire of a frozen tile
behind the first one (R361), and no wire of a site that has still to swap to the token's plane (R166). A cycle of wires inside one tile is
refused at load (R50); that one which closes only through a neighbouring tile's configuration is refused nowhere, and a token in it is dropped
when the fuel has run out, is the model's choice (log 76). -/
def State.route (s : State) (t0 : Nat) : Nat → Nat → Nat → Nat → Nat → Bool → List Dest
  | 0, t, _, _, _, _ => [.lost t]
  | fuel + 1, t, site, from_, vc, ep =>
    match (s.tile t).plane ep with
    | none => if ep = (s.tile t).epoch then [.lost t] else [.shut]
    | some p =>
      match p.matches site from_ vc with
      | [] => [.lost t]
      | ws => ws.flatMap fun (li, w) =>
        if swSlots w ≠ 0 then [.link t site li (swSlots w)]
        else if 4 ≤ swTo w then [.input t site (swTo w - 4)]
        else if (s.tile t).early site ep || (t != t0 && (s.tile t).frozen) then [.shut]
        else match neighbour t site (swTo w) with
          | some (t', site') => State.route s t0 fuel t' site' (opposite (swTo w)) vc ep
          | none => [.shut]

/-- Whether an input port takes tokens at all: a disabled VE port, an SE in mode off and a port the SE's mode does not list take
none; nor do control and config tokens enter a VE (R152, R156, R192). -/
def Tile.takes (t : Tile) (site k : Nat) (x : Tok) (ep : Bool) : Bool :=
  if isVe site then
    match (t.plane ep).bind fun p => SMap.get? p.ves site with
    | some c => bits (c.pw.getD k 0) 31 31 == 1 && x.kind != 3 && x.kind != 4
    | none => false
  else
    let w := match (t.plane ep).bind fun p => SMap.get? p.ses site with
      | some c => c.word
      | none => 0
    let mode := bits w 31 29
    match mode with
    | 1 => (k == 0 || k == 1) && (x.kind == 0 || x.kind == 2)
    | 2 => k == 0
    | 3 => k == 0
    | 4 => k == 0 && (x.kind == 0 || x.kind == 2)
    | 5 => k ≤ 3
    | _ => false

/-- A token of the old epoch at a site that has swapped (R166). -/
def Tile.isStray (t : Tile) (site : Nat) (x : Tok) : Bool := t.flipped.contains site && x.ep == t.epoch

/-- The ring entry of a link in the plane of an epoch. -/
def Tile.ring? (t : Tile) (site li : Nat) (ep : Bool) : Option RingCfg :=
  (t.plane ep).bind fun p => SMap.get? p.rings (8 * site + li)

/-- The key of what a link holds beside its buffer in the plane of an epoch: its ring (R160) and its window (R161). -/
def eKey (site li : Nat) (ep : Bool) : Nat := 8 * site + li + if ep then 512 else 0

/-- Tokens in a ring (R160): its head and tail count entries. -/
def Tile.ringHt (t : Tile) (site li : Nat) (ep : Bool) : Nat × Nat := SMap.getD t.ringHT (eKey site li ep) (0, 0)

/-- A link's ring holds tokens in the plane of an epoch. -/
def Tile.ringHeld (t : Tile) (site li : Nat) (ep : Bool) : Bool := decide ((t.ringHt site li ep).1 < (t.ringHt site li ep).2)

/-- A link that leads into an input port of its own site. -/
def Tile.ownLink (t : Tile) (site li : Nat) (ep : Bool) : Bool := match (t.plane ep).bind fun p => p.link site li with
  | some w => 4 ≤ swTo w
  | none => false

/-- A token of the old epoch that reaches the buffer of a link into an own input port of a site that has swapped (R166). -/
def Tile.linkStray (t : Tile) (site li : Nat) (x : Tok) : Bool := t.isStray site x && t.ownLink site li x.ep

/-- The cut edge of a link. -/
def Tile.cut? (t : Tile) (site li : Nat) (ep : Bool) : Option CutCfg := (t.plane ep).bind fun p => SMap.get? p.cuts (8 * site + li)

/-- Slots that a link of `slots` slots has free for tokens of an epoch (R159). A cut edge's slots are its window: what the receiver has not
granted, and what waits at the sender, are not free, so that the edge as a whole holds as many tokens as an s-slot link (R161). -/
def Tile.linkFree (t : Tile) (site li slots : Nat) (ep : Bool) : Nat :=
  let b := t.buf (lKey site li)
  match t.cut? site li ep with
  | some _ => SMap.getD t.windows (eKey site li ep) 0 - b.toks.length - b.resv
  | none => b.free slots

/-- A token as 72 bytes: header word, epoch word, lanes (R372). -/
def tokBytes (x : Tok) : List Byte :=
  leBytes 4 x.hdr.toNat ++ leBytes 4 (if x.ep then 1 else 0) ++ (List.range 16).flatMap fun i => leBytes 4 (x.lanes.at i).toNat

/-- A token from its 72 bytes. -/
def tokOfBytes (bs : List Byte) : Tok :=
  let w (i : Nat) : W32 := BitVec.ofNat 32 (leNat ((bs.drop (4 * i)).take 4))
  ⟨w 0, w 1 &&& 1 != 0, lanesOf fun i => w (i + 2)⟩

/-- The physical address of a ring entry, under the plane's ASID (log 14). -/
def State.ringPa (s : State) (p : Plane) (r : RingCfg) (i : Nat) : Option Nat :=
  let va := r.base + BitVec.ofNat 64 (128 * (i % 2 ^ (r.lg - 7)))
  match walkTables s p.asid va with
  | some e => if e.w && !e.cow && e.kind == .normal then some (e.phys va) else none
  | none => none

/-- A destination that is a spilling link whose slots are full, or whose ring still holds tokens: the token enters the ring (R160). Tokens in the
ring of either plane leave ahead of it, so one of the old plane's does not enter its ring while the new plane's holds tokens. Slots that
firings have reserved are kept free in the ring too. A link with spill = 1 and no ring entry never spills, which is the model's choice (log
74). -/
def State.spill (s : State) (x : Tok) : Dest → Option State
  | .link t site li slots =>
    let tl := s.tile t
    match tl.plane x.ep, tl.ring? site li x.ep with
    | some p, some r =>
      let (h, e) := tl.ringHt site li x.ep
      let other := tl.ringHeld site li (!x.ep)
      if (h < e ∨ other ∨ tl.linkFree site li slots x.ep = 0) ∧ (other → x.ep ≠ tl.epoch) ∧ e - h + (tl.buf (lKey site li)).resv < 2 ^ (r.lg - 7) then
        match s.ringPa p r e with
        | some pa => some { (s.updTile t fun tl => { tl with ringHT := SMap.put tl.ringHT (eKey site li x.ep) (h, e + 1) }) with mem := s.memWrite pa (tokBytes x) }
        | none => none
      else none
    | _, _ => none
  | _ => none

/-- A destination can take the token now: none in a frozen tile can (R361). -/
def State.canTake (s : State) (x : Tok) : Dest → Bool
  | .lost t => !(s.tile t).frozen
  | .shut => false
  | .input t site k =>
    let tl := s.tile t
    !tl.frozen && (!tl.takes site k x x.ep || (tl.isStray site x && !tl.strict) || 0 < (tl.buf (qKey site k)).free 4)
  | .link t site li slots =>
    let tl := s.tile t
    !tl.frozen && ((tl.linkStray site li x && !tl.strict)
      || (!tl.ringHeld site li false && !tl.ringHeld site li true && 0 < tl.linkFree site li slots x.ep)
      || (s.spill x (.link t site li slots)).isSome)

/-- A STRAY fault at a site (R166). -/
def State.strayFault (s : State) (t site where_ : Nat) (x : Tok) : State :=
  match s.regionOf t with
  | none => s
  | some (h, r) =>
    let tval := BitVec.ofNat 64 (where_ * 2 ^ 38 + site * 2 ^ 32 + x.hdr.toNat)
    s.unitFault h r t 0x22 tval

/-- A token reaches the slots of a link: a stray is dropped or, in strict mode, stays there and faults (R166). -/
def State.land (s : State) (t site li : Nat) (x : Tok) : State :=
  if (s.tile t).linkStray site li x then
    if (s.tile t).strict then (s.updTile t fun tl => tl.push (lKey site li) x).strayFault t site (4 + li) x else s.strays t 1
  else s.updTile t fun tl => tl.push (lKey site li) x

/-- Put a token into a destination (`resv` gives back a reserved slot): what the port does not take is dropped and counted, a
stray is dropped or, in strict mode, stays and faults. -/
def State.deliver (s : State) (x : Tok) (resv : Bool) : Dest → State
  | .lost t => s.drop t 1
  | .shut => s
  | .link t site li slots =>
    let s := if resv then s.updTile t fun tl => tl.resv (lKey site li) (-1) else s
    if (s.tile t).linkStray site li x then s.land t site li x
    else match s.spill x (.link t site li slots) with
      | some s' => s'
      | none => s.land t site li x
  | .input t site k =>
    let s := if resv then s.updTile t fun tl => tl.resv (qKey site k) (-1) else s
    let tl := s.tile t
    if tl.isStray site x then
      if tl.strict then (s.updTile t fun tl => tl.push (qKey site k) x).strayFault t site k x else s.strays t 1
    else if !tl.takes site k x x.ep then s.drop t 1
    else s.updTile t fun tl => tl.push (qKey site k) x

/-- Reserve a slot in a destination (R153). -/
def State.reserve (s : State) : Dest → State
  | .link t site li _ => s.updTile t fun tl => tl.resv (lKey site li) 1
  | .input t site k => s.updTile t fun tl => tl.resv (qKey site k) 1
  | _ => s
/-- Release a reserved slot (R189). -/
def State.unreserve (s : State) : Dest → State
  | .link t site li _ => s.updTile t fun tl => tl.resv (lKey site li) (-1)
  | .input t site k => s.updTile t fun tl => tl.resv (qKey site k) (-1)
  | _ => s

/-- Every destination of a token takes it, each with what the others have taken: two copies into one buffer need two slots (R158, R159). -/
def State.canTakeAll (s : State) (x : Tok) : List Dest → Bool
  | [] => true
  | d :: ds => s.canTake x d && (s.reserve d).canTakeAll x ds

/-- The fuel of a route through wires: inside a tile no cycle of links has zero slots on all of them (R50). -/
def wireFuel : Nat := 512

/-- A token enters the links of a site from a direction. -/
def State.dests (s : State) (t site from_ : Nat) (x : Tok) : List Dest := s.route t wireFuel t site from_ x.vc x.ep

/-- All destinations of a token take it. -/
def State.canSend (s : State) (t site from_ : Nat) (x : Tok) : Bool := s.canTakeAll x (s.dests t site from_ x)

/-- Send a token into the links of a site; a marker that passes a site is a progress event (R348). -/
def State.send (s : State) (t site from_ : Nat) (x : Tok) : State :=
  let s := (s.dests t site from_ x).foldl (fun s d => s.deliver x false d) s
  if x.isMarker then s.progress t else s.moved t

/-- The windows of the cut edges that the plane of an epoch holds have all been granted once (R161). -/
def Tile.cutsOpen (t : Tile) (ep : Bool) : Bool :=
  match t.plane ep with
  | some p => p.cuts.all fun (k, _) => (SMap.get? t.windows (eKey (k / 8) (k % 8) ep)).isSome
  | none => true

/-- Whether the region port can inject a token at its site's AUX now (R169, R159, R361). -/
def State.canInject (s : State) (t vp : Nat) : Bool :=
  let tl := s.tile t
  match tl.port? vp with
  | some (w, ep) =>
    !vpOut w && !tl.frozen && tl.cutsOpen ep &&
      s.canSend t (vpSite w) 6 ⟨mkHdr 0 0 0 (vpVc w), ep, lanesOf fun _ => 0⟩
  | none => false

/-- The island that hosts a region (R343). -/
def Region.island (r : Region) : Nat := islandOf r.sw

/-- The cycle at which a SOT that arrives now starts a period of a contract of kind frames (R343). -/
def Contract.sot (k : Contract) (now : W64) : W64 :=
  let first := k.start + BitVec.ofNat 64 k.p
  if k.began && now < first then first else now

/-- A SOT is injected into a region port: on the frame port of a contract it starts the next period (R343). -/
def State.frameSot (s : State) (t vp : Nat) : State :=
  match s.regionOf t with
  | none => s
  | some (h, r) => match r.contract with
    | none => s
    | some k =>
      if k.frames && k.tile == t && k.vp == vp && k.due.isNone then
        s.setRegion h { r with contract := some { k with due := some (k.sot (s.cycles r.island)) } }
      else s

/-- A token as a region port injects it: on the port's vc and under the epoch of its site (R165, R178). -/
def portTok (x : Tok) (w : W32) (ep : Bool) : Tok := { x with hdr := (x.hdr &&& 0xFFFFFFE0#32) ||| BitVec.ofNat 32 (vpVc w), ep := ep }

/-- Inject a token at a region port (R165, R178). -/
def State.inject (s : State) (t vp : Nat) (x : Tok) : State :=
  match (s.tile t).port? vp with
  | some (w, ep) =>
    let x := portTok x w ep
    let s := if x.isMarker && x.index == 0x10 then s.frameSot t vp else s
    let s := s.send t (vpSite w) 6 x
    if x.isMarker && x.index == 3 then s.updTile t fun tl => { tl with held := insRising tl.held vp } else s
  | none => s

/-! ### Out ports of a VE -/

/-- The region port that carries out port `o` of a site, if any (R169). -/
def Plane.outVp (p : Plane) (site o : Nat) : Option Nat :=
  (p.vps.find? fun (_, w) => vpOut w && vpSite w == site && vpPort w == o).map (·.1)

/-- Where out port `o` of a VE leads: a region port's queue, or links (R152). -/
def State.outCan (s : State) (t site o : Nat) (x : Tok) : Bool :=
  match ((s.tile t).plane x.ep).bind fun p => p.outVp site o with
  | some vp => 0 < ((s.tile t).buf (vKey vp)).free 4
  | none => s.canSend t site (4 + o) x

/-- Reserve one slot for out port `o` (R153). -/
def State.outReserve (s : State) (t site o : Nat) (x : Tok) : State :=
  match ((s.tile t).plane x.ep).bind fun p => p.outVp site o with
  | some vp => s.updTile t fun tl => tl.resv (vKey vp) 1
  | none => (s.dests t site (4 + o) x).foldl State.reserve s
/-- Give the slot back (R189). -/
def State.outRelease (s : State) (t site o : Nat) (x : Tok) : State :=
  match ((s.tile t).plane x.ep).bind fun p => p.outVp site o with
  | some vp => s.updTile t fun tl => tl.resv (vKey vp) (-1)
  | none => (s.dests t site (4 + o) x).foldl State.unreserve s
/-- The plane active at a site names vpN for out port `o` of it: its queue takes that port's tokens, those of the old plane among them
where R230 keeps it (R169), be it not the one on which that plane's own firings send. -/
def Tile.queues (t : Tile) (site o vp : Nat) : Bool := match (t.at site).bind fun p => SMap.get? p.vps vp with
  | some w => vpOut w && vpSite w == site && vpPort w == o
  | none => false

/-- Emit a token on out port `o`. A region port's queue keeps the tokens of the old plane only where R230 keeps it. -/
def State.outEmit (s : State) (t site o : Nat) (x : Tok) (resv : Bool) : State :=
  let s := if x.isMarker then s.progress t else s.moved t
  match ((s.tile t).plane x.ep).bind fun p => p.outVp site o with
  | some vp =>
    let tl := s.tile t
    let tl := if resv then tl.resv (vKey vp) (-1) else tl
    if tl.queues site o vp
    then s.setTile t (let tl := tl.push (vKey vp) x
      if x.isMarker && x.index == 3 then { tl with held := insRising tl.held vp } else tl)
    else (s.setTile t tl).strays t 1
  | none => (s.dests t site (4 + o) x).foldl (fun s d => s.deliver x resv d) s

/-! ### VE steps -/

/-- Head and follower of an input queue of a site that has the site's epoch. -/
def Tile.queue (t : Tile) (site k : Nat) : List Tok := (t.buf (qKey site k)).toks

/-- A port's word. -/
def portWord (c : VeCfg) (k : Nat) : W32 := c.pw.getD k 0
/-- hold of an input port (R48). -/
def portHold (c : VeCfg) (k : Nat) : Bool := bits (portWord c k) 29 29 == 1
/-- isect of in0 (R48). -/
def isectOn (c : VeCfg) : Bool := bits (portWord c 0) 30 30 == 1

/-- The rank of a token (R192). -/
def rankOf (x : Tok) : Nat :=
  if !x.isMarker then 0 else if 0x10 ≤ x.index then 1 else x.index + 2

/-- What a port of the read set presents (R192): the token, and whether it stands behind a held data head. Under the
intersection unit the ports in0 and in1 present a pair token once it may fire (R193). -/
inductive Shown where
  | none
  | head (x : Tok)
  | behind (x : Tok)
  | pair
  deriving DecidableEq, Repr

/-- A head the site may consume: one of its own epoch (R166). -/
def Tile.own (t : Tile) (site k : Nat) : List Tok := (t.queue site k).takeWhile fun x => x.ep == t.siteEp site

/-- What port `k` presents. Under the intersection unit hold = 1 of in0 and in1 does nothing, which is the model's choice (log 90). -/
def Tile.shown (t : Tile) (c : VeCfg) (site k : Nat) : Shown :=
  let v := t.ve site
  let markers := [0, 1].all fun j => match t.own site j with
    | x :: _ => x.isMarker
    | [] => false
  if isectOn c && k < 2 then
    if 16 ≤ v.pairs.length || (markers && !v.pairs.isEmpty) then .pair
    else if markers then (match t.own site k with
      | x :: _ => .head x
      | [] => .none)
    else .none
  else match t.own site k with
    | [] => .none
    | x :: l =>
      if portHold c k && !x.isMarker then
        match l with
        | y :: _ => if y.isMarker then .behind y else .head x
        | [] => .head x
      else .head x

/-- The rank a port presents. -/
def Shown.rank : Shown → Option (Nat × Nat)
  | .none => Option.none
  | .pair => some (0, 0)
  | .head x => some (rankOf x, if x.isMarker then x.index else 0)
  | .behind x => some (rankOf x, x.index)

/-- What the read set presents: none until every port has a head. -/
def Tile.presented (t : Tile) (c : VeCfg) (site : Nat) : Option (List (Nat × Nat × Nat)) :=
  (readSet c).foldr (fun k acc => match acc, (t.shown c site k).rank with
    | some l, some (r, code) => some ((k, r, code) :: l)
    | _, _ => none) (some [])

/-- st1 takes a firing: at most six in flight, none waiting at the end of st6 (R151, R154). -/
def Ve.ready (v : Ve) : Bool := v.pipe.length < 6 && !(v.pipe.any fun f => f.started)

/-- A token of the epoch of the site for asking the write set. -/
def probe (c : VeCfg) (o : Nat) (ep : Bool) : Tok :=
  ⟨mkHdr 0 0 (bits (portWord c (4 + o)) 7 5) (bits (portWord c (4 + o)) 12 8), ep, lanesOf fun _ => 0⟩

/-- Reserve a slot for out port `o` if it is in the write set. -/
def State.portReserve (s : State) (t site : Nat) (c : VeCfg) (o : Nat) : State :=
  if writes c o then s.outReserve t site o (probe c o ((s.tile t).siteEp site)) else s

/-- Out port `o` is not in the write set, or has a free slot. -/
def State.portFree (s : State) (t site : Nat) (c : VeCfg) (o : Nat) : Bool :=
  !writes c o || s.outCan t site o (probe c o ((s.tile t).siteEp site))

/-- Every port of the write set has a free slot (R153), out port 1 beside the one that out port 0 takes (R159). -/
def State.writeFree (s : State) (t site : Nat) (c : VeCfg) : Bool := s.portFree t site c 0 && (s.portReserve t site c 0).portFree t site c 1

/-- Reserve the write set. -/
def State.writeReserve (s : State) (t site : Nat) (c : VeCfg) : State := (s.portReserve t site c 0).portReserve t site c 1

/-- A result as a token of out port `o` (R189). -/
def resultTok (c : VeCfg) (o index : Nat) (ep : Bool) (r : Option (Lanes × BitVec 16)) : List Tok :=
  match r with
  | some (l, m) => [⟨mkHdr index m.toNat (bits (portWord c (4 + o)) 7 5) (bits (portWord c (4 + o)) 12 8), ep, l⟩]
  | none => []

/-- Write back the registers of a VE after the stages. -/
def Ve.after (v : Ve) (p : Pass) : Ve := { v with acc0 := p.acc0, acc1 := p.acc1, st := p.st, touched := p.touched }

/-- The operand of a port in a data firing. The words of a pair token are decoded one by one, each under the kind and the vc of the token it
came from (R155, R193): a leaf's stay raw. -/
def Tile.fireHead (t : Tile) (c : VeCfg) (site k : Nat) : Lanes × BitVec 16 × Flags :=
  let v := t.ve site
  if isectOn c && k < 2 then
    let els := (List.range v.pairs.length).map fun i =>
      let h := ((if k = 0 then v.pairHdrA else v.pairHdrB).getD i 0).toNat
      let w := (v.pairs[i]?.getD (0, 0))
      decodeHead c ⟨mkHdr 0 (2 ^ i) (h / 32) (h % 32), false, lanesOf fun j => if j = i then (if k = 0 then w.1 else w.2) else 0⟩
    (lanesOf fun i => match els[i]? with
      | some e => e.1.at i
      | none => 0, BitVec.ofNat 16 (2 ^ v.pairs.length - 1), els.foldl (fun f e => f ||| e.2.2) 0)
  else match t.own site k with
    | x :: _ => decodeHead c x
    | [] => (lanesOf fun _ => 0, 0, 0)

/-- A data firing (R153, R154, R188, R189): the results are computed as the firing enters st1. -/
def veDataFiring (t site : Nat) (s : State) : State :=
  let tl := s.tile t
  match tl.veCfg site with
  | none => s
  | some c =>
    match tl.presented c site with
    | some (p :: ps) =>
      if tl.frozen || !(tl.ve site).ready || !((p :: ps).all fun x => x.2.1 == 0) || !s.writeFree t site c then s
      else
        let rs := readSet c
        let v := tl.ve site
        let heads : SMap (Lanes × BitVec 16 × Flags) := rs.map fun k => (k, tl.fireHead c site k)
        let index := match rs with
          | k :: _ => if isectOn c && k < 2 then 0 else match tl.own site k with
            | x :: _ => x.index
            | [] => 0
          | [] => 0
        let ep := tl.siteEp site
        let q := runStages (stepData ⟨heads, tl.warp, c.st⟩) c.st (Pass.start v)
        let f : Firing := ⟨resultTok c 0 index ep q.out0, resultTok c 1 index ep q.out1, writes c 0, writes c 1, q.flags, false, ep, false⟩
        let s := s.writeReserve t site c
        let s := s.updTile t fun tl =>
          let tl := rs.foldl (fun tl k => if (isectOn c && k < 2) || portHold c k then tl else tl.pop (qKey site k)) tl
          let v := (tl.ve site).after q
          tl.setVe site (if isectOn c then { v with pipe := v.pipe ++ [f], pairs := [], pairHdrA := [], pairHdrB := [] }
            else { v with pipe := v.pipe ++ [f] })
        s.progress t
    | _ => s

/-- A marker firing (R154, R190). -/
def veMarkerFiring (t site : Nat) (s : State) : State :=
  let tl := s.tile t
  match tl.veCfg site with
  | none => s
  | some c =>
    match tl.presented c site with
    | some ((_, r, code) :: ps) =>
      if tl.frozen || !(tl.ve site).ready || r == 0 || !(ps.all fun x => x.2.1 == r && x.2.2 == code) || !s.writeFree t site c then s
      else
        let rs := readSet c
        let v := tl.ve site
        let ep := tl.siteEp site
        let lvl := if code < 4 then some code else none
        let q := runStages (stepMarker ⟨[], tl.warp, c.st⟩ lvl) c.st (Pass.start v)
        let mk (o : Nat) : List Tok := if writes c o then [mkMarker code (bits (portWord c (4 + o)) 12 8) ep] else []
        let f : Firing := ⟨resultTok c 0 0 ep q.out0 ++ mk 0, resultTok c 1 0 ep q.out1 ++ mk 1, writes c 0, writes c 1, q.flags, true, ep, false⟩
        let s := s.writeReserve t site c
        let s := s.updTile t fun tl =>
          let tl := rs.foldl (fun tl k => match tl.shown c site k with
            | .behind _ => (tl.pop (qKey site k)).pop (qKey site k)
            | _ => tl.pop (qKey site k)) tl
          let v := (tl.ve site).after q
          tl.setVe site { v with pipe := v.pipe ++ [f], lastA := none, lastB := none, skipA := false, skipB := false,
                                 eos := v.eos || code == 3 }
        s.progress t
    | _ => s

/-- Port `k` discards what it presents (R192): the tile, and the tokens discarded. Keys restart at a marker that goes (R193). That a pair token
which in0 and in1 present together counts as one token is the model's choice (log 94). -/
def Tile.discard (t : Tile) (c : VeCfg) (site k : Nat) : Shown → Tile × Nat
  | .behind _ => ((t.pop (qKey site k)).pop (qKey site k), 2)
  | .pair =>
    if (t.ve site).pairs.isEmpty then (t, 0)
    else (t.setVe site { t.ve site with pairs := [], pairHdrA := [], pairHdrB := [] }, 1)
  | .head x =>
    if portHold c k && !x.isMarker then (t, 0)
    else
      let t := t.pop (qKey site k)
      let v := t.ve site
      (if isectOn c && x.isMarker && k < 2 then t.setVe site (if k = 0 then { v with lastA := none } else { v with lastB := none }) else t, 1)
  | .none => (t, 0)

/-- Rank discard (R192): every port that presents the lowest rank discards what it presents. -/
def veRankDiscard (t site : Nat) (s : State) : State :=
  let tl := s.tile t
  match tl.veCfg site with
  | none => s
  | some c =>
    match tl.presented c site with
    | some ((k0, r0, c0) :: ps) =>
      if tl.frozen || (ps.all fun x => x.2.1 == r0 && x.2.2 == c0) then s
      else
        let low := ps.foldl (fun m x => min m x.2.1) r0
        let ks := (((k0, r0, c0) :: ps).filter fun x => x.2.1 == low).map (·.1)
        let r := ks.foldl (fun (acc : Tile × Nat) k =>
          let d := acc.1.discard c site k (tl.shown c site k)
          (d.1, acc.2 + d.2)) (tl, 0)
        ((s.setTile t r.1).drop t r.2).moved t
    | _ => s

/-- The lowest valid lane of a token. -/
def firstLane (x : Tok) : Option Nat := (List.range 16).find? fun i => x.mask.getLsbD i

/-- Take the lowest valid lane off the head of a queue; a token without a valid lane is consumed. -/
def Tile.takeElem (t : Tile) (site k : Nat) : Tile :=
  match t.queue site k with
  | x :: l =>
    match firstLane x with
    | some i =>
      let m := x.mask &&& ~~~(BitVec.ofNat 16 (2 ^ i))
      if m = 0 then t.pop (qKey site k)
      else
        let b := t.buf (qKey site k)
        t.setBuf (qKey site k) { b with toks := { x with hdr := mkHdr x.index m.toNat x.kind x.vc } :: l }
    | none => t.pop (qKey site k)
  | [] => t

/-- One comparison of the intersection unit (R193). -/
def isectCompare (t site : Nat) (s : State) : State :=
  let tl := s.tile t
  match tl.veCfg site with
  | none => s
  | some c =>
    if tl.frozen || !isectOn c || 16 ≤ (tl.ve site).pairs.length then s
    else
      let v := tl.ve site
      match tl.own site 0, tl.own site 1 with
      | x :: _, y :: _ =>
        if x.isMarker && y.isMarker then s
        else if x.isMarker then (s.setTile t (tl.takeElem site 1)).moved t
        else if y.isMarker then (s.setTile t (tl.takeElem site 0)).moved t
        else match firstLane x, firstLane y with
          | none, _ => (s.setTile t (tl.takeElem site 0)).moved t
          | _, none => (s.setTile t (tl.takeElem site 1)).moved t
          | some i, some j =>
            let a := x.lanes.at i
            let b := y.lanes.at j
            let ka := BitVec.ofNat 16 (bits a 31 16)
            let kb := BitVec.ofNat 16 (bits b 31 16)
            let late (l : Option (BitVec 16)) (k : BitVec 16) : Bool := match l with
              | some z => !(z < k)
              | none => false
            if late v.lastA ka then ((s.setTile t (tl.takeElem site 0)).drop t 1).moved t
            else if late v.lastB kb then ((s.setTile t (tl.takeElem site 1)).drop t 1).moved t
            else if ka < kb then (s.setTile t ((tl.takeElem site 0).setVe site { v with lastA := some ka })).moved t
            else if kb < ka then (s.setTile t ((tl.takeElem site 1).setVe site { v with lastB := some kb })).moved t
            else (s.setTile t (((tl.takeElem site 0).takeElem site 1).setVe site { v with
              lastA := some ka, lastB := some kb, pairs := v.pairs ++ [(a, b)],
              pairHdrA := v.pairHdrA ++ [x.hdr.setWidth 8], pairHdrB := v.pairHdrB ++ [y.hdr.setWidth 8] })).moved t
      | _, _ => s

/-- Send what a firing still owes on out port `o`, using its reserved slot first: the tokens left, and whether the slot is still
held. A port whose result is void releases its slot (R189). -/
def State.emitPort (s : State) (t site o : Nat) (c : VeCfg) (ep : Bool) (xs : List Tok) (resv : Bool) (marker : Bool) : State × List Tok :=
  match xs with
  | [] => (if resv then s.outRelease t site o (probe c o ep) else s, [])
  | x :: l =>
    let (s, l) := if resv then (s.outEmit t site o x true, l)
      else if s.outCan t site o x then (s.outEmit t site o x false, l) else (s, x :: l)
    match l with
    | [] => (s, [])
    | y :: l' => if marker && resv && s.outCan t site o y then (s.outEmit t site o y false, l') else (s, l)

/-- Flags are raised (R75): a clear in the same island cycle leaves them set. -/
def Ve.flag (v : Ve) (f : BitVec 6) : Ve := { v with flags := v.flags ||| f, raised := v.raised ||| f }

/-- The way of a firing's result is barred: a wire of a frozen tile lies on it (R361). -/
def State.barred (s : State) (t site o : Nat) (c : VeCfg) (ep : Bool) : Bool :=
  (((s.tile t).plane ep).bind fun p => p.outVp site o).isNone && (s.dests t site (4 + o) (probe c o ep)).contains .shut

/-- The oldest firing leaves st6 (R151, R154, R75): its results enter their slots, its flags are set; a marker behind a result
waits until a further slot is free. -/
def veFiringResult (t site : Nat) (s : State) : State :=
  let tl := s.tile t
  let v := tl.ve site
  match v.pipe with
  | [] => s
  | f :: fs =>
    let ep := f.ep
    match (tl.plane ep).bind fun p => SMap.get? p.ves site with
    | none => s.setTile t (tl.setVe site { v.flag f.flags with pipe := fs })
    | some c =>
      if (f.r0 && s.barred t site 0 c ep) || (f.r1 && s.barred t site 1 c ep) then s
      else
        let (s, l0) := s.emitPort t site 0 c ep f.o0 f.r0 f.marker
        let (s, l1) := s.emitPort t site 1 c ep f.o1 f.r1 f.marker
        s.updTile t fun tl =>
          let v := (tl.ve site).flag f.flags
          if l0.isEmpty && l1.isEmpty then tl.setVe site { v with pipe := fs }
          else tl.setVe site { v with
            pipe := { f with o0 := l0, o1 := l1, r0 := false, r1 := false, flags := 0, started := true } :: fs }

/-! ### Links, rings, cut edges and the router -/

/-- Where the head of a link goes (R158, R161). -/
inductive Hop where
  | go (ds : List Dest)
  | cut (c : CutCfg)
  deriving DecidableEq, Repr

/-- The next hop of the head of link `li`; a token of the new epoch waits in its buffer at a site that has not swapped (R166). -/
def State.hop (s : State) (t site li : Nat) (x : Tok) : Option Hop :=
  let tl := s.tile t
  match tl.plane x.ep with
  | none => none
  | some p =>
    if tl.early site x.ep then none
    else match SMap.get? p.cuts (8 * site + li), p.link site li with
    | some c, _ => some (.cut c)
    | none, some w =>
      if 4 ≤ swTo w then some (.go [.input t site (swTo w - 4)])
      else match neighbour t site (swTo w) with
        | some (t', site') =>
          if (s.tile t').region = tl.region then some (.go (s.dests t' site' (opposite (swTo w)) x)) else none
        | none => none
    | none, none => none

/-- What a link holds, its ring's tokens among it. -/
def Tile.linkFill (t : Tile) (site li : Nat) : Nat :=
  (t.buf (lKey site li)).toks.length + ((t.ringHt site li false).2 - (t.ringHt site li false).1)
    + ((t.ringHt site li true).2 - (t.ringHt site li true).1)

/-- All that a link holds stands ahead of the config tokens on their way (R165, R173). -/
def Tile.markLink (t : Tile) (site li : Nat) : Tile :=
  let b := t.buf (lKey site li)
  if t.linkFill site li = 0 then t else t.setBuf (lKey site li) { b with ahead := t.linkFill site li }

/-- A token that stood ahead of the config tokens has come into the next links: so does all that they hold by then. -/
def State.carry (s : State) (ds : List Dest) : State :=
  ds.foldl (fun (s : State) d => match d with
    | .link t site li _ => s.updTile t fun tl => tl.markLink site li
    | _ => s) s

/-- The head of a link has a free slot downstream (R159). -/
def State.hopOpen (s : State) (t site li : Nat) (x : Tok) : Bool := match s.hop t site li x with
  | some (.go ds) => s.canTakeAll x ds
  | some (.cut _) => 0 < SMap.getD (s.tile t).windows (eKey site li x.ep) 0
  | none => false

/-- The hop to another site on which the head of a link goes, if it leads there: the direction (R158). -/
def Tile.hopDir (t : Tile) (site li : Nat) : Option Nat := match (t.buf (lKey site li)).toks with
  | x :: _ => match (t.plane x.ep).bind fun p => p.link site li with
    | some w => if swTo w < 4 then some (swTo w) else none
    | none => none
  | [] => none

/-- It is the link's turn on its hop (R159): of the links of the site that hold a token for the same hop and have a free slot downstream, it
is the first behind the one that the hop served last. -/
def State.hopTurn (s : State) (t site li : Nat) : Bool :=
  let tl := s.tile t
  match tl.hopDir site li with
  | none => true
  | some dir =>
    let last := SMap.getD tl.turns (4 * site + dir) 7
    let place (j : Nat) : Nat := (j + 7 - last % 8) % 8
    (List.range 8).all fun j => place li ≤ place j || tl.hopDir site j != some dir ||
      !(match (tl.buf (lKey site j)).toks with
        | y :: _ => s.hopOpen t site j y
        | [] => false)

/-- The hop has served a link. -/
def Tile.served (t : Tile) (site li : Nat) : Tile := match t.hopDir site li with
  | some dir => { t with turns := SMap.put t.turns (4 * site + dir) li }
  | none => t

/-- A token moves over a link (R158, R159, R161): into the next buffers, copied to every link of a multicast, or over a cut edge
while its window is above zero. Links on one hop share it round robin. -/
def linkTokenMove (t site li : Nat) (s : State) : State :=
  let tl := s.tile t
  if tl.frozen || !s.hopTurn t site li then s
  else match (tl.buf (lKey site li)).toks with
    | [] => s
    | x :: _ =>
      match s.hop t site li x with
      | none => s
      | some (.go ds) =>
        if s.canTakeAll x ds then
          let first := 0 < (tl.buf (lKey site li)).ahead
          let s := ds.foldl (fun s d => s.deliver x false d) (s.updTile t fun tl => (tl.served site li).pop (lKey site li))
          let s := if first then s.carry ds else s
          if x.isMarker then s.progress t else s.moved t
        else s
      | some (.cut c) =>
        let k := eKey site li x.ep
        let win := SMap.getD tl.windows k 0
        let here := bits64 (BitVec.ofNat 64 c.tile.toNat) 21 10 = s.hub.pkg.toNat
        if win = 0 ∨ (here ∧ (s.tile (c.tile.toNat % 1024)).frozen) then s
        else
          let first := 0 < (tl.buf (lKey site li)).ahead
          let s := (s.updTile t fun tl => { ((tl.served site li).pop (lKey site li)) with windows := SMap.put tl.windows k (win - 1) }).moved t
          if here then s.updTile (c.tile.toNat % 1024) fun r =>
            let y : InTok := ⟨1024 * t + k, c.site, none, x, first⟩
            { r with inq := if first then r.inq.map (fun z => { z with ahead := true }) ++ [y] else r.inq ++ [y] }
          else s

/-- The oldest token of a link's ring goes without coming into the slots: if it stood ahead of config tokens, one less does. -/
def Tile.passOver (t : Tile) (site li : Nat) : Tile :=
  let b := t.buf (lKey site li)
  if b.toks.length < b.ahead then t.setBuf (lKey site li) { b with ahead := b.ahead - 1 } else t

/-- A token read back from a ring leaves it into the link's slots, ahead of later tokens (R160); the ring of the old plane goes first. One of
the old epoch that so reaches an own input's link at a site that has swapped is stray (R166). -/
def ringRefill (t site li : Nat) (s : State) : State :=
  let tl := s.tile t
  if tl.frozen then s
  else
    let go (ep : Bool) : Option State :=
      let (h, e) := tl.ringHt site li ep
      match tl.plane ep, tl.ring? site li ep with
      | some p, some r =>
        match p.link site li, s.ringPa p r h with
        | some w, some pa =>
          if h < e ∧ 0 < tl.linkFree site li (swSlots w) ep then
            let x := tokOfBytes (s.seen.bytes pa 72)
            let s := (s.setTile t { tl with ringHT := SMap.put tl.ringHT (eKey site li ep) (h + 1, e) }).moved t
            some ((if tl.linkStray site li x && !tl.strict then s.updTile t fun tl => tl.passOver site li else s).land t site li x)
          else none
        | _, _ => none
      | _, _ => none
    match go tl.epoch with
    | some s' => s'
    | none => if tl.ringHeld site li tl.epoch then s else (go (!tl.epoch)).getD s

/-- A freed slot is reported on the return wire (R159). -/
def creditReturn (t key : Nat) (s : State) : State :=
  let b := (s.tile t).buf key
  if b.ret = 0 then s else s.updTile t fun tl => tl.setBuf key { b with ret := b.ret - 1 }

/-- The receiver of a cut edge grants or raises the window, up to the link's slots less what it has not yet taken in (R161): of the edge that
the plane active at the link's site holds, which starts at zero and is first granted when the receiver has swapped, or of the old plane's. A
window once granted rises while the receiver swaps too. That 'has swapped to the configuration that holds the
edge' means that the receiver has an active plane and no swap in progress is the model's choice (log 75). -/
def cutEdgeWindowGrant (t site li : Nat) (s : State) : State :=
  let tl := s.tile t
  let go (ep : Bool) : Option State :=
    match tl.cut? site li ep, (tl.plane ep).bind fun p => p.link site li with
    | some c, some w =>
      let k := eKey site li ep
      let r := s.tile (c.tile.toNat % 1024)
      let here := bits64 (BitVec.ofNat 64 c.tile.toNat) 21 10 = s.hub.pkg.toNat
      let win := SMap.getD tl.windows k 0
      let due := (r.inq.filter fun x => x.src == 1024 * t + k).length
      let new := (SMap.get? tl.windows k).isNone
      if new ∧ (ep ≠ tl.siteEp site ∨ (here ∧ ((r.plane r.epoch).isNone ∨ r.swapping))) then none
      else if win + (if here then due else 0) < swSlots w then
        some (s.updTile t fun tl => { tl with windows := SMap.put tl.windows k (if new then swSlots w else win + 1) })
      else none
    | _, _ => none
  match go (tl.siteEp site) with
  | some s' => s'
  | none => (go (!tl.siteEp site)).getD s

/-- A bad header (R54). -/
def badHeader (x : InTok) : Bool :=
  x.tok.kind == 7 || (x.tok.kind == 6 && x.xe8.isNone) || (x.tok.kind == 2 && !markerLegal x.tok.index)

/-! ### XE8 (R65 to R68) -/

/-- The exponent tokens of a block: `n` elements left, the bits left; the distances and the bits used, or none where the string
ends, or malformed. -/
inductive XParse where
  | short
  | bad
  | ok (ds : List Nat) (rest : List Bool)
  deriving DecidableEq, Repr

/-- Bits of a byte string, bit 0 of byte 0 first (R65). -/
def bitsOf (bs : List Byte) : List Bool := bs.flatMap fun b => (List.range 8).map fun i => b.getLsbD i

/-- One Rice quotient of at most `lim` one-bits: structural on the bits. -/
def riceQ : List Bool → Nat → Nat → Option (Option (Nat × List Bool))
  | [], _, _ => none
  | true :: l, q, lim => if q = lim then some none else riceQ l (q + 1) lim
  | false :: l, q, _ => some (some (q, l))

/-- `k` raw bits, most significant first. -/
def rawBits : Nat → List Bool → Nat → Option (Nat × List Bool)
  | 0, l, acc => some (acc, l)
  | _ + 1, [], _ => none
  | k + 1, b :: l, acc => rawBits k l (2 * acc + (if b then 1 else 0))

/-- The exponent tokens of `n` elements (R66). -/
def parseExps (table emax : Nat) : Nat → List Bool → List Nat → XParse
  | 0, l, ds => .ok ds.reverse l
  | n + 1, l, ds =>
    if table = 3 then
      match rawBits 4 l 0 with
      | none => .short
      | some (d, r) => if emax < d then .bad else parseExps table emax n r (d :: ds)
    else match riceQ l 0 (15 / 2 ^ table) with
      | none => .short
      | some none => .bad
      | some (some (q, r)) =>
        match rawBits table r 0 with
        | none => .short
        | some (x, r) =>
          let d := q * 2 ^ table + x
          if emax < d then .bad else parseExps table emax n r (d :: ds)

/-- What the decoder makes of the bytes it has (R65, R67): more bytes needed, malformed, or a block's lanes and its byte length. -/
inductive XBlock where
  | short
  | bad
  | ok (lanes : Lanes) (used : Nat)
  deriving DecidableEq, Repr

/-- Parse one block at the head of a byte string. -/
def parseBlock (bs : List Byte) : XBlock :=
  if bs.length < 18 then .short
  else
    let hd := leNat (bs.take 2)
    if hd % 4 ≠ 0 then .bad
    else
      let emax := hd / 16 % 16
      let table := hd / 4 % 4
      let sm := leNat ((bs.drop 2).take 16)
      let l := bitsOf (bs.drop 18)
      match parseExps table emax 32 l [] with
      | .short => .short
      | .bad => .bad
      | .ok ds r =>
        let usedBits := l.length - r.length
        let used := 18 + (usedBits + 7) / 8
        if (r.take (8 * (used - 18) - usedBits)).any id then .bad
        else
          let el (i : Nat) : Nat :=
            let f := sm / 16 ^ i % 16
            f / 8 * 128 + (emax - ds.getD i 0) * 8 + f % 8
          .ok (lanesOf fun i =>
            if i < 8 then BitVec.ofNat 32 (el (4 * i) + 256 * el (4 * i + 1) + 65536 * el (4 * i + 2) + 16777216 * el (4 * i + 3))
            else if i = 8 then BitVec.ofNat 32 (hd / 256) else 0) used

/-- The token of a malformed block (R67). -/
def badLanes : Lanes := lanesOf fun i => if i < 8 then 0x7F7F7F7F else if i = 8 then 0xFF else 0

/-- Expand the blocks that are complete; `fuel` bounds the blocks in the bytes. -/
def expand : Nat → Xe8 → Nat → Xe8 × Nat
  | 0, d, e => (d, e)
  | n + 1, d, e =>
    if d.bytes = [] ∨ d.skip then (if d.skip then { d with bytes := [] } else d, e)
    else match parseBlock d.bytes with
      | .short => (d, e)
      | .bad => ({ d with bytes := [], skip := true, blk := d.blk + 1,
                          due := d.due ++ [⟨mkHdr d.blk 0x01FF 0 0, false, badLanes⟩] }, e + 1)
      | .ok l used => expand n { d with bytes := d.bytes.drop used, blk := d.blk + 1,
                                        due := d.due ++ [⟨mkHdr d.blk 0x01FF 0 0, false, l⟩] } e

/-- The valid bytes of a kind-6 token (R170). -/
def xe8Bytes (x : Tok) : List Byte :=
  (List.range 16).flatMap fun i => if x.mask.getLsbD i then leBytes 4 (x.lanes.at i).toNat else []

/-- The bytes at a decoder are part of a block (R67): the zero bytes that fill the last word of a string are none (R170). -/
def midBlock (bs : List Byte) : Bool := 4 ≤ bs.length || bs.any fun b => b != 0

/-- Write the decoder of a port. -/
def Tile.setXe8 (t : Tile) (vp : Nat) (d : Xe8) : Tile := { t with xe8 := SMap.put t.xe8 vp d }

/-- The decoder of a port injects a token; one that stands ahead of config tokens on their way stays ahead of them (R165, R173). -/
def State.xe8Inject (s : State) (t vp : Nat) (x : Tok) (first : Bool) : State :=
  match first, (s.tile t).port? vp with
  | true, some (w, ep) => (s.inject t vp x).carry (s.dests t (vpSite w) 6 (portTok x w ep))
  | _, _ => s.inject t vp x

/-- Tokens that the decoder of a port still owes are injected ahead of all that follows for it (R67). -/
def xe8Drain (t vp : Nat) (s : State) : State :=
  let tl := s.tile t
  let d := SMap.getD tl.xe8 vp {}
  match d.due with
  | y :: ys =>
    if s.canInject t vp then (s.setTile t (tl.setXe8 vp { d with due := ys, ahead := d.ahead - 1 })).xe8Inject t vp y (0 < d.ahead) else s
  | [] => s

/-- What the decoder of a port now owes came of a token that stands ahead of config tokens, or of one that does not. -/
def Xe8.mark (d : Xe8) (first : Bool) : Xe8 := { d with ahead := if first then d.due.length else 0 }

/-- A token at the router ingress (R54, R67, R161): a bad header is dropped and counted; an XE8 token goes to the decoder, which
injects the tokens it expands one by one at the port; any other token enters the links at AUX. A decoder that discards behind a malformed block
does so up to the next marker; that the first token of the next stream bound to the port ends it too, and starts parse and block number anew, is
the model's choice (log 95). -/
def routerIngress (t : Nat) (s : State) : State :=
  let tl := s.tile t
  if tl.frozen then s
  else match tl.inq with
    | [] =>
      match tl.xe8.find? fun (_, d) => !d.due.isEmpty with
      | some (vp, _) => xe8Drain t vp s
      | none => s
    | x :: rest =>
      let s0 := s.setTile t { tl with inq := rest }
      if badHeader x then s0.countTile t 6 1
      else match x.xe8 with
        | none =>
          if s.canSend t x.site 6 x.tok then
            let s' := s0.send t x.site 6 x.tok
            if x.ahead then s'.carry (s.dests t x.site 6 x.tok) else s'
          else s
        | some v =>
          let vp := v % 64
          let d := SMap.getD tl.xe8 vp {}
          match d.due with
          | _ :: _ => xe8Drain t vp s
          | [] =>
            let d := if 64 ≤ v then { d with bytes := [], blk := 0, skip := false } else d
            if x.tok.isMarker then
              if midBlock d.bytes then
                let d' : Xe8 := { d with bytes := [], blk := d.blk + 1, due := [⟨mkHdr d.blk 0x01FF 0 0, false, badLanes⟩] }
                (s.setTile t (tl.setXe8 vp (d'.mark x.ahead))).countTile t 6 1
              else if s.canInject t vp then
                (s0.updTile t fun tl => tl.setXe8 vp { d with skip := false, bytes := [] }).xe8Inject t vp x.tok x.ahead
              else s
            else
              let (d', e) := expand 8 { d with bytes := if d.skip then [] else d.bytes ++ xe8Bytes x.tok } 0
              (s0.updTile t fun tl => tl.setXe8 vp (d'.mark x.ahead)).countTile t 6 e

end Sys2Proof.Machine
end

