-- ==== Sys2Proof/Machine/SeModes.lean ====
section
/-! DEFINITION. The scratchpad elements: their bytes, the modes of R156, the bank tokens of R157 and the warp reference store
(R279 to R281). -/

namespace Sys2Proof.Machine

open Sys2Proof

/-! ### SE bytes -/

/-- The first local address of an SE (R120). -/
def seBase (site : Nat) : Nat := (4 * siteSy site + siteSx site / 2) * 32768
/-- The SE site of a local address (R120). -/
def seSite (la : Nat) : Nat :=
  let sy := la / 131072 % 8
  let half := la / 32768 % 4
  8 * sy + 2 * half + (if sy % 2 = 0 then 1 else 0)
/-- The bank number, 0 to 127, of a local address. -/
def bankOf (la : Nat) : Nat := la / 8192

/-- The byte at a local address; one that nothing has written since launch is a free value (R122, log 6). -/
def Tile.seByte (t : Tile) (la : Nat) : Byte := (SMap.get? t.sem la).getD (Config.seByte t.gen la)
/-- `n` bytes at a local address. -/
def Tile.seBytes (t : Tile) (la n : Nat) : List Byte := (List.range n).map fun i => t.seByte (la + i)
/-- Write bytes at a local address. -/
def Tile.seWrite (t : Tile) : Nat → List Byte → Tile
  | _, [] => t
  | la, b :: bs => Tile.seWrite { t with sem := SMap.put t.sem la b } (la + 1) bs
/-- The 32-bit word at a local address. -/
def Tile.seW32 (t : Tile) (la : Nat) : W32 := BitVec.ofNat 32 (leNat (t.seBytes la 4))

/-- base of an SE word, in bytes (R49). -/
def seLo (w : W32) : Nat := 8 * bits w 23 12
/-- The byte behind limit of an SE word. -/
def seHi (w : W32) : Nat := 8 * bits w 11 0 + 8
/-- The banks an SE word claims (R49), as numbers 0 to 3. -/
def seBanks (w : W32) : List Nat := (List.range 4).filter fun i => bits w (25 + i) (25 + i) == 1
/-- An access of an SE at a local address stalls: its bank is pending (R157), or the sequencer has accessed the bank in this island cycle, in
which the fabric's access would have been served first (R123). -/
def Tile.stalled (t : Tile) (la : Nat) : Bool := SMap.getD t.banks (bankOf la) 0 == 3 || t.seqBanks.contains (bankOf la)
/-- An access to some byte of a span of local addresses stalls. -/
def Tile.stalledIn (t : Tile) (la n : Nat) : Bool := t.stalled la || t.stalled (la + n - 1)
/-- The sequencer accesses a bank (R123). -/
def Tile.seqAccess (t : Tile) (la : Nat) : Tile := { t with seqBanks := insRising t.seqBanks (bankOf la) }

/-- The availability of R121: the bank is not claimed in mode FIFO, spill ring or warp reference store by the active plane. -/
def Tile.seAvailable (t : Tile) (la : Nat) : Bool :=
  let site := seSite la
  let w := t.seWord site
  let mode := bits w 31 29
  !((mode == 2 || mode == 3 || mode == 5) && (seBanks w).contains (la / 8192 % 4))

/-! ### RAM, FIFO, lookup table -/

/-- The head of an SE queue that its site may take. -/
def Tile.seHead (t : Tile) (site k : Nat) : Option Tok := (t.own site k).head?

/-- Mark that an SE has passed EOS (R165). -/
def Tile.seEos (t : Tile) (site : Nat) (x : Tok) : Tile :=
  if x.isMarker && x.index == 3 then t.setSe site { t.se site with eos := true } else t

/-- Pass a marker from I0 to O0 in order (R156). -/
def State.passMarker (s : State) (t site : Nat) (x : Tok) : State :=
  if s.canSend t site 4 x then
    (s.updTile t fun tl => (tl.pop (qKey site 0)).seEos site x).send t site 4 x
  else s

/-- A byte offset of a RAM-mode token is a multiple of 4 and its word does not lie beyond limit (R156). -/
def ramOk (w off : W32) : Bool := off.toNat % 4 == 0 && seLo w + off.toNat + 4 ≤ seHi w

/-- The local address of a byte offset of an SE. -/
def ramAt (site : Nat) (w off : W32) : Nat := seBase site + seLo w + off.toNat

/-- What a RAM-mode read answers (R156). A lane whose mask bit is clear reads 0 and is not counted, which is the model's choice (log 77). -/
def ramAnswer (t : Tile) (site : Nat) (w : W32) (x : Tok) : Tok :=
  { x with lanes := lanesOf fun i => if x.mask.getLsbD i && ramOk w (x.lanes.at i) then t.seW32 (ramAt site w (x.lanes.at i)) else 0 }

/-- Lanes of a RAM-mode read whose offset is out of place. -/
def ramBad (w : W32) (x : Tok) : Nat := ((List.range 16).filter fun i => x.mask.getLsbD i && !ramOk w (x.lanes.at i)).length

/-- A read of a RAM-mode token stalls. -/
def Tile.readStalls (t : Tile) (site : Nat) (w : W32) (x : Tok) : Bool :=
  (List.range 16).any fun i => x.mask.getLsbD i && ramOk w (x.lanes.at i) && t.stalled (ramAt site w (x.lanes.at i))

/-- RAM mode, a read at I0 (R156). -/
def seRamRead (t site : Nat) (s : State) : State :=
  let tl := s.tile t
  let w := tl.seWord site
  if tl.frozen || isVe site || bits w 31 29 != 1 then s
  else match tl.seHead site 0 with
    | none => s
    | some x =>
      if x.isMarker then s.passMarker t site x
      else if tl.readStalls site w x then s
      else
        let out := ramAnswer tl site w x
        if s.canSend t site 4 out then
          ((s.updTile t fun tl => tl.pop (qKey site 0)).drop t (ramBad w x)).send t site 4 out
        else s

/-- The pairs of a RAM-mode write (R156): lane 2j an offset, lane 2j + 1 its word. A pair acts where both its mask bits are set, which is the
model's choice (log 77). -/
def ramPairs (x : Tok) : List (W32 × W32) :=
  ((List.range 8).filter fun j => x.mask.getLsbD (2 * j) && x.mask.getLsbD (2 * j + 1)).map fun j => (x.lanes.at (2 * j), x.lanes.at (2 * j + 1))

/-- The pairs of a RAM-mode write stored, in order of lanes. -/
def Tile.ramStore (t : Tile) (site : Nat) (w : W32) (ps : List (W32 × W32)) : Tile :=
  ps.foldl (fun t p => if ramOk w p.1 then t.seWrite (ramAt site w p.1) (leBytes 4 p.2.toNat) else t) t

/-- RAM mode, a write at I1 (R156). -/
def seRamWrite (t site : Nat) (s : State) : State :=
  let tl := s.tile t
  let w := tl.seWord site
  if tl.frozen || isVe site || bits w 31 29 != 1 then s
  else match tl.seHead site 1 with
    | none => s
    | some x =>
      if x.isMarker then (s.setTile t (tl.pop (qKey site 1))).progress t
      else if (ramPairs x).any fun p => ramOk w p.1 && tl.stalled (ramAt site w p.1) then s
      else
        let bad := ((ramPairs x).filter fun p => !ramOk w p.1).length
        ((s.setTile t ((tl.pop (qKey site 1)).ramStore site w (ramPairs x))).drop t bad).moved t

/-- The capacity of a FIFO, 9 units to a token (R156). In spill-ring mode the same: a full FIFO frees no slot on I0, so the slots of the link
feeding I0 fill, its tokens enter its ring, and leave it in order ahead of later tokens (R160). -/
def Tile.fifoCap (t : Tile) (site : Nat) : Nat :=
  let w := t.seWord site
  (seHi w - seLo w) / 8 / 9

/-- Entry `i` of a FIFO lies in a bank on which the SE's access stalls. -/
def Tile.entryStalls (t : Tile) (site i : Nat) : Bool :=
  t.stalledIn (seBase site + seLo (t.seWord site) + 72 * (i % max 1 (t.fifoCap site))) 72

/-- The oldest token of a FIFO leaves on O0 (R156). -/
def seFifoOut (t site : Nat) (s : State) : State :=
  let tl := s.tile t
  let e := tl.se site
  match e.fifo with
  | x :: l =>
    if !tl.entryStalls site e.first && s.canSend t site 4 x then
      (s.updTile t fun tl => (tl.setSe site { e with fifo := l, first := (e.first + 1) % max 1 (tl.fifoCap site) }).seEos site x).send t site 4 x
    else s
  | [] => s

/-- The head of I0 enters a FIFO while there is room (R156). -/
def seFifoIn (t site : Nat) (s : State) : State :=
  let tl := s.tile t
  let e := tl.se site
  match tl.seHead site 0 with
  | some x =>
    if e.fifo.length < tl.fifoCap site && !tl.entryStalls site (e.first + e.fifo.length) then
      (s.setTile t ((tl.pop (qKey site 0)).setSe site { e with fifo := e.fifo ++ [x] })).moved t
    else s
  | none => s

/-- FIFO and spill-ring modes (R156): the oldest token leaves on O0, and the head of I0 is taken in while there is room. -/
def seFifoPass (t site : Nat) (s : State) : State :=
  let tl := s.tile t
  let mode := tl.seMode site
  if tl.frozen || isVe site || (mode != 2 && mode != 3) then s else seFifoIn t site (seFifoOut t site s)

/-- The index of a lookup does not lie beyond limit. -/
def lutOk (w ix : W32) : Bool := seLo w + 4 * ix.toNat + 4 ≤ seHi w
/-- The local address of a lookup. -/
def lutAt (site : Nat) (w ix : W32) : Nat := seBase site + seLo w + 4 * ix.toNat

/-- What a lookup answers (R156): lane i the word at index lane i; beyond limit a value the spec does not give (log 18). A lane whose
mask bit is clear answers 0, which is the model's choice (log 77). -/
def lutAnswer (t : Tile) (free site : Nat) (w : W32) (x : Tok) : Tok :=
  { x with lanes := lanesOf fun i =>
      if !x.mask.getLsbD i then 0
      else if lutOk w (x.lanes.at i) then t.seW32 (lutAt site w (x.lanes.at i))
      else (Config.freeWord (free + i)).setWidth 32 }

/-- Lookup-table mode (R156). -/
def seLutLookup (t site : Nat) (s : State) : State :=
  let tl := s.tile t
  let w := tl.seWord site
  if tl.frozen || isVe site || bits w 31 29 != 4 then s
  else match tl.seHead site 0 with
    | none => s
    | some x =>
      if x.isMarker then s.passMarker t site x
      else if (List.range 16).any fun i => x.mask.getLsbD i && lutOk w (x.lanes.at i) && tl.stalled (lutAt site w (x.lanes.at i)) then s
      else
        let out := lutAnswer tl s.free site w x
        if s.canSend t site 4 out then
          ((s.updTile t fun tl => tl.pop (qKey site 0)).draw 16).send t site 4 out
        else s

/-! ### The warp reference store -/

/-- A set-up token at I3 (R279). -/
def warpStoreSetup (t site : Nat) (s : State) : State :=
  let tl := s.tile t
  let w := tl.seWord site
  if tl.frozen || isVe site || bits w 31 29 != 5 || !(tl.se site).outq.isEmpty then s
  else match tl.seHead site 3 with
    | none => s
    | some x =>
      let s := s.updTile t fun tl => tl.pop (qKey site 3)
      if x.kind != 0 then (if x.isMarker then s.progress t else s.drop t 1)
      else
        let ww := (x.lanes.at 2).toNat
        let wh := (x.lanes.at 3).toNat
        let fmt := (x.lanes.at 4).toNat
        let e : Se := { tl.se site with
          ox := x.lanes.at 0, oy := x.lanes.at 1, ww := ww, wh := wh, fmt := fmt, fill := 0, done1 := false, done2 := false }
        if ww = 0 ∨ wh = 0 ∨ seHi w / 8 - seLo w / 8 < ww * wh * 9 ∨ 2 < fmt then
          (s.updTile t fun tl => tl.setSe site { e with on := false }).drop t 1
        else (s.updTile t fun tl => tl.setSe site { e with on := true }).moved t

/-- Channel `c` of a feature token (R279), widened to FP32. That a lane whose mask bit is clear stores 0 is the model's choice, as it is that the
lanes of a metadata or set-up token count whatever its mask (log 100). -/
def featureChan (fmt : Nat) (x : Tok) (c : Nat) : W32 :=
  let lane (m : Nat) : W32 := if x.mask.getLsbD m then x.lanes.at m else 0
  if fmt = 0 then lane c
  else if fmt = 1 then BitVec.ofNat 32 (bits (lane (c / 2)) (16 * (c % 2) + 15) (16 * (c % 2)) * 65536)
  else (round32 0 (e4m3.num (bits (lane (c / 4)) (8 * (c % 4) + 7) (8 * (c % 4))))).1

/-- Fill the next cell from the heads of I1 and I2 (R280). -/
def warpStoreFill (t site : Nat) (s : State) : State :=
  let tl := s.tile t
  let w := tl.seWord site
  if tl.frozen || isVe site || bits w 31 29 != 5 then s
  else
    let e := tl.se site
    let eat (k : Nat) (x : Tok) : State :=
      let e := if x.isMarker && x.index == 2 then (if k = 1 then { e with done1 := true } else { e with done2 := true }) else e
      let s := s.setTile t ((tl.pop (qKey site k)).setSe site e)
      if x.isMarker then s.progress t else s.drop t 1
    match tl.seHead site 1, tl.seHead site 2 with
    | some x, some y =>
      if x.kind != 0 then eat 1 x
      else if y.kind != 0 then eat 2 y
      else
        let la := seBase site + seLo w + 72 * e.fill
        if e.on && e.fill < e.ww * e.wh && tl.stalledIn la 68 then s
        else
        let tl := (tl.pop (qKey site 1)).pop (qKey site 2)
        if !e.on ∨ e.ww * e.wh ≤ e.fill then (s.setTile t tl).drop t 2
        else
          let tl := tl.seWrite la ((List.range 16).flatMap fun c => leBytes 4 (featureChan e.fmt x c).toNat)
          let tl := tl.seWrite (la + 64) (leBytes 4 (y.lanes.at 0).toNat)
          (s.setTile t (tl.setSe site { e with fill := e.fill + 1 })).moved t
    | some x, none => if x.isMarker then eat 1 x else s
    | none, some y => if y.isMarker then eat 2 y else s
    | none, none => s

/-- The cells of non-zero weight of a request, in order (R281). -/
def warpCells (sx sy : Int) : List (Int × Int × Nat) :=
  let x0 := sx / 64
  let y0 := sy / 64
  let ax := (sx % 64).toNat
  let ay := (sy % 64).toNat
  [(x0, y0, (64 - ax) * (64 - ay)), (x0 + 1, y0, ax * (64 - ay)), (x0, y0 + 1, (64 - ax) * ay), (x0 + 1, y0 + 1, ax * ay)].filter
    fun c => c.2.2 != 0

/-- One lane's answer (R281): none while a cell is not filled; else the features and the summary. -/
def warpAnswer (t : Tile) (site : Nat) (w : W32) (e : Se) (req : W32) : Option (Lanes × W32) :=
  let sx := sextNat 16 (bits req 15 0)
  let sy := sextNat 16 (bits req 31 16)
  let cs := warpCells sx sy
  if !e.on || cs.any (fun c => c.1 < 0 || c.2.1 < 0 || (e.ww : Int) ≤ c.1 || (e.wh : Int) ≤ c.2.1) then
    some (lanesOf fun _ => 0, 0x80000000)
  else
    let ks := cs.map fun c => (c.2.1.toNat * e.ww + c.1.toNat, c.2.2)
    let complete := e.done1 && e.done2
    if !complete && ks.any (fun k => e.fill ≤ k.1) then none
    else
      let la (k : Nat) : Nat := seBase site + seLo w + 72 * k
      let chan (k c : Nat) : W32 := if k < e.fill then t.seW32 (la k + 4 * c) else 0
      let meta_ (k : Nat) : W32 := if k < e.fill then t.seW32 (la k + 64) else 0x01000000
      let scaled (k c wt : Nat) : W32 := (round32 0 (((num32 (chan k c)).mul (.fin false wt (-12))).1)).1
      let feat (c : Nat) : W32 := match ks with
        | [] => 0
        | k :: rest => rest.foldl (fun f k => (fadd 0 f (scaled k.1 c k.2)).1) (scaled k.1 c k.2)
      let depth := ks.foldl (fun m k => max m (bits (meta_ k.1) 7 0)) 0
      let drift := ks.foldl (fun m k => max m (bits (meta_ k.1) 23 8)) 0
      let dmg := ks.any fun k => bits (meta_ k.1) 24 24 == 1
      let io := ks.any fun k => bits (meta_ k.1) 25 25 == 1
      let frac := sx % 64 != 0 || sy % 64 != 0
      some (lanesOf feat, BitVec.ofNat 32 ((if frac then 2 ^ 30 else 0) + (if io then 2 ^ 25 else 0) + (if dmg then 2 ^ 24 else 0)
        + drift * 256 + depth))

/-- The cells that a request reads lie in a bank on which the SE's access stalls (R157). -/
def Tile.warpStalls (t : Tile) (site : Nat) (w : W32) (e : Se) (req : W32) : Bool :=
  (warpCells (sextNat 16 (bits req 15 0)) (sextNat 16 (bits req 31 16))).any fun c =>
    0 ≤ c.1 && 0 ≤ c.2.1 && c.1 < (e.ww : Int) && c.2.1 < (e.wh : Int)
      && t.stalledIn (seBase site + seLo w + 72 * (c.2.1.toNat * e.ww + c.1.toNat)) 68

/-- A request token at I0 is answered (R281): its summary on O1 at once, its features on O0 one by one, under whatever plane the site has by
then (R18). That they leave on the request's virtual
channel is the model's choice (log 100). -/
def warpStoreRequest (t site : Nat) (s : State) : State :=
  let tl := s.tile t
  let w := tl.seWord site
  if tl.frozen || isVe site || (bits w 31 29 != 5 && (tl.se site).outq.isEmpty) then s
  else
    let e := tl.se site
    match e.outq with
    | y :: ys =>
      if s.canSend t site 4 y then (s.updTile t fun tl => tl.setSe site { e with outq := ys }).send t site 4 y else s
    | [] =>
      match tl.seHead site 0 with
      | none => s
      | some x =>
        if x.isMarker then s
        else if x.kind != 0 then (s.updTile t fun tl => tl.pop (qKey site 0)).drop t 1
        else if (List.range 16).any fun i => x.mask.getLsbD i && tl.warpStalls site w e (x.lanes.at i) then s
        else
          let ans : List (Option (Nat × Lanes × W32)) := ((List.range 16).filter fun i => x.mask.getLsbD i).map fun i =>
            (warpAnswer tl site w e (x.lanes.at i)).map fun a => (i, a.1, a.2)
          if ans.any Option.isNone then s
          else
            let as := ans.filterMap id
            let sum : Tok := ⟨mkHdr x.index x.mask.toNat 0 x.vc, x.ep, lanesOf fun i => match as.find? fun a => a.1 == i with
              | some a => a.2.2
              | none => 0⟩
            if s.canSend t site 5 sum then
              let outq := as.map fun a => (⟨mkHdr a.1 0xFFFF 0 x.vc, x.ep, a.2.1⟩ : Tok)
              (s.updTile t fun tl => (tl.pop (qKey site 0)).setSe site { e with outq := outq }).send t site 5 sum
            else s

/-- A marker at I0 leaves on O0 and O1 once every earlier request is answered (R281). -/
def warpStoreMarker (t site : Nat) (s : State) : State :=
  let tl := s.tile t
  if tl.frozen || isVe site || tl.seMode site != 5 || !(tl.se site).outq.isEmpty then s
  else match tl.seHead site 0 with
    | some x =>
      if x.isMarker && s.canTakeAll x (s.dests t site 4 x ++ s.dests t site 5 x) then
        ((s.updTile t fun tl => (tl.pop (qKey site 0)).seEos site x).send t site 4 x).send t site 5 x
      else s
    | none => s

/-! ### Bank tokens -/

/-- Whether a plane's SE word claims a bank. -/
def Tile.claims (t : Tile) (bank : Nat) : Bool :=
  let site := seSite (8192 * bank)
  [t.p0, t.p1].any fun o => match o.bind fun p => SMap.get? p.ses site with
    | some c => (seBanks c.word).contains (bank % 4)
    | none => false

/-- The bank moves at a site's swap (R157): `w` is the new SE word. -/
def Tile.swapBanks (t : Tile) (site : Nat) (w : W32) : Tile :=
  (List.range 4).foldl (fun t i =>
    let b := bankOf (seBase site) + i
    let o := SMap.getD t.banks b 0
    let n := if (seBanks w).contains i then (if o = 2 ∨ o = 3 then 3 else 1) else (if o = 2 ∨ o = 3 then 2 else 0)
    { t with banks := SMap.put t.banks b n }) t

/-- GIVE (R157): the owner after the hand-over, and whether the sequencer held the bank. -/
def Tile.give (t : Tile) (bank : Nat) : Tile × Bool :=
  let o := SMap.getD t.banks bank 0
  if o = 2 ∨ o = 3 then ({ t with banks := SMap.put t.banks bank (if t.claims bank then 1 else 0) }, true) else (t, false)

/-- TAKE may be granted now (R157). -/
def Tile.takable (t : Tile) (bank : Nat) : Bool :=
  let o := SMap.getD t.banks bank 0
  o == 0 || o == 2 || o == 3 || (o == 1 && (t.se (seSite (8192 * bank))).eos)

/-- The grant: of a free bank the sequencer becomes the owner; of a fabric-owned bank the claim is pending (R157). -/
def Tile.grant (t : Tile) (bank : Nat) : Tile :=
  let o := SMap.getD t.banks bank 0
  { t with banks := SMap.put t.banks bank (if o = 1 ∨ o = 3 then 3 else 2) }

end Sys2Proof.Machine
end

