-- ==== Sys2Proof/Machine/Mem.lean ====
section
/-! DEFINITION. Requests and their homes: issuing, performing one at a time (R131, R132), write-once presence and deferral (R142 to
R146), atomics (R137 to R141), barrier updates (R262, R268), the device registers (R366, R378), and the reads of engines. -/

namespace Sys2Proof.Machine

open Sys2Proof

/-! ### Device registers -/

/-- Error counters by their double number (R366): whether a device double is one. -/
def isCounter (dbl : Nat) : Bool :=
  (dbl < 0x80000 && dbl % 512 < 16 && isTile (tileTy (dbl / 512)) (tileTx (dbl / 512))) ||
    (0x80000 ≤ dbl && dbl < 0x80000 + 512 * 16 && dbl % 512 < 16)

/-- A queue. -/
def Hub.queue (h : Hub) (q : Nat) : Queue := SMap.getD h.queues q {}
/-- en of a queue (R379). -/
def Queue.en (q : Queue) : Bool := bits64 q.cfg 31 31 == 1
/-- owner. -/
def Queue.owner (q : Queue) : Nat := bits64 q.cfg 17 16
/-- prio. -/
def Queue.prio (q : Queue) : Nat := bits64 q.cfg 14 12
/-- die. -/
def Queue.home (q : Queue) : Nat := bits64 q.cfg 9 8
/-- lg. -/
def Queue.lg (q : Queue) : Nat := bits64 q.cfg 5 0

/-- The double at offset `off` of the hub register block as head `head` reads it (R378, R379, R384, R386, R387); none where no
register is assigned. -/
def Hub.read (h : Hub) (head off : Nat) : Option W64 :=
  if off = 0 then some ((0#16 ++ Config.revision) ++ 0x48560004#32)
  else if off = 8 then some (BitVec.ofNat 64 head)
  else if 0x100 ≤ off ∧ off < 0x120 then some (h.devfeat.extractLsb' (8 * (off - 0x100)) 64)
  else if 0x120 ≤ off ∧ off < 0x140 then some (h.drvfeat.extractLsb' (8 * (off - 0x120)) 64)
  else if off = 0x140 then some (BitVec.ofNat 64 ((if h.done then 1 else 0) + (if h.ok then 2 else 0)))
  else if off = 0x1000 then some (if h.magic then 0x4B484F56 else 0)
  else if off = 0x1008 then some (BitVec.ofNat 64 h.jbase)
  else if off = 0x1010 then some (BitVec.ofNat 64 h.jlg)
  else if off = 0x1018 then some (h.gen.getD 3 0 ++ h.gen.getD 2 0 ++ h.gen.getD 1 0 ++ h.gen.getD 0 0)
  else if off = 0x1020 then some (h.live.setWidth 64)
  else if 0x1028 ≤ off ∧ off < 0x1800 then
    some (BitVec.ofNat 64 (leNat ((List.range 8).map fun i => SMap.getD h.hand (off - 0x1000 + i) 0)))
  else if off = 0x1800 then some (if h.claim.getLsbD head then 1 else 0)
  else if 0x100000 ≤ off ∧ off < 0x100000 + 32 * 4096 then
    let q := h.queue ((off - 0x100000) / 32)
    match off / 8 % 4 with
    | 0 => some q.base
    | 1 => some q.cfg
    | 2 => some (q.fetched ++ q.posted)
    | _ => some q.cbase
  else none

/-- The device double at `pa`, a multiple of 8, as head `head` reads it (R366, R378); a place without a register reads a value the spec does
not give, the free value `k` (log 15). -/
def State.devDouble (s : State) (head k pa : Nat) : W64 :=
  let dbl := (pa - 0x3F000000000) / 8
  if isCounter dbl then (SMap.getD s.ctr dbl 0).setWidth 64
  else if 0x3F100000000 ≤ pa then (s.hub.read head (pa - 0x3F100000000)).getD (Config.freeWord k)
  else Config.freeWord k

/-- The doubles that `n` bytes at `pa` touch. -/
def doublesIn (pa n : Nat) : Nat := (pa % 8 + n + 7) / 8

/-- `n` bytes of the device registers (R366, R378). -/
def State.devRead (s : State) (head pa n : Nat) : List Byte :=
  (((List.range (doublesIn pa n)).flatMap fun i => leBytes 8 (s.devDouble head (s.free + i) (8 * (pa / 8) + 8 * i)).toNat).drop (pa % 8)).take n

/-- A store of any value to an error counter clears it (R366). -/
def State.clearCounter (s : State) (pa : Nat) : State :=
  let dbl := (pa - 0x3F000000000) / 8
  if inDevice pa && isCounter dbl then { s with ctr := SMap.del s.ctr dbl } else s

/-- A store of `n` bytes from inside the device to the device registers: the counters that it touches are cleared; the hub register block
drops and counts it (R378); elsewhere nothing is assigned (log 15). -/
def State.devWrite (s : State) (pa n : Nat) : State :=
  let s := (List.range (doublesIn pa n)).foldl (fun (s : State) i => s.clearCounter (8 * (pa / 8) + 8 * i)) s
  if 0x3F100000000 ≤ pa ∧ pa < 0x3F100000000 + 0x208000 then s.count (ctrHub 15 15) 1 else s

/-! ### Performing a request at its home -/

/-- The 8-byte words that `n` bytes at `pa` touch. -/
def wordsOf (pa n : Nat) : List Nat := (List.range ((pa + n - 1) / 8 + 1 - pa / 8)).map fun i => pa / 8 + i

/-- Every write-once word of a read is present (R142). -/
def State.allPresent (s : State) (pa n : Nat) : Bool := (wordsOf pa n).all fun w => s.present.contains w

/-- The value of a read. -/
def State.homeRead (s : State) (q : Req) : List Byte :=
  if q.kind == .device && inDevice q.pa then s.devRead 0 q.pa q.n else s.mem.bytes q.pa q.n

/-- Replace a request. -/
def State.setReq (s : State) (q : Req) : State := { s with reqs := s.reqs.map fun r => if r.id = q.id then q else r }
/-- Remove a request. -/
def State.delReq (s : State) (id : Nat) : State := { s with reqs := s.reqs.filter fun r => r.id != id }
/-- Find a request. -/
def State.req? (s : State) (id : Nat) : Option Req := s.reqs.find? fun r => r.id == id

/-- Answer the deferred reads whose words are now present, in the order they were deferred (R142). -/
def State.answerDeferred (s : State) : State :=
  { s with reqs := s.reqs.map fun r =>
      if r.st == .deferred && s.allPresent r.pa r.n then { r with st := .performed, dat := s.mem.bytes r.pa r.n } else r }

/-- New value of an AMO (R139): `n` bytes. -/
def amoNew (op : HomeOp) (n old v : Nat) : Nat :=
  let m := 2 ^ (8 * n)
  let so := sextNat (8 * n) old
  let sv := sextNat (8 * n) v
  match op with
  | .add => (old + v) % m
  | .and => old &&& v
  | .or => old ||| v
  | .xor => old ^^^ v
  | .min => if sv < so then v else old
  | .max => if so < sv then v else old
  | .minn => if v < old then v else old
  | .maxn => if old < v then v else old
  | .swp => v
  | .fadd => (fadd 0 (BitVec.ofNat 32 old) (BitVec.ofNat 32 v)).1.toNat
  | _ => old

/-- The update of R262 on a barrier's 16 bytes as a number; the second part is how many of the two counts were set to 0 from below. -/
def tbUpdate (b ds da : Nat) : Nat × Nat :=
  let es := b / 2 ^ 96
  let ea := b / 2 ^ 64 % 2 ^ 32
  let ps := b / 2 ^ 32 % 2 ^ 32
  let pa := b / 16 % 2 ^ 28
  let ph := b % 16
  let ps' := ps - ds
  let pa' := pa - da
  let clamp := (if ps < ds then 1 else 0) + if pa < da then 1 else 0
  if (0 < ds ∨ 0 < da) ∧ ps' = 0 ∧ pa' = 0 then
    (es * 2 ^ 96 + ea * 2 ^ 64 + es * 2 ^ 32 + ea % 2 ^ 28 * 16 + (ph + 1) % 16, clamp)
  else (es * 2 ^ 96 + ea * 2 ^ 64 + ps' * 2 ^ 32 + pa' * 16 + ph, clamp)

/-- TBINIT's new value (R268). -/
def tbInitVal (b : Nat) : Nat :=
  let e := b / 2 ^ 32 % 2 ^ 32
  let a := b % 2 ^ 28
  e * 2 ^ 96 + a * 2 ^ 64 + e * 2 ^ 32 + a * 16

/-- TBEXP's new value and its clamps (R268). -/
def tbExpVal (old b : Nat) : Nat × Nat :=
  let ps := old / 2 ^ 32 % 2 ^ 32 + b % 2 ^ 32
  let pa := old / 16 % 2 ^ 28 + b / 2 ^ 32 % 2 ^ 28
  (old / 2 ^ 64 * 2 ^ 64 + min ps (2 ^ 32 - 1) * 2 ^ 32 + min pa (2 ^ 28 - 1) * 16 + old % 16,
    (if 2 ^ 32 ≤ ps then 1 else 0) + if 2 ^ 28 ≤ pa then 1 else 0)

/-- Deferred reads that a home holds (R143). -/
def State.deferredAt (s : State) (home : Nat) : Nat := (s.reqs.filter fun r => r.st == .deferred && homeTile r.pa == home).length

/-- Another read stalls the read input channel of this one's memory tile (R143). -/
def State.channelStalled (s : State) (q : Req) : Bool :=
  q.op != .write && s.reqs.any fun r => r.stalled && r.id != q.id && homeTile r.pa == homeTile q.pa

/-- The context that a request is one of: by a word for a register, or for itself (R132, R402). -/
def Agent.ctx? : Agent → Option Nat
  | .ctx t => some t
  | .own t => some t
  | _ => none

/-- Two requests touch one word. -/
def Req.meets (q : Req) (pa n : Nat) : Bool := (wordsOf q.pa q.n).any fun w => (wordsOf pa n).contains w

/-- A read of a write-once page that stands in the read input channel of its memory tile, stalled or behind a stalled one: no write,
atomic or WOCLR waits for it (R143). -/
def State.inChannel (s : State) (q : Req) : Bool := q.op == .read && q.kind == .writeOnce && (q.stalled || s.channelStalled q)

/-- Host memory (R108). -/
def isHost (pa : Nat) : Bool := 0x40000000000000 ≤ pa && pa < 0x80000000000000

/-- The outgoing port of a request whose home is outside the package (R369): a Herran port, or a CXL port; none for a home in it. -/
def outPort (pa : Nat) : Option (Bool × Nat) :=
  if isPeer pa then some (true, herranOf pa) else if isHost pa then some (false, Config.cxlPort pa % 4) else none

/-- A request keeps those behind it at its outgoing port waiting: not a TBWAIT that waits for a phase, nor a read in a channel that stalls
(R143, R269). -/
def State.holdsUp (s : State) (r : Req) : Bool :=
  r.st == .issued && !r.lost && r.op != .tbWait && !(r.op != .write && (r.stalled || s.channelStalled r))

/-- An earlier request of the package left by the same port, which delivers it ahead of this one (R369). That a port has accepted a request as
it is issued, and that those it delivers are performed in that order, is the model's choice (log 102). -/
def State.behindAtPort (s : State) (q : Req) : Bool :=
  (outPort q.pa).isSome && (s.reqs.takeWhile fun r => r.id != q.id).any fun r => outPort r.pa == outPort q.pa && s.holdsUp r

/-- An earlier request of a context for one of some words is still on its way (R132, R143). -/
def State.blockedIn (s : State) (rs : List Req) (q : Req) : Bool :=
  match q.agent.ctx? with
  | some t => rs.any fun r => r.agent.ctx? == some t && r.st == .issued && r.meets q.pa q.n && !(q.op != .read && s.inChannel r)
  | none => false

/-- Whether an earlier request of the same context for one of the same words is still on its way (R132, R143), or one ahead of it at its
outgoing port (R369). -/
def State.blocked (s : State) (q : Req) : Bool := s.blockedIn (s.reqs.takeWhile fun r => r.id != q.id) q || s.behindAtPort q

/-- A read of a write-once page that needs a deferral (R143): deferred, or it stalls the channel of its memory tile, counted once. -/
def State.deferRead (s : State) (q : Req) : State :=
  if s.deferredAt (homeTile q.pa) < 4096 then s.setReq { q with st := .deferred, stalled := false }
  else if q.stalled then s
  else (s.setReq { q with stalled := true }).countTile (homeTile q.pa) 13 1

/-- Write the 8-byte words of `n` bytes of a write-once page at `pa`, each where it is empty (R144): the words dropped, which their home
counts. -/
def State.woWrite (s : State) (pa n : Nat) (bs : List Byte) : State × Nat :=
  (List.range (n / 8)).foldl (fun (acc : State × Nat) i =>
    let (s, k) := acc
    let a := pa + 8 * i
    if s.present? a then (s.countTile (homeTile a) 13 1, k + 1)
    else ({ s with mem := s.mem.putBytes a ((bs.drop (8 * i)).take 8), present := insRising s.present (a / 8) }.answerDeferred, k)) (s, 0)

/-- A write arrives at its home (R131, R144). -/
def State.homeWrite (s : State) (q : Req) : State :=
  let done := s.setReq { q with st := .performed }
  match q.kind with
  | .device => if inDevice q.pa then done.devWrite q.pa q.n else { done with mem := s.mem.putBytes q.pa q.dat }
  | .normal => { done with mem := s.mem.putBytes q.pa q.dat }
  | .writeOnce =>
    if q.pa % 8 ≠ 0 ∨ q.n % 8 ≠ 0 then (s.setReq { q with st := .performed, failed := true, drops := 1 }).countTile (homeTile q.pa) 13 1
    else
      let r := s.woWrite q.pa q.n q.dat
      r.1.setReq { q with st := .performed, failed := r.2 != 0, drops := r.2 }

/-- The traffic of a request to a peer is lost (R118, R340, R388). -/
def State.cut (s : State) (q : Req) : Bool := !q.lost && s.peerDown q.pa

/-- A read or write arrives at its home and is performed there (R131, R142 to R144). -/
def homePerform (id : Nat) (s : State) : State :=
  match s.req? id with
  | none => s
  | some q =>
    if q.st != .issued || s.blocked q || s.channelStalled q || s.cut q then s
    else match q.op with
      | .read =>
        if q.kind == .writeOnce && !s.allPresent q.pa q.n then s.deferRead q
        else (s.setReq { q with st := .performed, dat := s.homeRead q, stalled := false }).draw (doublesIn q.pa q.n)
      | .write => s.homeWrite q
      | .woTest =>
        let p := ((List.range 8).filter fun i => s.present.contains (q.pa / 64 * 8 + i)).foldl (fun a i => a + 2 ^ i) 0
        s.setReq { q with st := .performed, dat := leBytes 8 p }
      | .tbTest => s.setReq { q with st := .performed, dat := s.mem.bytes q.pa 8 }
      | .tbWait =>
        let v := s.mem.bytes q.pa 8
        if leNat v % 16 ≠ q.expect.toNat % 16 then s.setReq { q with st := .performed, dat := v } else s
      | _ => s

/-- An atomic is performed at its home as one indivisible step (R137, R139, R140, R262, R268). -/
def atomicPerform (id : Nat) (s : State) : State :=
  match s.req? id with
  | none => s
  | some q =>
    if q.st != .issued || s.blocked q || s.cut q then s
    else
      let old := s.mem.nat q.pa q.n
      let v := leNat q.dat
      let fin (new : Nat) : State :=
        { (s.setReq { q with st := .performed, dat := leBytes (min q.n 8) old }) with mem := s.mem.putBytes q.pa (leBytes q.n new) }
      match q.op with
      | .cas => if old = q.expect.toNat % 2 ^ (8 * q.n) then fin v else fin old
      | .tbInit => fin (tbInitVal v)
      | .tbArr =>
        let (n, c) := tbUpdate old (v % 2 ^ 32) 1
        (fin n).countHome q.pa 13 c
      | .tbExp =>
        let (n, c) := tbExpVal old v
        (fin n).countHome q.pa 13 c
      | .read | .write | .woTest | .tbTest | .tbWait => s
      | op => fin (amoNew op q.n old v)

/-- The 4,096 cycles of a TBWAIT are over: its read is performed as it stands (R269). -/
def State.tbExpire (s : State) (id : Nat) : State :=
  match s.req? id with
  | some q => if q.st == .issued && q.op == .tbWait then s.setReq { q with st := .performed, dat := s.mem.bytes q.pa 8 } else s
  | none => s

/-- The value an answer writes to its register (R116, R139). -/
def Req.value (q : Req) : W64 :=
  let v := leNat q.dat
  if q.signed then BitVec.ofInt 64 (sextNat (8 * q.n) v) else BitVec.ofNat 64 v

/-! ### Issuing -/

/-- Add a request. -/
def State.addReq (s : State) (q : Req) : State := { s with reqs := s.reqs ++ [{ q with id := s.nextId }], nextId := s.nextId + 1 }

/-- A request of a context, before its fields are filled in. -/
def mkReq (s : State) (t : Nat) (op : HomeOp) (e : TlbEnt) (va : W64) (n : Nat) : Req :=
  ⟨0, .ctx t, op, e.phys va, n, e.kind, [], 0, none, false, false, va, e.asid, .issued, false, false,
    s.cycles (islandOf t), 0, false, false, 0⟩

/-- The parts of an engine access, cut at 64-byte boundaries: address and bytes. -/
def sectorParts (va : W64) (n : Nat) : List (W64 × Nat) :=
  let a := va.toNat % 64
  if n = 0 then []
  else if a + n ≤ 64 then [(va, n)]
  else [(va, 64 - a), (va + BitVec.ofNat 64 (64 - a), n - (64 - a))]

/-- Issue the reads of an engine: a part that faults gives zero bytes at once; the faults met. Their age counts in cycles of the island of `tile`
(log 96). -/
def State.engIssue (s : State) (mk : Nat → Agent) (h : Holder) (asid : BitVec 16) (va : W64) (n tile : Nat) : State × Nat :=
  (((List.range 2).zip (sectorParts va n)).foldl (fun (acc : State × Nat) x =>
    let (s, f) := acc
    let (i, (a, k)) := x
    let (s, r) := engTranslate s h asid a .load false
    let base : Req := ⟨0, mk i, .read, 0, k, .normal, [], 0, none, false, false, a, asid, .issued, false, false,
      s.cycles (islandOf tile), 0, false, false, 0⟩
    match r with
    | .ok e =>
      if ringed s asid a then (s.addReq { base with st := .performed, failed := true, dat := List.replicate k 0 }, f + 1)
      else (s.addReq { base with pa := e.phys a, kind := e.kind }, f)
    | .error _ => (s.addReq { base with st := .performed, failed := true, dat := List.replicate k 0 }, f + 1)) (s, 0))

/-- The answers of an engine read, if all its parts are performed. -/
def State.engData (s : State) (mk : Nat → Agent) (va : W64) (n : Nat) : Option (List Byte) :=
  ((List.range 2).zip (sectorParts va n)).foldl (fun acc x =>
    match acc, s.reqs.find? (fun r => r.agent == mk x.1 && r.op == .read) with
    | some bs, some r => if r.st == .performed then some (bs ++ r.dat) else none
    | _, _ => none) (some [])

/-- Forget the parts of an engine read. -/
def State.engDone (s : State) (mk : Nat → Agent) : State :=
  { s with reqs := s.reqs.filter fun r => r.agent != mk 0 && r.agent != mk 1 }

/-- The reads are on their way. -/
def State.engBusy (s : State) (mk : Nat → Agent) : Bool := s.reqs.any fun r => r.agent == mk 0

/-- A write of an engine that its holder has translated; its age counts in cycles of the island of `tile` (log 96). -/
def engWriteReq (s : State) (ag : Agent) (e : TlbEnt) (asid : BitVec 16) (va : W64) (bs : List Byte) (tile : Nat) : Req :=
  ⟨0, ag, .write, e.phys va, bs.length, e.kind, bs, 0, none, false, false, va, asid, .issued, false, false, s.cycles (islandOf tile), 0, false, false, 0⟩

/-- Issue a write of an engine, cut at sector boundaries: a part that faults or falls into a ring is dropped; the parts dropped
(R150, R177). The home performs each in its own time (R148). -/
def State.engSend (s : State) (ag : Agent) (h : Holder) (asid : BitVec 16) (va : W64) (bs : List Byte) (tile : Nat) : State × Nat :=
  ((sectorParts va bs.length).foldl (fun (acc : State × Nat × List Byte) x =>
    let (s, r) := engTranslate acc.1 h asid x.1 .store true
    match r with
    | .ok e =>
      if ringed s asid x.1 then (s, acc.2.1 + 1, acc.2.2.drop x.2)
      else (s.addReq (engWriteReq s ag e asid x.1 (acc.2.2.take x.2) tile), acc.2.1, acc.2.2.drop x.2)
    | .error _ => (s, acc.2.1 + 1, acc.2.2.drop x.2)) (s, 0, bs)) |> fun r => (r.1, r.2.1)

/-- A write of the agents that `p` names is still on its way. -/
def State.engWriting (s : State) (p : Agent → Bool) : Bool := s.reqs.any fun q => q.op == .write && q.st != .performed && p q.agent

/-- An engine write, performed at its home at once (R131): true where it was dropped. `whole` bytes of a write-once page (R144). -/
def State.engWrite (s : State) (e : TlbEnt) (va : W64) (bs : List Byte) : State × Nat :=
  let pa := e.phys va
  match e.kind with
  | .writeOnce =>
    if pa % 8 ≠ 0 ∨ bs.length % 8 ≠ 0 then (s.countTile (homeTile pa) 13 1, 1)
    else s.woWrite pa bs.length bs
  | _ => if inDevice pa then (s.devWrite pa bs.length, 0) else ({ s with mem := s.memWrite pa bs }, 0)

/-- A memory read of the hub and of software outside the model: physical bytes. -/
def State.phys (s : State) (pa n : Nat) : List Byte := s.mem.bytes pa n

end Sys2Proof.Machine
end

