-- ==== Sys2Proof/Machine/Journal.lean ====
section
/-! DEFINITION. What the hub writes for the hosts: journal entries (R332) and completion records (R381). -/

namespace Sys2Proof.Machine

open Sys2Proof

/-- Write bytes at a physical address that is populated, as a store from inside the device where it names device registers (R378); elsewhere
the access has no effect (R108, log 9). What a Herran port that is down loses is counted in double 3 of the hub's block (R118, R366, R388). -/
def State.store (s : State) (pa : Nat) (bs : List Byte) : State :=
  if !(populated pa && populated (pa + bs.length - 1)) then s
  else if inDevice pa then s.devWrite pa bs.length
  else { s with mem := s.memWrite pa bs }.count (ctrHub 15 3) (s.lostSectors pa bs.length)

/-- Append a journal entry (R332); before the journal is set there is none (R385). -/
def State.journal (s : State) (q status code kind h cause : Nat) : State :=
  if !s.hub.jset then s
  else
    let seq := s.hub.jseq.toNat + 1
    let s := s.store (s.hub.jbase + 32 * ((seq - 1) % 2 ^ s.hub.jlg))
      (leBytes 8 seq ++ leBytes 8 (status * 2 ^ 32 + code * 2 ^ 16 + kind * 2 ^ 12 + q) ++ leBytes 8 (cause * 2 ^ 32 + h)
        ++ leBytes 8 (s.cycles hubIsland).toNat)
    { s with hub := { s.hub with jseq := BitVec.ofNat 64 seq } }

/-- Write a completion record into the completion ring of queue `q` (R381). -/
def State.record (s : State) (q tag status code kind h cause : Nat) : State :=
  let qu := s.hub.queue q
  let seq := qu.cseq.toNat + 1
  let s := s.store (qu.cbase.toNat + 32 * ((seq - 1) % 2 ^ qu.lg))
    (leBytes 8 (tag * 2 ^ 32 + status) ++ leBytes 8 (h * 2 ^ 32 + code * 2 ^ 16 + kind * 2 ^ 12) ++ leBytes 8 seq ++ leBytes 8 cause)
  { s with hub := { s.hub with queues := SMap.put s.hub.queues q { qu with cseq := BitVec.ofNat 64 seq } } }

/-- A journal entry and then the completion record (R381). -/
def State.answer (s : State) (q tag status code kind h cause : Nat) : State :=
  (s.journal q status code kind h cause).record q tag status code kind h cause

end Sys2Proof.Machine
end

