-- ==== Sys2Proof/Machine/Units.lean ====
section
/-! DEFINITION. What happens to the engines of a region from outside them: copy slots, fire queues and codec lanes that are stopped
and freed (R250, R267, R292), the rill array disarmed (R245), ports detached (R261). -/

namespace Sys2Proof.Machine

open Sys2Proof

/-! ### Copy templates (R251, R252) -/

/-- Double `i` of a template. -/
def CSlot.dbl (c : CSlot) (i : Nat) : W64 := c.tpl.getD i 0
/-- The control double. -/
def CSlot.ctl (c : CSlot) : W64 := c.dbl 8
/-- chain -/
def CSlot.chain (c : CSlot) : Nat := bits64 c.ctl 39 32
/-- chen -/
def CSlot.chen (c : CSlot) : Bool := bits64 c.ctl 31 31 == 1
/-- pip -/
def CSlot.pip (c : CSlot) : Bool := bits64 c.ctl 30 30 == 1
/-- dk -/
def CSlot.dk (c : CSlot) : Bool := bits64 c.ctl 28 28 == 1
/-- vp -/
def CSlot.vp (c : CSlot) : Nat := bits64 c.ctl 27 22
/-- fe -/
def CSlot.fe (c : CSlot) : Bool := bits64 c.ctl 21 21 == 1
/-- fvp -/
def CSlot.fvp (c : CSlot) : Nat := bits64 c.ctl 20 15
/-- gather -/
def CSlot.gather (c : CSlot) : Bool := bits64 c.ctl 14 13 == 1
/-- pinc -/
def CSlot.pinc (c : CSlot) : Bool := bits64 c.ctl 12 12 == 1
/-- fq -/
def CSlot.fq (c : CSlot) : Nat := bits64 c.ctl 7 0
/-- rows -/
def CSlot.rows (c : CSlot) : Nat := bits64 (c.dbl 7) 63 32
/-- len -/
def CSlot.len (c : CSlot) : Nat := bits64 (c.dbl 7) 31 0
/-- tb -/
def CSlot.tb (c : CSlot) : W64 := c.dbl 6

/-- Slot `i` of die `d`. -/
def State.slot? (s : State) (d i : Nat) : Option CSlot := SMap.get? (s.die d).slots i
/-- Write it. -/
def State.setSlot (s : State) (d i : Nat) (c : CSlot) : State :=
  s.setDie d { s.die d with slots := SMap.put (s.die d).slots i c }
/-- Fire queue `q` of die `d`. -/
def State.fireq (s : State) (d q : Nat) : List Tok := SMap.getD (s.die d).fireq q []
/-- Write it. -/
def State.setFireq (s : State) (d q : Nat) (l : List Tok) : State :=
  s.setDie d { s.die d with fireq := SMap.put (s.die d).fireq q l }
/-- The slot that serves a fire queue. -/
def State.server (s : State) (d q : Nat) : Option (Nat × CSlot) := (s.die d).slots.find? fun (_, c) => c.fq == q

/-- Count dropped fire tokens of a slot (R266). -/
def State.slotDrop (s : State) (d i n : Nat) : State :=
  match s.slot? d i with
  | some c => if n = 0 then s else (s.setSlot d i { c with cdrop := sat16 c.cdrop n }).countWork c.tile c.region 10 n
  | none => s

/-- Requests of a slot that are not answered. -/
def State.slotBusy (s : State) (d i : Nat) : Bool :=
  s.reqs.any fun q => q.st != .performed && match q.agent with
    | .copy d' i' _ _ => d' == d && i' == i
    | _ => false

/-- Free a slot. -/
def State.freeSlot (s : State) (d i : Nat) : State :=
  let s := s.setDie d { s.die d with slots := SMap.del (s.die d).slots i }
  { s with reqs := s.reqs.filter fun q => match q.agent with
      | .copy d' i' _ _ => !(d' == d && i' == i)
      | _ => true }

/-- Kill a slot (R267): its queued fire tokens are dropped and counted, its firing is abandoned, and it is freed once every issued
request is answered. Tokens that wait for its chain go with it. -/
def State.killSlot (s : State) (d i : Nat) : State :=
  match s.slot? d i with
  | none => s
  | some c =>
    let s := (s.slotDrop d i (s.fireq d c.fq).length).setFireq d c.fq []
    let s := s.setDie d { s.die d with fwait := (s.die d).fwait.filter fun w => w.slot != some i }
    if s.slotBusy d i then
      match s.slot? d i with
      | some c => s.setSlot d i { c with st := 4, fir := none }
      | none => s
    else s.freeSlot d i

/-! ### Holders of translations (R368) -/

/-- Holders by number (R368): tiles and root cores by tile number, then the copy complexes, the walkers of each die, and the engines. -/
def holderCopy (d : Nat) : Nat := 1024 + d
/-- The walkers of die `d`. -/
def holderWalk (d : Nat) : Nat := 1028 + d
/-- Engine `i` of die `d`. -/
def holderEngine (d i : Nat) : Nat := 2048 + 64 * d + i

/-- The holder under which an agent's accesses are translated. -/
def agentHolder (s : State) : Agent → Nat
  | .ctx t => t
  | .own t => t
  | .lane d spout i _ => holderEngine d ((if spout then 48 else 32) + i)
  | .stream t vp _ _ => match SMap.get? (s.tile t).ports vp with
    | some b => holderEngine (tileDie t) ((if b.out then 16 else 0) + bits64 (b.desc.getD 2 0) 11 8)
    | none => holderEngine (tileDie t) 0
  | .mbld t _ _ => holderEngine (tileDie t) (tileTy t)
  | .copy d _ _ _ => holderCopy d
  | .gone h _ => h

/-- An atomic or a write whose issuer goes: it is performed still, and answers nobody (R363); its events count at tile `t`. -/
def State.orphan (s : State) (q : Req) (t : Nat) : Req := { q with agent := .gone (agentHolder s q.agent) t, reg := none }

/-! ### Codec lanes -/

/-- Whether lane numbers name Spout lanes. -/
def State.lane? (s : State) (d : Nat) (spout : Bool) (n : Nat) : Option Lane :=
  SMap.get? (if spout then (s.die d).spout else (s.die d).sluice) n
/-- Write a lane. -/
def State.setLane (s : State) (d : Nat) (spout : Bool) (n : Nat) (l : Lane) : State :=
  if spout then s.setDie d { s.die d with spout := SMap.put (s.die d).spout n l }
  else s.setDie d { s.die d with sluice := SMap.put (s.die d).sluice n l }
/-- A request is one of a codec lane. -/
def Agent.isLane (d : Nat) (spout : Bool) (n : Nat) : Agent → Bool
  | .lane d' k n' _ => d' == d && k == spout && n' == n
  | _ => false

/-- Free a lane (R292): its reads are dropped at their homes, its writes go on to be performed (R363). -/
def State.freeLane (s : State) (d : Nat) (spout : Bool) (n : Nat) : State :=
  let keep (q : Req) : Option Req :=
    if !(q.agent.isLane d spout n) then some q else if q.op == HomeOp.read then none else some (s.orphan q (rootTile d))
  let s : State := { s with reqs := s.reqs.filterMap keep }
  if spout then s.setDie d { s.die d with spout := SMap.del (s.die d).spout n }
  else s.setDie d { s.die d with sluice := SMap.del (s.die d).sluice n }

/-! ### The rill array -/

/-- Fields of the control word (R244). -/
def Rill.run (r : Rill) : Bool := bits64 r.ctl 0 0 == 1
/-- sel -/
def Rill.sel (r : Rill) : Bool := bits64 r.ctl 1 1 == 1
/-- slot -/
def Rill.slot (r : Rill) : Nat := bits64 r.ctl 3 2
/-- infmt -/
def Rill.infmt (r : Rill) : Nat := bits64 r.ctl 5 4
/-- ivp -/
def Rill.ivp (r : Rill) : Nat := bits64 r.ctl 13 8
/-- ovp -/
def Rill.ovp (r : Rill) : Nat := bits64 r.ctl 21 16

/-- Count breaches, SATO clamps, dropped vectors and skipped tokens, also as ones of the present cycle (R247). -/
def Rill.tally (r : Rill) (brc sato drop skip : Nat) : Rill :=
  { r with
    brc := sat16 r.brc brc, sato := sat16 r.sato sato, drop := sat16 r.drop drop, skip := sat16 r.skip skip
    now := r.now.add brc sato drop skip }

/-- Count dropped vectors (R247). -/
def State.rillDrop (s : State) (t n : Nat) : State :=
  if n = 0 then s else (s.updTile t fun tl => { tl with rill := tl.rill.tally 0 0 n 0 }).countTile t 9 n

/-- Disarm the array (R245): a half-taken vector and the outputs still due are dropped and counted. -/
def State.disarm (s : State) (t : Nat) : State :=
  let r := (s.tile t).rill
  let n := r.infl.length + (if r.half.isSome then 1 else 0)
  (s.updTile t fun tl => { tl with rill := { tl.rill with
    half := none, infl := [], closing := false, ctl := tl.rill.ctl &&& 0xFFFFFFFFFFFFFFFE#64 } }).rillDrop t n

/-! ### Who reads a port -/

/-- The out port a matrix token reads: MMA and BLD from a port (R223); the unit of an MMAC is ignored (R210). -/
def MTok.readsPort (m : MTok) : Option Nat :=
  let op := bits64 m.word 63 60
  if m.mem.isNone && (op == 0 || op == 2) then some m.vp else none

/-- Rows of a matrix token (R210). -/
def MTok.rows (m : MTok) : Nat := bits64 m.word 53 50 + 1
/-- K blocks. -/
def MTok.kbs (m : MTok) : Nat := bits64 m.word 49 48 + 1
/-- Columns. -/
def MTok.cols (m : MTok) : Nat := 32 * (bits64 m.word 47 46 + 1)
/-- The block tokens that it takes (R212, R214). -/
def MTok.need (m : MTok) : Nat :=
  match bits64 m.word 63 60 with
  | 0 => m.rows * m.kbs
  | 2 => m.cols * m.kbs
  | _ => 0

/-- The port is read by an armed rill array. -/
def Tile.rillReads (t : Tile) (vp : Nat) : Bool := t.rill.run && t.rill.ivp == vp
/-- The port is named by a matrix token queued or running. -/
def Tile.matrixReads (t : Tile) (vp : Nat) : Bool := t.mx.q.any fun m => m.readsPort == some vp
/-- The port feeds a copy slot of the tile's region (R252, R261). -/
def State.feeds (s : State) (t vp : Nat) : Bool :=
  (s.die (tileDie t)).slots.any fun (_, c) => c.tile == t && c.region == (s.tile t).region && c.fe && c.fvp == vp
/-- The ports of a Spout lane: L, C, M, S (R292). -/
def Lane.spoutPorts (l : Lane) : List Nat := [8, 16, 24, 32].map fun i => bits64 (l.desc.getD 2 0) (i + 5) i
/-- The ports of a Sluice lane: L, C, M, S (R292). -/
def Lane.sluicePorts (l : Lane) : List Nat := [24, 32, 40, 48].map fun i => bits64 (l.desc.getD 2 0) (i + 5) i
/-- The port is read by a Spout lane of the tile's region (R292). -/
def State.spoutReads (s : State) (t vp : Nat) : Bool :=
  (s.die (tileDie t)).spout.any fun (_, l) => l.tile == t && l.region == (s.tile t).region && l.spoutPorts.contains vp

end Sys2Proof.Machine
end

