-- ==== Sys2Proof/Machine/CascadeOps.lean ====
section
/-! DEFINITION. The Cascade's operations: pips and basins (R298, R299), acceptance, visibility, spilling (R302, R303, R306), failure
and replay (R315), the counts of termination (R311), and the end of a domain (R300). Dies of a domain are numbered 4 p + d over its
package list. -/

namespace Sys2Proof.Machine

open Sys2Proof

/-! ### Fields -/

/-- lg of the descriptor (R301). -/
def Domain.lg (d : Domain) : Nat := bits64 (d.desc.getD 0 0) 45 40
/-- hc -/
def Domain.hc (d : Domain) : Bool := bits64 (d.desc.getD 0 0) 28 28 == 1
/-- Δ -/
def Domain.dlt (d : Domain) : Nat := bits64 (d.desc.getD 0 0) 21 16
/-- bsh -/
def Domain.bsh (d : Domain) : Nat := bits64 (d.desc.getD 0 0) 11 8
/-- The share of a die. -/
def Domain.at (d : Domain) (e : Nat) : DomDie := SMap.getD d.share e {}
/-- Write it. -/
def Domain.setAt (d : Domain) (e : Nat) (x : DomDie) : Domain := { d with share := SMap.put d.share e x }
/-- Change it. -/
def Domain.upd (d : Domain) (e : Nat) (f : DomDie → DomDie) : Domain := d.setAt e (f (d.at e))
/-- The number of a die of this package in the domain. -/
def Domain.local (d : Domain) (die : Nat) : Nat := 4 * d.here + die
/-- The die that serves a die of this package: itself, or, outside the mask, the lowest die of the mask (log 21). -/
def Domain.serving (d : Domain) (die : Nat) : Nat :=
  if d.dies.contains (d.local die) then d.local die
  else (d.dies.find? fun e => e / 4 == d.here).getD (d.local die)
/-- The domain of a number. -/
def State.dom? (s : State) (n : Nat) : Option Domain := SMap.get? s.domains n
/-- Write a domain. -/
def State.setDom (s : State) (n : Nat) (d : Domain) : State := { s with domains := SMap.put s.domains n d }
/-- A pip by its number. -/
def Domain.pip? (d : Domain) (id : Nat) : Option Pip := d.pips.find? fun p => p.id == id
/-- Replace a pip. -/
def Domain.setPip (d : Domain) (p : Pip) : Domain := { d with pips := d.pips.map fun q => if q.id = p.id then p else q }
/-- Remove a pip. -/
def Domain.delPip (d : Domain) (id : Nat) : Domain := { d with pips := d.pips.filter fun q => q.id != id }

/-- Word 0 of a pip. -/
def Pip.word0 (p : Pip) : W64 := p.w.getD 0 0
/-- The basin of a word 0 (R299). -/
def basinOf (bsh : Nat) (w : W64) : Nat := bits64 w 63 48 / 2 ^ bsh
/-- The basin of a pip. -/
def Domain.basin (d : Domain) (p : Pip) : Nat := basinOf d.bsh p.word0
/-- Word 0 with bits hi to lo replaced. -/
def setField (w : W64) (hi lo v : Nat) : W64 :=
  BitVec.ofNat 64 (w.toNat - bits64 w hi lo * 2 ^ lo + v % 2 ^ (hi + 1 - lo) * 2 ^ lo)
/-- Replace word 0. -/
def Pip.setWord0 (p : Pip) (w : W64) : Pip := { p with w := w :: p.w.drop 1 }

/-- The pip is visible on die `e`, on chip or in the ring (R302). -/
def Pip.visibleAt (p : Pip) (e : Nat) : Bool := p.at_ == .visible e || p.at_ == .ring e

/-- m_d (R304): the lowest basin among pending and visible pips, pips in flight to other dies, and held pips when hc = 1. -/
def Domain.low (d : Domain) (e : Nat) : Nat :=
  let here (p : Pip) : Bool := p.at_ == .pending e || p.visibleAt e || p.src == some e || (d.hc && p.at_ == .held e)
  let m := (d.pips.filter here).foldl (fun m p => min m (d.basin p)) 65536
  (d.reports.filter fun r => r.1 == e).foldl (fun m r => min m r.2) m

/-- A pip stands in the on-chip store of a die, pending or visible. -/
def Pip.onChip (p : Pip) (e : Nat) : Bool := p.at_ == .visible e || (p.at_ == .pending e && !p.deep)
/-- A pip stands in the ring of a die, pending or visible. -/
def Pip.inRing (p : Pip) (e : Nat) : Bool := p.at_ == .ring e || (p.at_ == .pending e && p.deep)
/-- A pip goes from the store of a die to its ring. -/
def Pip.sink (p : Pip) (e : Nat) : Pip := if p.at_ == .visible e then { p with at_ := .ring e } else { p with deep := true }
/-- A pip returns from the ring of a die. -/
def Pip.rise (p : Pip) (e : Nat) : Pip := if p.at_ == .ring e then { p with at_ := .visible e } else { p with deep := false }
/-- Pips of the domain in the on-chip store of a die. -/
def Domain.chip (d : Domain) (e : Nat) : Nat := (d.pips.filter fun p => p.onChip e).length
/-- The pips in the ring of a die, in the order of its records. -/
def Domain.ring (d : Domain) (e : Nat) : List Pip := d.pips.filter fun p => p.inRing e
/-- Pips of the domain in the ring of a die. -/
def Domain.spilled (d : Domain) (e : Nat) : Nat := (d.ring e).length
/-- Pips in the store of a die: those of every domain that this package holds there (R302). -/
def State.chipAll (s : State) (d : Domain) (e : Nat) : Nat :=
  if e / 4 = d.here then (s.domains.map fun (_, x) => x.chip (x.local (e % 4))).sum else d.chip e
/-- The on-chip pip slots of a die (R302). -/
def chipSlots : Nat := 8192

/-- The domain that holds a pip, which it is of whatever domain a region has joined since (R315, R328): its number and itself. -/
def State.domOf (s : State) (id : Nat) : Option (Nat × Domain) := s.domains.find? fun x => (x.2.pip? id).isSome

/-- Count pushes, pops, replays and drops, also as ones of the present cycle (R325). -/
def DomDie.tally (x : DomDie) (psh pop rpl drp : Nat) : DomDie :=
  { x with
    psh := sat16 x.psh psh, pop := sat16 x.pop pop, rpl := sat16 x.rpl rpl, drp := sat16 x.drp drp
    now := x.now.add psh pop rpl drp }

/-- The island of a die's Cascade unit: the conduit row's (log 2). -/
def cascIsland (e : Nat) : Nat := islandOf (rootTile (e % 4))

/-! ### Drops and the ring -/

/-- Count a dropped pip or a cleared field (R299, R325) on die `e`, in the block of tile `t` (R401). -/
def State.cascDrop (s : State) (n e t : Nat) : State :=
  match s.dom? n with
  | some d => (s.setDom n (d.upd e fun x => x.tally 0 0 0 1)).countTile t 12 1
  | none => s

/-- The ring record `i` of a die: its physical address, where the page is normal and grants the access (R303), and no port that is down loses
it (R388). -/
def State.ringSlot (s : State) (d : Domain) (e i : Nat) : Option Nat :=
  let va := d.desc.getD 1 0 + BitVec.ofNat 64 (e * 2 ^ d.lg + 32 * i)
  match walkTables s d.asid va with
  | some t => if t.r && t.w && !t.cow && t.kind == .normal && !s.peerDown (t.phys va) then some (t.phys va) else none
  | none => none

/-- The bytes of a pip record (R298). -/
def pipBytes (w : List W64) : List Byte := (List.range 4).flatMap fun i => leBytes 8 (w.getD i 0).toNat
/-- A pip record from its bytes. -/
def pipOfBytes (bs : List Byte) : List W64 := (List.range 4).map fun i => BitVec.ofNat 64 (leNat ((bs.drop (8 * i)).take 8))

/-- A ring access failed (R303): the pip it carries is dropped and counted, and a fault token is sent. -/
def State.ringFault (s : State) (n e i : Nat) (p : Pip) : State :=
  match s.dom? n with
  | none => s
  | some d =>
    let va := d.desc.getD 1 0 + BitVec.ofNat 64 (e * 2 ^ d.lg + 32 * i)
    let s := s.setDom n ((d.delPip p.id).upd e fun x => { x with r := x.r + 1 })
    (s.cascDrop n e (rootTile (e % 4))).report (causeWord false 0 0x33) va 0 (rootTile (e % 4)) (d.members.headD 0)

/-- The record of the ring in which a pip stands. -/
def Domain.ringIx (d : Domain) (e id : Nat) : Nat := (d.ring e).findIdx fun p => p.id == id

/-- The next ring access is lost or meets an uncorrectable error (R118, R303): the spec leaves open when, and a free value says it (log 28). -/
def State.ringLost (s : State) : Bool := (Config.freeWord s.free).getLsbD 0

/-- Write the record of pip `p` at slot `i` of a ring: its page takes it and the access is not lost, or the pip goes (R303). -/
def State.ringWrite (s : State) (n : Nat) (d : Domain) (e i : Nat) (p : Pip) : State × Bool :=
  match (if s.ringLost then none else s.ringSlot d e i) with
  | some pa => ({ (s.draw 1) with mem := s.mem.putBytes pa (pipBytes p.w) }, true)
  | none => ((s.draw 1).ringFault n e i p, false)

/-- Rewrite the ring of a die compacted (R302): a record that its page does not take, or whose access is lost, goes with its pip (R303). -/
def State.compact (s : State) (n e : Nat) : State :=
  match s.dom? n with
  | none => s
  | some d => ((d.ring e).foldl (fun (x : State × Nat) p =>
    let r := x.1.ringWrite n d e x.2 p
    (r.1, x.2 + if r.2 then 1 else 0)) (s, 0)).1

/-- The pip of the highest basin in the store of a die, pending or visible. -/
def Domain.highest (d : Domain) (e : Nat) : Option Pip :=
  (d.pips.filter fun p => p.onChip e).foldl (fun m p => match m with
    | none => some p
    | some q => if d.basin q ≤ d.basin p then some p else some q) none
/-- The pip of the lowest basin in the ring of a die. -/
def Domain.lowest (d : Domain) (e : Nat) : Option Pip :=
  (d.ring e).foldl (fun m p => match m with
    | none => some p
    | some q => if d.basin p < d.basin q then some p else some q) none

/-- The ring of a die takes one more pip. -/
def Domain.ringFree (d : Domain) (e : Nat) : Bool := d.lg != 0 && d.spilled e < 2 ^ (d.lg - 5)

/-- One spill (R302): the highest pip of the store goes to the ring, behind what that holds; `lost` says that the access fails (R303). -/
def State.spillPip (s : State) (n e : Nat) (lost : Bool) : State :=
  match s.dom? n with
  | none => s
  | some d =>
    match d.highest e with
    | none => s
    | some p =>
      if !d.ringFree e then s
      else
        let i := d.spilled e
        match (if lost then none else s.ringSlot d e i) with
        | none => s.ringFault n e i p
        | some pa => { (s.setDom n { d with pips := (d.delPip p.id).pips ++ [p.sink e] }) with mem := s.mem.putBytes pa (pipBytes p.w) }

/-- One refill (R302): the lowest pip of the ring returns to the store, and the ring is rewritten compacted; `lost` says that the access
fails (R303). -/
def State.refillPip (s : State) (n e : Nat) (lost : Bool) : State :=
  match s.dom? n with
  | none => s
  | some d =>
    match d.lowest e with
    | none => s
    | some p =>
      if chipSlots ≤ s.chipAll d e then s
      else if lost || (s.ringSlot d e (d.ringIx e p.id)).isNone then (s.ringFault n e (d.ringIx e p.id) p).compact n e
      else (s.setDom n (d.setPip (p.rise e))).compact n e

/-- The pip of the highest basin in the store of a die, over every domain that shares it and whose ring takes one more (R302): its domain's
number, and the die as that domain numbers it. -/
def State.victim (s : State) (n : Nat) (d : Domain) (e : Nat) : Option (Nat × Nat × Nat) :=
  let from_ (m : Nat) (x : Domain) : Option (Nat × Nat × Nat) :=
    let e' := if m = n then e else x.local (e % 4)
    if x.ringFree e' then (x.highest e').map fun p => (m, e', x.basin p) else none
  (s.domains.filterMap fun (m, x) => if m = n ∨ e / 4 = d.here then from_ m x else none).foldl (fun b x => match b with
    | none => some x
    | some y => if y.2.2 < x.2.2 then some x else some y) none

/-- A pip whose basin lies above the window of its die goes to the ring; where the store is over its size, the one of the highest basin in it
does (R302), be the access lost or not (R303). -/
def State.settle (s : State) (n e : Nat) : State :=
  match s.dom? n with
  | none => s
  | some d =>
    let above := match d.highest e with
      | some p => d.ringFree e && (d.at e).f + 63 < d.basin p
      | none => false
    if above then (s.draw 1).spillPip n e s.ringLost
    else if chipSlots < s.chipAll d e then match s.victim n d e with
      | some (m, e', _) => (s.draw 1).spillPip m e' s.ringLost
      | none => s
    else s

/-! ### Acceptance and visibility -/

/-- Whether die `e` can take a pip (R302, R319): a slot is free, or a pip can go to a ring, be it the one that arrives. -/
def State.cascTakes (s : State) (n : Nat) (d : Domain) (e : Nat) : Bool :=
  s.chipAll d e < chipSlots || (s.victim n d e).isSome || d.ringFree e

/-- Word 0 at acceptance (R299): rsv cleared, eff, hid and rc zero, home the receiving die. -/
def acceptWord (e rc : Nat) (w : W64) : W64 :=
  setField (setField (setField (setField (setField w 15 13 0) 11 10 0) 9 8 rc) 3 2 (e % 4)) 1 1 0

/-- A pip becomes visible on die `e` (R306, R308, R311): P counts it, and a die that still counts a moved pip is told. -/
def State.visible (s : State) (n e id : Nat) : State :=
  match s.dom? n with
  | none => s
  | some d =>
    match d.pip? id with
    | none => s
    | some p =>
      let d := match p.src with
        | some a => { d with reports := d.reports ++ [(a, d.basin p)] }
        | none => d
      let d := d.setPip { p with at_ := if p.deep then .ring e else .visible e, src := none, deep := false }
      (s.setDom n (d.upd e fun x => { x with p := x.p + 1 })).settle n e

/-- Insert pip `id`, already in the list, as a push at die `e` (R306). -/
def State.insertPip (s : State) (n e id : Nat) : State :=
  match s.dom? n with
  | none => s
  | some d =>
    match d.pip? id with
    | none => s
    | some p =>
      if (d.at e).t ≤ d.basin p then s.visible n e id
      else (s.setDom n { d.setPip { p with at_ := .pending e } with lows := d.lows ++ [(id, e)] }).settle n e

/-- A new pip is accepted into domain `n` on die `e` (R299, R306); `rc` is its replay count and `psh` says whether it counts as a
push. A non-zero rsv field is cleared and counted. An accepted pip reopens a terminated domain (R312). -/
def State.accept (s : State) (n e : Nat) (w : List W64) (t rc : Nat) (psh : Bool) : State × Nat :=
  match s.dom? n with
  | none => (s, 0)
  | some d =>
    let w0 := w.getD 0 0
    let id := s.nextId
    let p : Pip := { id := id, w := acceptWord e rc w0 :: (List.range 3).map (fun i => w.getD (i + 1) 0), at_ := .pending e, tile := t }
    let d := { (d.upd e fun x => x.tally (if psh then 1 else 0) 0 0 0) with
      pips := d.pips ++ [p]
      term := false
      pass1 := false }
    let s := { (s.setDom n d) with nextId := id + 1 }
    let s := if bits64 w0 15 13 ≠ 0 then s.cascDrop n e t else s
    (s.insertPip n e id, id)

/-- The pip with LOW on its way or being handled: not settled (R306, R316). -/
def Domain.lowered (d : Domain) (id : Nat) : Bool :=
  (d.lows.any fun x => x.1 == id) || (d.acks.any fun x => x.1 == id) ||
    (match d.st with
     | .lowering i _ _ => i == id
     | _ => false)

/-- A pip that some domain still has pending, or whose lowering is on its way. -/
def State.unsettled (s : State) (id : Nat) : Bool :=
  s.domains.any fun (_, d) => d.lowered id || d.pips.any fun p => p.id == id && (match p.at_ with
    | .pending _ => true
    | _ => false)

/-- The record of a push into domain `n` (R299): its dom field is set. -/
def pushRec (n : Nat) (w : List W64) : List W64 := setField (w.getD 0 0) 7 4 n :: w.drop 1

/-! ### Failure -/

/-- A held pip fails (R315): replayed, or recorded, counted and dropped. -/
def State.failPip (s : State) (n id : Nat) : State :=
  match s.dom? n with
  | none => s
  | some d =>
    match d.pip? id with
    | none => s
    | some p =>
      match p.at_ with
      | .held e =>
        let w0 := p.word0
        let rc := bits64 w0 9 8
        let s1 := s.setDom n ((d.delPip id).upd e fun x => { x with r := x.r + 1 })
        if bits64 w0 0 0 = 1 ∧ bits64 w0 1 1 = 0 ∧ rc < 3 then
          match s1.dom? n with
          | some d1 => ((s1.setDom n (d1.upd e fun x => x.tally 0 0 1 0)).accept n e p.w p.tile (rc + 1) false).1
          | none => s1
        else
          match s1.dom? n with
          | some d1 => (s1.setDom n (d1.upd e fun x => { x with last := w0 })).cascDrop n e p.tile
          | none => s1
      | _ => s

/-- Every pip of some holds fails, each in its domain. -/
def State.failAll (s : State) (holds : SMap Nat) : State := holds.foldl (fun (s : State) x => match s.domOf x.2 with
  | some (n, _) => s.failPip n x.2
  | none => s) s

/-- Every pip that a context holds fails, and it holds none. -/
def State.failHeld (s : State) (t : Nat) : State :=
  match s.ctxAt t with
  | none => s
  | some c => (s.failAll c.holds).updCtx t fun c => { c with holds := [] }

/-! ### The end of a domain -/

/-- What waits in domain `n` is told how it ends: a WPOP 5, a WDRAIN 0; where the domain has ceased, a WPUSH not yet accepted 2 and a WFLOOR.R
all ones too (log 86). -/
def Wait.ended (n : Nat) (gone : Bool) : Wait → Wait
  | .pop m => if m = n then .told 5 else .pop m
  | .drain m => if m = n then .told 0 else .drain m
  | .release m => if gone ∧ m = n then .told 2 else .release m
  | .round m k => if gone ∧ m = n then .told (-1) else .round m k
  | w => w

/-- Termination is announced (R312), or the domain has ceased: what waits in it completes with its result, whatever is pushed afterwards. -/
def State.announce (s : State) (n : Nat) (gone : Bool) : State :=
  { s with ctxs := s.ctxs.map fun (t, c) => (t, { c with wait := c.wait.ended n gone }) }

/-- A context holds none of the pips of a domain that has ceased. -/
def Ctx.unhold (d : Domain) (c : Ctx) : Ctx := { c with holds := c.holds.filter fun x => (d.pip? x.2).isNone }

/-- A domain ceases (R300): nothing waits in it, and none of its pips is held. -/
def State.endDomain (s : State) (n : Nat) (d : Domain) : State :=
  let u : State := { s with
    domains := SMap.del s.domains n
    ctxs := s.ctxs.map fun (t, c) => (t, c.unhold d)
    regions := s.regions.map fun (h, r) => (h, { r with sctx := r.sctx.map fun (i, c) => (i, c.unhold d) }) }
  u.announce n true

/-- A region leaves its domain; the last member's leaving ends it: the pips still held on its dies are dropped and counted (R300). -/
def State.leaveDomain (s : State) (n h : Nat) : State :=
  match s.dom? n with
  | none => s
  | some d =>
    let m := d.members.filter fun x => x != h
    if m.isEmpty then
      let dropped := d.pips.filterMap fun p => match p.at_ with
        | .pending e | .visible e | .ring e | .held e => if e / 4 = d.here then some e else none
        | .moving _ b => if b / 4 = d.here then some b else none
      let s := dropped.foldl (fun s e => s.count (ctrTile (rootTile (e % 4)) 12) 1) s
      s.endDomain n d
    else s.setDom n { d with members := m }

/-- Change the pips that a context holds. -/
def State.updHeld (s : State) (holds : SMap Nat) (f : Pip → Pip) : State :=
  if holds.isEmpty then s
  else
    let ids := holds.map (·.2)
    { s with domains := s.domains.map fun x => (x.1, { x.2 with pips := x.2.pips.map fun p => if ids.contains p.id then f p else p }) }

/-- Set the effects bit of every pip that a context holds (R314). -/
def State.effects (s : State) (t : Nat) : State :=
  match s.ctxAt t with
  | some c => s.updHeld c.holds fun p => p.setWord0 (setField p.word0 1 1 1)
  | none => s

end Sys2Proof.Machine
end

