-- ==== Sys2Proof/Machine/Regions.lean ====
section
/-! DEFINITION. How a region leaves its tiles: what retirement (R16) and abort (R363) have in common, and each of them. -/

namespace Sys2Proof.Machine

open Sys2Proof

/-- The contexts of a region, with their tiles. -/
def State.regionCtxs (s : State) (r : Region) : List (Nat × Ctx) :=
  r.tiles.filterMap fun t => (s.ctxAt t).map fun c => (t, c)

/-- The copy slots of a region, as die and slot. -/
def State.regionSlots (s : State) (h : Nat) : List (Nat × Nat) :=
  s.dies.flatMap fun (d, x) => (x.slots.filter fun (_, c) => c.region == h).map fun (i, _) => (d, i)

/-- The codec lanes of a region, as die, kind and lane. -/
def State.regionLanes (s : State) (h : Nat) : List (Nat × Bool × Nat) :=
  s.dies.flatMap fun (d, x) =>
    ((x.sluice.filter fun (_, l) => l.region == h).map fun (i, _) => (d, false, i)) ++
      ((x.spout.filter fun (_, l) => l.region == h).map fun (i, _) => (d, true, i))

/-- Tokens that stand in a tile: buffers, spill rings, router ingress, what its decoders owe, and FIFO banks. -/
def Tile.tokens (t : Tile) : Nat :=
  (t.bufs.map fun (_, b) => b.toks.length).sum + (t.ringHT.map fun (_, r) => r.2 - r.1).sum + t.inq.length
    + (t.xe8.map fun (_, d) => d.due.length).sum
    + (t.ses.map fun (_, e) => e.fifo.length + e.outq.length).sum

/-- A codec lane is stopped and freed; its undelivered tokens, its fire tokens that wait among them, are dropped and counted (R292). -/
def State.stopLane (s : State) (d : Nat) (spout : Bool) (i : Nat) : State :=
  match s.lane? d spout i with
  | some l =>
    let n := ((s.die d).fwait.filter fun w => w.lane == some (spout, i)).length
    let s := s.setDie d { s.die d with fwait := (s.die d).fwait.filter fun w => w.lane != some (spout, i) }
    (s.countWork l.tile l.region 11 (l.outq.length + n)).freeLane d spout i
  | none => s

/-- Stop and free the engines of a region: its slots are killed, its lanes freed, its waiting fire tokens dropped (R250, R292). -/
def State.freeEngines (s : State) (h : Nat) : State :=
  let s := (s.regionSlots h).foldl (fun s x => s.killSlot x.1 x.2) s
  let s := (s.regionLanes h).foldl (fun s x => s.stopLane x.1 x.2.1 x.2.2) s
  { s with dies := s.dies.map fun (d, x) => (d, { x with fwait := x.fwait.filter fun w => w.region != h }) }

/-- Free the tiles of a region: each tile is as no region has it, its contexts are gone, and so are their reads and walks; writes
issued before go on to be performed, and answer no later context of the tile (R363). A tile keeps its translation cache (R368). -/
def State.freeTiles (s : State) (r : Region) : State :=
  let ts := r.tiles
  { s with
    tiles := s.tiles.map fun (t, x) => if ts.contains t then (t, { tlb := x.tlb, gen := x.gen }) else (t, x)
    ctxs := s.ctxs.filter fun (t, _) => !ts.contains t
    walks := s.walks.filter fun w => !ts.contains w.tile
    rootq := s.rootq.filter fun (_, q) => match q with
      | .sysc t _ _ _ => !ts.contains t
      | .answer t _ _ _ => !ts.contains t
      | .fault _ => true
    reqs := s.reqs.filterMap fun q => match q.agent with
      | .ctx t => if !ts.contains t then some q
          else if q.op != .read && q.op != .woTest && q.op != .tbTest && q.op != .tbWait then some (s.orphan q t) else none
      | .own t => if ts.contains t then none else some q
      | .stream t _ _ _ => if !ts.contains t then some q else if q.op == .write then some (s.orphan q (rootTile (tileDie t))) else none
      | .mbld t _ _ => if ts.contains t then none else some q
      | .copy .. => some q
      | .lane .. => some q
      | .gone .. => some q }

/-- The region that a request is one of (R347, R363): 0 where it is of none. -/
def State.reqRegion (s : State) (q : Req) : Nat := match q.agent with
  | .ctx t => (s.tile t).region
  | .own t => (s.tile t).region
  | .stream t _ _ _ => (s.tile t).region
  | .mbld t _ _ => (s.tile t).region
  | .copy d i _ _ => match s.slot? d i with
    | some c => c.region
    | none => 0
  | .lane d k i _ => match s.lane? d k i with
    | some l => l.region
    | none => 0
  | .gone .. => 0

/-- The deferred reads of a region are dropped at their homes (R363). -/
def State.dropDeferred (s : State) (h : Nat) : State :=
  { s with reqs := s.reqs.filter fun q => !(q.st == .deferred && s.reqRegion q == h) }

/-- A context has an ST.D on its way to a write-once word that is empty: with the context gone it does not trap, and takes its effect (R314,
log 88). -/
def State.willWriteOnce (s : State) (t : Nat) : Bool :=
  s.reqs.any fun q => q.agent == .ctx t && q.op == .write && q.kind == .writeOnce && q.st == .issued && !s.present? q.pa

/-- Remove a region from its domain and its record from the machine. A saved region's contexts are those of its save image, and the tiles it
stood on are others' (R315). -/
def State.dropRegion (s : State) (h : Nat) (r : Region) : State :=
  let s := (if r.st = RegionSt.running then s.regionCtxs r else []).foldl (fun (s : State) (x : Nat × Ctx) =>
    (if s.willWriteOnce x.1 then s.effects x.1 else s).failHeld x.1) s
  let s := r.sctx.foldl (fun (s : State) (x : Nat × Ctx) => s.failAll x.2.holds) s
  let s := match r.domain with
    | some n =>
      s.leaveDomain n h
    | none => s
  let s := s.freeEngines h
  let s := if r.st == .running then s.freeTiles r else s
  { s with regions := SMap.del s.regions h }

/-- Retirement of region `h` (R16, R315, R381): a latched pre-emption request is discarded and counted (R21). -/
def State.retire (s : State) (h : Nat) (r : Region) : State :=
  let s := s.dropRegion h r
  let s := if r.latched then { s with hub := { s.hub with lateReqs := s.hub.lateReqs + 1 } } else s
  s.answer r.queue r.tag.toNat 0 1 1 h 0

/-- Abort of region `h` under a cause word (R363): frozen tokens are discarded and counted, the region is retired without a save,
and the launch command completes with status 0xFFFFFFFF. -/
def State.abort (s : State) (h cause : Nat) : State :=
  match s.region? h with
  | none => s
  | some r =>
    let s := if r.st == .running then r.tiles.foldl (fun s t => s.count (ctrTile t 4) (s.tile t).tokens) s else s
    let s := (s.dropDeferred h).dropRegion h r
    s.answer r.queue r.tag.toNat 0xFFFFFFFF 1 1 h cause

end Sys2Proof.Machine
end

