-- ==== Sys2Proof/Machine/Traps.lean ====
section
/-! DEFINITION. Traps of a word (R357 to R363, R374, R375): raising a synchronous cause, the double fault, the illegal word, and the
frame in which every sequencer word runs. -/

namespace Sys2Proof.Machine

open Sys2Proof

/-- A request of a root core ends (R375). -/
def State.endRoot (s : State) (d : Nat) : State := { s with roots := SMap.del s.roots d }

/-- The stage of the fault tree at which a token of tile `t` starts (R11): the root core of its die, or what follows a root core. -/
def startStage (c : Ctx) (t : Nat) : Nat := if c.isRoot then (if tileDie t = 0 then 2 else 1) else 0

/-- The region whose request a root core serves; 0 for none. -/
def State.rootRegion (s : State) (d : Nat) : Nat := match SMap.get? s.roots d with
  | some (.sysc _ h _ _) => h
  | some (.fault f) => f.region
  | _ => 0

/-- A root core decides that a region is aborted (R362): it is carried out, and the fault record written, behind it (R363, R364). -/
def State.condemn (s : State) (f : FaultTok) : State := { s with ftoks := s.ftoks ++ [{ f with stage := 3 }] }

/-- A synchronous trap on a root core (R375): reported to the host as code 0x34; the request is abandoned, and the region that asked is aborted
with cause word 0x0034. The root core waits for its next request. -/
def State.rootDouble (s : State) (t : Nat) (c : Ctx) : State :=
  let f : FaultTok := ⟨causeWord false 0 0x34, 0, c.here, t, 0, startStage c t, false, c.asid⟩
  ((s.token f).condemn { f with region := s.rootRegion (tileDie t) }).endRoot (tileDie t)

/-- A synchronous trap at the monitor level of a tile (R357, R362): the context stops, its region is frozen, and the double fault is reported;
its die root settles it by an abort. Code 0x34 is never taken as a trap (R358): the other contexts of the region take a region abort, 0x24,
with the cause word that led to it (log 84). -/
def State.doubleFault (s : State) (t : Nat) (c : Ctx) : State :=
  let cause := causeWord false 0 0x34
  let s := s.setCtx t { c with halted := true }
  let s := match s.regionOf t with
    | some (h, r) => (s.setRegion h { r with frozen := true }).freeze r.tiles 0x24 (cause.setWidth 64) t (some t)
    | none => s
  s.report cause 0 c.here t (s.tile t).region

/-- Freeze what R362 says a synchronous cause freezes: the tile, or for an image-level TRAP the region; the other contexts of a
frozen region take the same code asynchronously (R361). -/
def State.freezeFor (s : State) (t code : Nat) (tval : W64) : State :=
  if code = 0x10 then
    match s.regionOf t with
    | some (h, r) => (s.setRegion h { r with frozen := true }).freeze r.tiles code tval t (some t)
    | none => s
  else if code ≤ 8 then s.freezeTile t true
  else s

/-- RAISING A SYNCHRONOUS CAUSE for the context of tile `t` (R357, R361, R362): at the image level the trap is taken, what the cause
freezes is frozen and the fault token is sent; at the monitor level it is a double fault. -/
def State.raise (s : State) (t : Nat) (c : Ctx) (code sub : Nat) (tval epc : W64) : State :=
  if c.isRoot then s.rootDouble t c
  else if c.lvl then s.doubleFault t c
  else
    let cause := causeWord false sub code
    let s := s.freezeFor t code tval
    let s := s.setCtx t { c.takeTrap cause tval epc with awaiting := true, src := t }
    s.report cause tval epc t (s.tile t).region

/-- A synchronous trap of the word that issues, with its own address or that of its ORD in csr.epc (R358). -/
def State.trap (s : State) (c : Ctx) (code sub : Nat) (tval : W64) : State := s.raise s.cur.toNat c code sub tval c.here

/-- The illegal-instruction trap (R44): csr.tval takes the word; for a waiting ORD that the word makes illegal, the ORD (R40). -/
def State.illegal (s : State) (c : Ctx) (w : W32) : State :=
  s.trap c 1 0 (match c.ord with
    | some (o, p) => (encode (.ord o p)).setWidth 64
    | none => w.setWidth 64)

/-- What an ORD in front of a word asks (R40): which half of the orders the word refuses, or none where ORD may not prefix it. -/
inductive OrdKind where
  | load | store | atomic | other
  deriving DecidableEq, Repr

/-- The kind of a word for ORD (R40). -/
def ordKind : Instr → OrdKind
  | .ldB .. | .ldH .. | .ldW .. | .ldD .. | .ldBn .. | .ldHn .. | .ldWn .. => .load
  | .ldsB .. | .ldsH .. | .ldsW .. | .ldsD .. | .ldsBn .. | .ldsHn .. | .ldsWn .. => .load
  | .stB .. | .stH .. | .stW .. | .stD .. | .stsB .. | .stsH .. | .stsW .. | .stsD .. | .woclr .. => .store
  | .amoAdd .. | .amoAnd .. | .amoOr .. | .amoXor .. | .amoMin .. | .amoMax .. | .amoMinn .. | .amoMaxn .. | .amoSwp ..
  | .amoFadd .. | .casW .. | .casD .. => .atomic
  | _ => .other

/-- A waiting ORD and the word behind it are legal together (R40). -/
def ordOk (o : Option (BitVec 3 × BitVec 2)) (i : Instr) : Bool :=
  match o with
  | none => true
  | some (o, _) =>
    match ordKind i with
    | .other => false
    | .load => o != 2
    | .store => o != 1
    | .atomic => true

/-- Monitor-only words (R37). -/
def monitorOnly : Instr → Bool
  | .eret | .invr .. | .inva .. => true
  | _ => false

/-- The majors a root core executes (R375). -/
def rootMajor (m : Nat) : Bool :=
  (1 ≤ m && m ≤ 0x11) || m == 0x14 || (0x18 ≤ m && m ≤ 0x1B) || m == 0x26 || m == 0x27 || m == 0x3D || m == 0x3E

/-- The word is legal for the context's level and core (R37, R44, R375). -/
def Ctx.allows (c : Ctx) (i : Instr) : Bool :=
  (c.lvl || !monitorOnly i) && (!c.isRoot || rootMajor (fieldsOf i).op.toNat)

/-- The frame in which every sequencer word runs: it acts for the context whose turn it is; a context that has stopped does nothing;
an illegal word, or one that a waiting ORD may not prefix, traps (R40, R44). -/
def runWord (i : Instr) (s : State) (f : Ctx → State) : Out :=
  match s.curCtx with
  | none => .next s
  | some c =>
    if c.halted then .next s
    else if ordOk c.ord i && c.allows i then .next (f c)
    else .next (s.illegal c (encode i))

/-- The region's request to be pre-empted is latched (R20). -/
def State.latched (s : State) (t : Nat) : Bool :=
  match s.regionOf t with
  | some (_, r) => r.latched
  | none => false

/-- R342: a latched request or a pending asynchronous trap interrupts a wait. -/
def State.interrupted (s : State) (t : Nat) (c : Ctx) : Bool := s.latched t || !c.pend.isEmpty

/-- The requests of a context that are not performed at their homes (R136, R369). -/
def State.outstanding (s : State) (t : Nat) : Bool :=
  s.reqs.any fun q => q.agent == .ctx t && (q.st == .issued || q.st == .deferred)

/-- A release at scope code `sc` may pass (R136): at TILE it waits for no generic access. -/
def State.released (s : State) (t : Nat) (sc : Nat) : Bool := sc == 0 || !s.outstanding t

/-- The word waits and tests its own condition again. -/
def State.hold (s : State) (t : Nat) (c : Ctx) (w : Wait) : State := s.setCtx t { c with wait := w }

end Sys2Proof.Machine
end

