-- ==== Sys2Proof/Machine/Operands.lean ====
section
/-! DEFINITION. The operand forms of sequencer words: sign-extended and zero-extended fields, displacements, effective addresses,
access kinds, and the arithmetic of register values that R89 and R90 name. -/

namespace Sys2Proof.Machine

open Sys2Proof

/-- A sign-extended immediate (R33, R92). -/
def sextImm {n : Nat} (x : BitVec n) : W64 := x.signExtend 64
/-- A zero-extended immediate (R33, R92). -/
def zextImm {n : Nat} (x : BitVec n) : W64 := x.setWidth 64

/-- The target of a displacement in words from a word's own address (R31). -/
def dispTarget {n : Nat} (pc : W64) (o : BitVec n) : W64 := pc + (sextImm o <<< 2)

/-- The effective address g(a) + sext(off) (R38, R116, R124). -/
def Ctx.ea {n : Nat} (c : Ctx) (a : Reg) (o : BitVec n) : W64 := c.r a + sextImm o

/-- The upper immediate of LUI and ADDPC (R93). -/
def upper (i : BitVec 16) : W64 := sextImm i <<< 16

/-- The shift amount in a register (R89). -/
def shamt (x : W64) : Nat := bits64 x 5 0

/-- 1 or 0. -/
def flag (b : Bool) : W64 := if b then 1 else 0

/-- Leading zeros (R89). -/
def clz64 (x : W64) : W64 := if x = 0 then 64 else BitVec.ofNat 64 (63 - x.toNat.log2)

/-- Trailing zeros of a number among `n` bits (R89). -/
def ctzNat : Nat → Nat → Nat
  | 0, _ => 0
  | n + 1, x => if x % 2 = 1 then 0 else 1 + ctzNat n (x / 2)

/-- One bits of a number among `n` bits (R89). -/
def popNat : Nat → Nat → Nat
  | 0, _ => 0
  | n + 1, x => x % 2 + popNat n (x / 2)

/-- The high half of a signed product (R89). -/
def mulhS (x y : W64) : W64 := BitVec.ofInt 64 (x.toInt * y.toInt / 2 ^ 64)
/-- The high half of an unsigned product (R89). -/
def mulhN (x y : W64) : W64 := BitVec.ofNat 64 (x.toNat * y.toNat / 2 ^ 64)

/-- DIV (R90). -/
def divS (x y : W64) : W64 := if y = 0 then 0xFFFFFFFFFFFFFFFF else BitVec.ofInt 64 (x.toInt.tdiv y.toInt)
/-- REM (R90). -/
def remS (x y : W64) : W64 := if y = 0 then x else BitVec.ofInt 64 (x.toInt.tmod y.toInt)
/-- DIVN (R90). -/
def divU (x y : W64) : W64 := if y = 0 then 0xFFFFFFFFFFFFFFFF else BitVec.ofNat 64 (x.toNat / y.toNat)
/-- REMN (R90). -/
def remU (x y : W64) : W64 := if y = 0 then x else BitVec.ofNat 64 (x.toNat % y.toNat)

/-- The low `n` bytes of a register (R116). -/
def lowBytes (n : Nat) (x : W64) : List Byte := leBytes n x.toNat

/-- A loaded value of `n` bytes (R116): sign-extended or zero-extended. -/
def extend (signed : Bool) (n : Nat) (bs : List Byte) : W64 :=
  if signed then BitVec.ofInt 64 (sextNat (8 * n) (leNat bs)) else BitVec.ofNat 64 (leNat bs)

end Sys2Proof.Machine
end

