-- ==== Sys2Proof/Machine/Flags.lean ====
section
/-! DEFINITION. Status words: no sequencer word sets a flag (R89, R139); what the machine has of flags are the sticky flags of a VE
(R75), the damaged bits and status bits of units, and the interruption and completion codes of words. This file holds the words that
software reads them as. -/

namespace Sys2Proof.Machine

open Sys2Proof

/-- Pack fields, each with the bit it begins at. -/
def packBits (l : List (Nat × Nat)) : W64 := BitVec.ofNat 64 ((l.map fun (lo, v) => v * 2 ^ lo).sum)

/-- A Boolean as a field. -/
def b1 (b : Bool) : Nat := if b then 1 else 0

/-- All ones: the answer that names no unit (R323, R324, R352). -/
def allOnes : W64 := 0xFFFFFFFFFFFFFFFF

/-- csr.mstat (R84). -/
def mstatWord (c : Ctx) : W64 := packBits [(0, b1 c.lvl), (1, b1 c.plvl)]

/-- csr.rpos of a position in a region (R84). -/
def rposWord (w h i : Nat) : W32 := BitVec.ofNat 32 (w * 2 ^ 24 + h * 2 ^ 16 + i % w * 2 ^ 8 + i / w)

/-- The sticky flags of a VE with those of a firing (R75). -/
def stickyOr (old new : BitVec 6) : BitVec 6 := old ||| new

end Sys2Proof.Machine
end

