-- ==== Sys2Proof/Machine/Scalar.lean ====
section
/-! DEFINITION. Scalar, branch, loop, CSR and pause instructions (R89 to R102). -/

namespace Sys2Proof.Machine

open Sys2Proof

/-- A word that writes one register and goes on. -/
def alu (i : Instr) (d : Reg) (s : State) (f : Ctx → W64) : Out := runWord i s fun c => s.setCur (c.w d (f c)).next

/-! ### Register operations (R89) -/

/-- ADD. -/
def execAdd (d a b : Reg) (s : State) : Out := alu (.add d a b) d s fun c => c.r a + c.r b
/-- SUB. -/
def execSub (d a b : Reg) (s : State) : Out := alu (.sub d a b) d s fun c => c.r a - c.r b
/-- AND. -/
def execAnd (d a b : Reg) (s : State) : Out := alu (.and d a b) d s fun c => c.r a &&& c.r b
/-- OR. -/
def execOr (d a b : Reg) (s : State) : Out := alu (.or d a b) d s fun c => c.r a ||| c.r b
/-- XOR. -/
def execXor (d a b : Reg) (s : State) : Out := alu (.xor d a b) d s fun c => c.r a ^^^ c.r b
/-- ANDN. -/
def execAndn (d a b : Reg) (s : State) : Out := alu (.andn d a b) d s fun c => c.r a &&& ~~~ c.r b
/-- SHL. -/
def execShl (d a b : Reg) (s : State) : Out := alu (.shl d a b) d s fun c => c.r a <<< shamt (c.r b)
/-- SHR. -/
def execShr (d a b : Reg) (s : State) : Out := alu (.shr d a b) d s fun c => c.r a >>> shamt (c.r b)
/-- SRA. -/
def execSra (d a b : Reg) (s : State) : Out := alu (.sra d a b) d s fun c => (c.r a).sshiftRight (shamt (c.r b))
/-- ROL. -/
def execRol (d a b : Reg) (s : State) : Out := alu (.rol d a b) d s fun c => (c.r a).rotateLeft (shamt (c.r b))
/-- MIN. -/
def execMin (d a b : Reg) (s : State) : Out := alu (.min d a b) d s fun c => if (c.r b).slt (c.r a) then c.r b else c.r a
/-- MAX. -/
def execMax (d a b : Reg) (s : State) : Out := alu (.max d a b) d s fun c => if (c.r a).slt (c.r b) then c.r b else c.r a
/-- MINN. -/
def execMinn (d a b : Reg) (s : State) : Out := alu (.minn d a b) d s fun c => if (c.r b).ult (c.r a) then c.r b else c.r a
/-- MAXN. -/
def execMaxn (d a b : Reg) (s : State) : Out := alu (.maxn d a b) d s fun c => if (c.r a).ult (c.r b) then c.r b else c.r a
/-- SEQ. -/
def execSeq (d a b : Reg) (s : State) : Out := alu (.seq d a b) d s fun c => flag (c.r a == c.r b)
/-- SNE. -/
def execSne (d a b : Reg) (s : State) : Out := alu (.sne d a b) d s fun c => flag (c.r a != c.r b)
/-- SLT. -/
def execSlt (d a b : Reg) (s : State) : Out := alu (.slt d a b) d s fun c => flag ((c.r a).slt (c.r b))
/-- SLTN. -/
def execSltn (d a b : Reg) (s : State) : Out := alu (.sltn d a b) d s fun c => flag ((c.r a).ult (c.r b))
/-- CLZ. -/
def execClz (d a : Reg) (s : State) : Out := alu (.clz d a) d s fun c => clz64 (c.r a)
/-- CTZ. -/
def execCtz (d a : Reg) (s : State) : Out := alu (.ctz d a) d s fun c => BitVec.ofNat 64 (ctzNat 64 (c.r a).toNat)
/-- POPC. -/
def execPopc (d a : Reg) (s : State) : Out := alu (.popc d a) d s fun c => BitVec.ofNat 64 (popNat 64 (c.r a).toNat)
/-- MUL. -/
def execMul (d a b : Reg) (s : State) : Out := alu (.mul d a b) d s fun c => c.r a * c.r b
/-- MULH. -/
def execMulh (d a b : Reg) (s : State) : Out := alu (.mulh d a b) d s fun c => mulhS (c.r a) (c.r b)
/-- MULHN. -/
def execMulhn (d a b : Reg) (s : State) : Out := alu (.mulhn d a b) d s fun c => mulhN (c.r a) (c.r b)
/-- DIV (R90). -/
def execDiv (d a b : Reg) (s : State) : Out := alu (.div d a b) d s fun c => divS (c.r a) (c.r b)
/-- DIVN (R90). -/
def execDivn (d a b : Reg) (s : State) : Out := alu (.divn d a b) d s fun c => divU (c.r a) (c.r b)
/-- REM (R90). -/
def execRem (d a b : Reg) (s : State) : Out := alu (.rem d a b) d s fun c => remS (c.r a) (c.r b)
/-- REMN (R90). -/
def execRemn (d a b : Reg) (s : State) : Out := alu (.remn d a b) d s fun c => remU (c.r a) (c.r b)
/-- SHLI (R91). -/
def execShli (d a : Reg) (n : BitVec 6) (s : State) : Out := alu (.shli d a n) d s fun c => c.r a <<< n.toNat
/-- SHRI (R91). -/
def execShri (d a : Reg) (n : BitVec 6) (s : State) : Out := alu (.shri d a n) d s fun c => c.r a >>> n.toNat
/-- SRAI (R91). -/
def execSrai (d a : Reg) (n : BitVec 6) (s : State) : Out := alu (.srai d a n) d s fun c => (c.r a).sshiftRight n.toNat

/-! ### Immediate forms (R92, R93) -/

/-- ADDI. -/
def execAddi (d a : Reg) (i : BitVec 16) (s : State) : Out := alu (.addi d a i) d s fun c => c.r a + sextImm i
/-- ANDI. -/
def execAndi (d a : Reg) (i : BitVec 16) (s : State) : Out := alu (.andi d a i) d s fun c => c.r a &&& zextImm i
/-- ORI. -/
def execOri (d a : Reg) (i : BitVec 16) (s : State) : Out := alu (.ori d a i) d s fun c => c.r a ||| zextImm i
/-- XORI. -/
def execXori (d a : Reg) (i : BitVec 16) (s : State) : Out := alu (.xori d a i) d s fun c => c.r a ^^^ zextImm i
/-- SLTI. -/
def execSlti (d a : Reg) (i : BitVec 16) (s : State) : Out := alu (.slti d a i) d s fun c => flag ((c.r a).slt (sextImm i))
/-- LUI. -/
def execLui (d : Reg) (i : BitVec 16) (s : State) : Out := alu (.lui d i) d s fun _ => upper i
/-- ADDPC. -/
def execAddpc (d : Reg) (i : BitVec 16) (s : State) : Out := alu (.addpc d i) d s fun c => c.pc + upper i

/-! ### Branches and jumps (R94 to R96) -/

/-- A B-form branch (R94, R98, R99). -/
def branchIf (i : Instr) (o : BitVec 16) (s : State) (p : Ctx → Bool) : Out :=
  runWord i s fun c => s.setCur (if p c then c.branch (dispTarget c.pc o) else c.next)

/-- BEQ. -/
def execBeq (a b : Reg) (o : BitVec 16) (s : State) : Out := branchIf (.beq a b o) o s fun c => c.r a == c.r b
/-- BNE. -/
def execBne (a b : Reg) (o : BitVec 16) (s : State) : Out := branchIf (.bne a b o) o s fun c => c.r a != c.r b
/-- BLT. -/
def execBlt (a b : Reg) (o : BitVec 16) (s : State) : Out := branchIf (.blt a b o) o s fun c => (c.r a).slt (c.r b)
/-- BGE. -/
def execBge (a b : Reg) (o : BitVec 16) (s : State) : Out := branchIf (.bge a b o) o s fun c => !(c.r a).slt (c.r b)
/-- BLTN. -/
def execBltn (a b : Reg) (o : BitVec 16) (s : State) : Out := branchIf (.bltn a b o) o s fun c => (c.r a).ult (c.r b)
/-- BGEN. -/
def execBgen (a b : Reg) (o : BitVec 16) (s : State) : Out := branchIf (.bgen a b o) o s fun c => !(c.r a).ult (c.r b)
/-- J (R95, R99). -/
def execJ (o : BitVec 26) (s : State) : Out := runWord (.j o) s fun c => s.setCur (c.branch (dispTarget c.pc o))
/-- JAL (R95): g31 takes the link; no loop entry is popped (R99). -/
def execJal (o : BitVec 26) (s : State) : Out := runWord (.jal o) s fun c => s.setCur ((c.w 31 (c.pc + 4)).jump (dispTarget c.pc o))
/-- JALR (R96): a misaligned target traps before the link is written. -/
def execJalr (d a : Reg) (s : State) : Out :=
  runWord (.jalr d a) s fun c =>
    if bits64 (c.r a) 1 0 = 0 then s.setCur ((c.w d (c.pc + 4)).jump (c.r a)) else s.trap c 2 0 (c.r a)

/-! ### Hardware loops (R97) -/

/-- LOOPI. -/
def execLoopi (d : Reg) (l : BitVec 16) (s : State) : Out :=
  runWord (.loopi d l) s fun c =>
    let n := c.r d
    let first := c.pc + 4
    let last := c.pc + 4 * zextImm l
    let go (st : List LoopEnt) : State := s.setCur ((c.setStack (⟨n.setWidth 32, first, last⟩ :: st)).jump first)
    if 4294967295 < n.toNat then s.trap c 6 1 n
    else if n = 0 then s.setCur (c.jump (last + 4))
    else match c.stack with
      | [] => go []
      | [e] => if e.last.toNat < last.toNat ∨ first.toNat < e.beg.toNat then s.trap c 6 3 first else go [e]
      | _ => s.trap c 6 2 0

/-! ### CSR access (R84, R85, R101) -/

/-- A number that CSRR reads at a level (R84). -/
def csrReadable (lvl : Bool) (n : BitVec 12) : Bool :=
  csrAssigned n && (lvl || !(0x040 ≤ n.toNat && n.toNat ≤ 0x045))

/-- A number that is written at the monitor level (R84). -/
def csrWritable (lvl : Bool) (n : BitVec 12) : Bool :=
  lvl && csrAssigned n && ((0x020 ≤ n.toNat && n.toNat ≤ 0x026) || n.toNat == 0x030 || (0x040 ≤ n.toNat && n.toNat ≤ 0x045)
    || n.toNat == 0x050 || n.toNat == 0x051)

/-- The value of a CSR for the context of tile `t` (R84). -/
def csrGet (s : State) (t : Nat) (c : Ctx) (n : BitVec 12) : W64 :=
  match n.toNat with
  | 0x000 => BitVec.ofNat 64 (s.hub.pkg.toNat * 1024 + t)
  | 0x001 => c.rpos.setWidth 64
  | 0x010 => s.cycles (islandOf t)
  | 0x011 => c.ret
  | 0x020 => c.ldep.setWidth 64
  | 0x021 => c.l0.cnt.setWidth 64
  | 0x022 => c.l0.beg
  | 0x023 => c.l0.last
  | 0x024 => c.l1.cnt.setWidth 64
  | 0x025 => c.l1.beg
  | 0x026 => c.l1.last
  | 0x030 => c.asid.setWidth 64
  | 0x040 => c.tvec
  | 0x041 => c.tcause.setWidth 64
  | 0x042 => c.tval
  | 0x043 => c.epc
  | 0x044 => mstatWord c
  | 0x045 => c.mscr
  | 0x050 => c.qwc.setWidth 64
  | 0x051 => c.wdog.setWidth 64
  | 0x060 => BitVec.ofNat 64 (bits64 (s.tile t).warp 7 0)
  | 0x061 => BitVec.ofNat 64 (bits64 (s.tile t).warp 47 32)
  | _ => 0

/-- A write of a CSR (R85): bits outside the named fields are discarded; ldep 3 is discarded. -/
def csrPut (c : Ctx) (n : BitVec 12) (v : W64) : Ctx :=
  match n.toNat with
  | 0x020 => if bits64 v 1 0 = 3 then c else { c with ldep := v.setWidth 2 }
  | 0x021 => { c with l0 := { c.l0 with cnt := v.setWidth 32 } }
  | 0x022 => { c with l0 := { c.l0 with beg := v } }
  | 0x023 => { c with l0 := { c.l0 with last := v } }
  | 0x024 => { c with l1 := { c.l1 with cnt := v.setWidth 32 } }
  | 0x025 => { c with l1 := { c.l1 with beg := v } }
  | 0x026 => { c with l1 := { c.l1 with last := v } }
  | 0x030 => { c with asid := v.setWidth 16 }
  | 0x040 => { c with tvec := wordAddr v, tvset := true }
  | 0x041 => { c with tcause := v.setWidth 16 }
  | 0x042 => { c with tval := v }
  | 0x043 => { c with epc := wordAddr v, eord := none }
  | 0x044 => { c with plvl := v.getLsbD 1 }
  | 0x045 => { c with mscr := v }
  | 0x050 => { c with qwc := v.setWidth 32 }
  | 0x051 => { c with wdog := v.setWidth 32 }
  | _ => c

/-- A read-modify-write of a CSR (R101). -/
def csrOp (i : Instr) (d : Reg) (n : BitVec 12) (s : State) (f : Ctx → W64 → W64) : Out :=
  runWord i s fun c =>
    if csrWritable c.lvl n then
      let old := csrGet s s.cur.toNat c n
      s.setCur ((csrPut c n (f c old)).w d old).next
    else s.illegal c (encode i)

/-- CSRR. -/
def execCsrr (d : Reg) (n : BitVec 12) (s : State) : Out :=
  runWord (.csrr d n) s fun c =>
    if csrReadable c.lvl n then s.setCur (c.w d (csrGet s s.cur.toNat c n)).next else s.illegal c (encode (.csrr d n))
/-- CSRW. -/
def execCsrw (d a : Reg) (n : BitVec 12) (s : State) : Out := csrOp (.csrw d a n) d n s fun c _ => c.r a
/-- CSRS. -/
def execCsrs (d a : Reg) (n : BitVec 12) (s : State) : Out := csrOp (.csrs d a n) d n s fun c old => old ||| c.r a
/-- CSRC. -/
def execCsrc (d a : Reg) (n : BitVec 12) (s : State) : Out := csrOp (.csrc d a n) d n s fun c old => old &&& ~~~ c.r a

/-- PAUSE (R102): 16 cycles of issue and no other state. -/
def execPause (s : State) : Out := runWord .pause s fun c => s.setCur c.next

end Sys2Proof.Machine
end

