-- ==== Sys2Proof/Machine/Access.lean ====
section
/-! DEFINITION. What memory instructions share: the wait for a translation, reads that an instruction makes for itself (R402), the
orders of an ORD (R133, R136), and the limits of R117. -/

namespace Sys2Proof.Machine

open Sys2Proof

/-- Start a walk for tile `t` (R367): at level 5 the root entry of the ASID is read. -/
def State.startWalk (s : State) (t : Nat) (asid : BitVec 16) (va : W64) (what : Access) (quiet : Bool) : State :=
  { s with
    walks := s.walks ++ [⟨s.nextId, t, asid, va, 5, s.hub.atbase, none, false, what, quiet, none⟩]
    nextId := s.nextId + 1 }

/-- A miss stalls issue while a walker is asked (R115). -/
def State.missed (s : State) (t : Nat) (c : Ctx) (asid : BitVec 16) (va : W64) (what : Access) : State :=
  match c.wait with
  | .walk id =>
    if s.walks.any (fun w => w.id == id) then s
    else (s.startWalk t asid va what false).hold t c (.walk s.nextId)
  | _ => (s.startWalk t asid va what false).hold t c (.walk s.nextId)

/-- Go on with the page of a check, or trap with the effective address in csr.tval, or wait for the walker (R115). -/
def State.withPage (s : State) (t : Nat) (c : Ctx) (va : W64) (what : Access) (k : Checked) (f : TlbEnt → State) : State :=
  match k with
  | .trap code => s.trap c code 0 va
  | .miss => s.missed t c c.asid va what
  | .ok e => f e

/-- The addresses at which the 4 KiB pages of a range begin, its own first. -/
def pageStarts (va : W64) (n : Nat) : List W64 :=
  (List.range ((va.toNat % 4096 + n + 4095) / 4096)).map fun i => if i = 0 then va else (va &&& ~~~ 4095#64) + BitVec.ofNat 64 (4096 * i)

/-- Bytes of a range that fall in the page part that begins at `p`. -/
def partLen (va : W64) (n : Nat) (p : W64) : Nat :=
  min (4096 - p.toNat % 4096) (n - (p - va).toNat)

/-- The sectors of `n` bytes at a virtual address inside one page: address and bytes. -/
def sectorsOf (va : W64) (n : Nat) : List (W64 × Nat) :=
  let a := va.toNat % 64
  (List.range ((a + n + 63) / 64)).map fun i =>
    if i = 0 then (va, min n (64 - a)) else (va + BitVec.ofNat 64 (64 * i - a), min 64 (n - (64 * i - a)))

/-- The request of one sector of an own read (R402). -/
def ownReq (s : State) (t : Nat) (e : TlbEnt) (x : W64 × Nat) : Req := { mkReq s t .read e x.1 x.2 with agent := .own t }

/-- Forget the reads that a context's word makes for itself: the word traps (R357). -/
def State.dropOwn (s : State) (t : Nat) : State := { s with reqs := s.reqs.filter fun q => q.agent != .own t }

/-- A read that a word of the context makes for itself is out for this sector. -/
def State.ownOut (s : State) (t : Nat) (q : Req) : Bool := s.reqs.any fun r => r.agent == .own t && r.pa == q.pa && r.n == q.n

/-- One page part of an own read: its sectors, or where the word stops: a trap or a miss. -/
def State.ownPart (s : State) (t : Nat) (c : Ctx) (p : W64) (k : Nat) : Except State (List Req) :=
  match checkAccess s t c.asid p 1 .load false with
  | .trap code => .error ((s.dropOwn t).trap c code 0 p)
  | .miss => .error (s.missed t c c.asid p .load)
  | .ok e => .ok ((sectorsOf p k).map (ownReq s t e))

/-- The sectors of an own read: the pages are checked in order, and the first failing address stands in csr.tval. -/
def State.ownParts (s : State) (t : Nat) (c : Ctx) (va : W64) (n : Nat) : Except State (List Req) :=
  (pageStarts va n).foldl (fun (acc : Except State (List Req)) p =>
    match acc with
    | .error x => .error x
    | .ok l => match s.ownPart t c p (partLen va n p) with
      | .error x => .error x
      | .ok x => .ok (l ++ x)) (.ok [])

/-- The bytes of a sector: those answered before, or what its home answers at once; none where the word's own request for it is out, an earlier
access of the context to it is on its way (R132), a word of it is not present, or its channel stalls (R142, R143). -/
def State.ownBytes (s : State) (t : Nat) (c : Ctx) (q : Req) : Option (List Byte) :=
  match c.own.find? fun x => x.1 == q.pa && x.2.length == q.n with
  | some x => some x.2
  | none =>
    if s.ownOut t q || s.blocked { q with id := s.nextId } || s.channelStalled { q with id := s.nextId } || isRemote q.pa
        || (q.kind == .writeOnce && !s.allPresent q.pa q.n) then none
    else some (s.homeRead q)

/-- The word waits for what it reads for itself (R402): what has been answered, to this read or an earlier one of it, is kept, and a request is
out for every other sector. -/
def State.ownWait (s : State) (t : Nat) (c : Ctx) (l : List Req) : State :=
  let got := l.filterMap fun q => (s.ownBytes t c q).map fun bs => (q.pa, bs)
  let out := l.filter fun q => (s.ownBytes t c q).isNone && !s.ownOut t q
  (out.foldl (fun (s : State) q => s.addReq q) s).setCtx t { c with wait := .own, own := (c.own.filter fun x => !got.any fun y => y.1 == x.1 && y.2.length == x.2.length) ++ got }

/-- A read that an instruction makes for itself, as relaxed loads of the context (R113, R402). -/
def State.ownRead (s : State) (t : Nat) (c : Ctx) (va : W64) (n : Nat) : Except State (List Byte) :=
  match s.ownParts t c va n with
  | .error x => .error x
  | .ok l => if l.all fun q => (s.ownBytes t c q).isSome then .ok (l.flatMap fun q => (s.ownBytes t c q).getD [])
    else .error (s.ownWait t c l)

/-- Go on with the bytes of an own read, or stop where it stops. -/
def State.readOwn (s : State) (t : Nat) (c : Ctx) (va : W64) (n : Nat) (f : List Byte → State) : State :=
  match s.ownRead t c va n with
  | .ok bs => f bs
  | .error x => x

/-- The order code of a waiting ORD, 0 without one (R39). -/
def Ctx.order (c : Ctx) : Nat := match c.ord with
  | some (o, _) => o.toNat
  | none => 0
/-- Its scope code. -/
def Ctx.scope (c : Ctx) : Nat := match c.ord with
  | some (_, p) => p.toNat
  | none => 0

/-- A load under this order waits for its own access (R133, R136). -/
def acquires (o : Nat) : Bool := o == 1 || o == 3 || o == 4
/-- An access that writes waits first for the earlier ones under this order. -/
def releases (o : Nat) : Bool := o == 2 || o == 3 || o == 4

/-- Outstanding loads, atomics among them (R117, R141). -/
def State.loadsOut (s : State) (t : Nat) : Nat := (s.reqs.filter fun q => q.agent == .ctx t && q.op != .write).length
/-- Posted stores not yet performed (R117). -/
def State.storesOut (s : State) (t : Nat) : Nat :=
  (s.reqs.filter fun q => q.agent == .ctx t && q.op == .write && q.st != .performed).length

/-- A request goes out; where the word waits for it, the word stays (R117, R136). -/
def State.issue (s : State) (t : Nat) (c : Ctx) (q : Req) (waits : Bool) : State :=
  let s := s.addReq { q with acked := waits, ordered := BitVec.ofNat 3 c.order }
  s.setCtx t (if waits then { c with wait := .access (s.nextId - 1) } else c.next)

/-- The word whose own request is out: it completes once the request has been answered. -/
def State.answeredWord (s : State) (t : Nat) (c : Ctx) (id : Nat) : State :=
  if s.reqs.any (fun q => q.id == id) then s else s.setCtx t c.next

end Sys2Proof.Machine
end

