-- ==== Sys2Proof/Machine/Memory.lean ====
section
/-! DEFINITION. Loads, stores, scratchpad accesses, prefetches and the tag table (R103 to R128). -/

namespace Sys2Proof.Machine

open Sys2Proof

/-! ### Generic memory (R115 to R117) -/

/-- LD of `n` bytes. -/
def loadWord (i : Instr) (d a : Reg) (o : BitVec 12) (n : Nat) (signed : Bool) (s : State) : Out :=
  runWord i s fun c =>
    let t := s.cur.toNat
    match c.wait with
    | .access id => s.answeredWord t c id
    | _ =>
      let va := c.ea a o
      s.withPage t c va .load (checkAccess s t c.asid va n .load false) fun e =>
        if c.order == 4 && !s.released t c.scope then s.hold t c .again
        else if 16 ≤ s.loadsOut t then s.hold t c .again
        else s.issue t c { mkReq s t .read e va n with reg := some d, signed := signed } (acquires c.order || e.kind == .device)

/-- ST of `n` bytes. -/
def storeWord (i : Instr) (d a : Reg) (o : BitVec 12) (n : Nat) (s : State) : Out :=
  runWord i s fun c =>
    let t := s.cur.toNat
    match c.wait with
    | .access id => s.answeredWord t c id
    | _ =>
      let va := c.ea a o
      s.withPage t c va .store (checkAccess s t c.asid va n .store (n == 8)) fun e =>
        if releases c.order && !s.released t c.scope then s.hold t c .again
        else if 32 ≤ s.storesOut t then s.hold t c .again
        else s.issue t c { mkReq s t .write e va n with dat := lowBytes n (c.r d) } (e.kind != .normal || c.order == 4)

/-- LD.B -/
def execLdB (d a : Reg) (o : BitVec 12) (s : State) : Out := loadWord (.ldB d a o) d a o 1 true s
/-- LD.H -/
def execLdH (d a : Reg) (o : BitVec 12) (s : State) : Out := loadWord (.ldH d a o) d a o 2 true s
/-- LD.W -/
def execLdW (d a : Reg) (o : BitVec 12) (s : State) : Out := loadWord (.ldW d a o) d a o 4 true s
/-- LD.D -/
def execLdD (d a : Reg) (o : BitVec 12) (s : State) : Out := loadWord (.ldD d a o) d a o 8 false s
/-- LD.BN -/
def execLdBn (d a : Reg) (o : BitVec 12) (s : State) : Out := loadWord (.ldBn d a o) d a o 1 false s
/-- LD.HN -/
def execLdHn (d a : Reg) (o : BitVec 12) (s : State) : Out := loadWord (.ldHn d a o) d a o 2 false s
/-- LD.WN -/
def execLdWn (d a : Reg) (o : BitVec 12) (s : State) : Out := loadWord (.ldWn d a o) d a o 4 false s
/-- ST.B -/
def execStB (d a : Reg) (o : BitVec 12) (s : State) : Out := storeWord (.stB d a o) d a o 1 s
/-- ST.H -/
def execStH (d a : Reg) (o : BitVec 12) (s : State) : Out := storeWord (.stH d a o) d a o 2 s
/-- ST.W -/
def execStW (d a : Reg) (o : BitVec 12) (s : State) : Out := storeWord (.stW d a o) d a o 4 s
/-- ST.D -/
def execStD (d a : Reg) (o : BitVec 12) (s : State) : Out := storeWord (.stD d a o) d a o 8 s

/-! ### The SE local space (R120, R121) -/

/-- The check of an LDS or STS: alignment, range, availability; a trap code or none. -/
def checkLocal (s : State) (t : Nat) (va : W64) (n al : Nat) : Option Nat :=
  if va.toNat % al ≠ 0 then some 2
  else if 2 ^ 20 ≤ va.toNat then some 3
  else if ((List.range n).all fun i => (s.tile t).seAvailable (va.toNat + i)) then none
  else some 4

/-- LDS of `n` bytes. -/
def localLoad (i : Instr) (d a : Reg) (o : BitVec 12) (n : Nat) (signed : Bool) (s : State) : Out :=
  runWord i s fun c =>
    let t := s.cur.toNat
    let va := c.ea a o
    match checkLocal s t va n n with
    | some code => s.trap c code 0 va
    | none =>
      if c.order == 4 && !s.released t c.scope then s.hold t c .again
      else (s.updTile t fun x => x.seqAccess va.toNat).setCtx t (c.w d (extend signed n ((s.tile t).seBytes va.toNat n))).next

/-- STS of `n` bytes. -/
def localStore (i : Instr) (d a : Reg) (o : BitVec 12) (n : Nat) (s : State) : Out :=
  runWord i s fun c =>
    let t := s.cur.toNat
    let va := c.ea a o
    match checkLocal s t va n n with
    | some code => s.trap c code 0 va
    | none =>
      if releases c.order && !s.released t c.scope then s.hold t c .again
      else (s.updTile t fun x => (x.seqAccess va.toNat).seWrite va.toNat (lowBytes n (c.r d))).setCtx t c.next

/-- LDS.B -/
def execLdsB (d a : Reg) (o : BitVec 12) (s : State) : Out := localLoad (.ldsB d a o) d a o 1 true s
/-- LDS.H -/
def execLdsH (d a : Reg) (o : BitVec 12) (s : State) : Out := localLoad (.ldsH d a o) d a o 2 true s
/-- LDS.W -/
def execLdsW (d a : Reg) (o : BitVec 12) (s : State) : Out := localLoad (.ldsW d a o) d a o 4 true s
/-- LDS.D -/
def execLdsD (d a : Reg) (o : BitVec 12) (s : State) : Out := localLoad (.ldsD d a o) d a o 8 false s
/-- LDS.BN -/
def execLdsBn (d a : Reg) (o : BitVec 12) (s : State) : Out := localLoad (.ldsBn d a o) d a o 1 false s
/-- LDS.HN -/
def execLdsHn (d a : Reg) (o : BitVec 12) (s : State) : Out := localLoad (.ldsHn d a o) d a o 2 false s
/-- LDS.WN -/
def execLdsWn (d a : Reg) (o : BitVec 12) (s : State) : Out := localLoad (.ldsWn d a o) d a o 4 false s
/-- STS.B -/
def execStsB (d a : Reg) (o : BitVec 12) (s : State) : Out := localStore (.stsB d a o) d a o 1 s
/-- STS.H -/
def execStsH (d a : Reg) (o : BitVec 12) (s : State) : Out := localStore (.stsH d a o) d a o 2 s
/-- STS.W -/
def execStsW (d a : Reg) (o : BitVec 12) (s : State) : Out := localStore (.stsW d a o) d a o 4 s
/-- STS.D -/
def execStsD (d a : Reg) (o : BitVec 12) (s : State) : Out := localStore (.stsD d a o) d a o 8 s

/-! ### PREF (R124) -/

/-- A page on which PREF acts: normal and readable, outside every ring (R107, R124, R150). -/
def State.prefActs (s : State) (e : TlbEnt) (va : W64) : Bool := e.r && e.kind == .normal && !ringed s e.asid va

/-- PREF: it only moves translations, never traps and never waits. -/
def execPref (h : BitVec 5) (a : Reg) (o : BitVec 16) (s : State) : Out :=
  runWord (.pref h a o) s fun c =>
    let t := s.cur.toNat
    let va := c.ea a o
    let s1 : State :=
      if h = 3 then s.setTlb t ((s.tlbOf t).filter fun e => !(e.covers c.asid va && s.prefActs e va))
      else if bits64 va 63 57 ≠ 0 ∨ (tlbFind (s.tlbOf t) c.asid va).isSome ∨ ringed s c.asid va then s
      else s.startWalk t c.asid va .load true
    s1.setCtx t c.next

/-! ### The tag table (R125 to R128) -/

/-- Entry of a set and way (R126). -/
def Ctx.tag (c : Ctx) (set way : Nat) : W64 := SMap.getD c.tags (set * 4 + way) 0
/-- The set of a line. -/
def tagSet (va : W64) : Nat := bits64 va 11 6
/-- The way of the set that holds a line. -/
def Ctx.tagHit (c : Ctx) (va : W64) : Option Nat :=
  (List.range 4).find? fun w =>
    let e := c.tag (tagSet va) w
    bits64 e 63 63 == 1 && bits64 e 58 14 == bits64 va 56 12
/-- The hit form (R127). -/
def Ctx.hitForm (c : Ctx) (va : W64) (w : Nat) : W64 :=
  packBits [(20, w), (0, (bits64 (c.tag (tagSet va) w) 13 0 * 64 + bits64 va 5 0) % 2 ^ 20)]
/-- The miss form (R127). -/
def Ctx.missForm (c : Ctx) (va : W64) : W64 :=
  match (List.range 4).find? fun w => bits64 (c.tag (tagSet va) w) 63 63 == 0 with
  | some w => packBits [(63, 1), (62, 1), (2, tagSet va), (0, w)]
  | none => packBits [(63, 1), (2, tagSet va)]
/-- Write an entry; zero makes it invalid. -/
def Ctx.setTag (c : Ctx) (set way : Nat) (v : W64) : Ctx :=
  { c with tags := if v = 0 then SMap.del c.tags (set * 4 + way) else SMap.put c.tags (set * 4 + way) v }
/-- What a lookup writes. -/
def Ctx.tagLook (c : Ctx) (va : W64) : W64 :=
  match c.tagHit va with
  | some w => c.hitForm va w
  | none => c.missForm va

/-- TLOOK. -/
def execTlook (d a : Reg) (s : State) : Out := alu (.tlook d a) d s fun c => c.tagLook (c.r a)

/-- TINS. -/
def execTins (d a b : Reg) (s : State) : Out :=
  runWord (.tins d a b) s fun c =>
    let va := c.r a
    let set := tagSet va
    let w := bits64 (c.r b) 15 14
    match c.tagHit va with
    | some h =>
      if h ≠ w then s.setCur (c.w d (c.tag set h ||| 0x4000000000000000)).next
      else s.setCur ((c.setTag set w (packBits [(63, 1), (14, bits64 va 56 12), (0, bits64 (c.r b) 13 0)])).w d (c.tag set w)).next
    | none => s.setCur ((c.setTag set w (packBits [(63, 1), (14, bits64 va 56 12), (0, bits64 (c.r b) 13 0)])).w d (c.tag set w)).next

/-- TINV. -/
def execTinv (d a : Reg) (s : State) : Out :=
  runWord (.tinv d a) s fun c =>
    let va := c.r a
    match c.tagHit va with
    | some w => s.setCur ((c.setTag (tagSet va) w 0).w d (c.hitForm va w)).next
    | none => s.setCur (c.w d (c.missForm va)).next

end Sys2Proof.Machine
end

