-- ==== Sys2Proof/Machine/Ordering.lean ====
section
/-! DEFINITION. ORD, FENCE, atomics and write-once instructions (R129 to R146). -/

namespace Sys2Proof.Machine

open Sys2Proof

/-- ORD (R40, R135): it waits for the access that follows it; as the last word of a loop body it is illegal. -/
def execOrd (o : BitVec 3) (p : BitVec 2) (s : State) : Out :=
  runWord (.ord o p) s fun c =>
    if c.stack.any fun e => e.last == c.pc then s.illegal c (encode (.ord o p))
    else s.setCur { c with ord := some (o, p), pc := c.pc + 4 }

/-- FENCE (R135, R136). -/
def execFence (o : BitVec 3) (p : BitVec 2) (s : State) : Out :=
  runWord (.fence o p) s fun c =>
    let t := s.cur.toNat
    let ready := p == 0 ||
      (if o = 1 then !(s.reqs.any fun q => q.agent == .ctx t && q.op != .write && q.st != .performed) else !s.outstanding t)
    if ready then s.setCur c.next else s.hold t c .again

/-- AMO of an operation and a size (R138, R139, R141). -/
def amoWord (i : Instr) (op : HomeOp) (d a b : Reg) (n : Nat) (s : State) : Out :=
  runWord i s fun c =>
    let t := s.cur.toNat
    match c.wait with
    | .access id => s.answeredWord t c id
    | _ =>
      let va := c.r a
      s.withPage t c va .store (checkAtomic s t c.asid va n true true) fun e =>
        if releases c.order && !s.released t c.scope then s.hold t c .again
        else if 16 ≤ s.loadsOut t then s.hold t c .again
        else (s.effects t).issue t c
          { mkReq s t op e va n with reg := some d, signed := n == 4, dat := lowBytes n (c.r b), expect := c.r d } (acquires c.order)

/-- The bytes of an AMO's size bit (R41). -/
def amoSize (z : BitVec 1) : Nat := if z = 0 then 4 else 8

/-- AMO.ADD -/
def execAmoAdd (d a b : Reg) (z : BitVec 1) (s : State) : Out := amoWord (.amoAdd d a b z) .add d a b (amoSize z) s
/-- AMO.AND -/
def execAmoAnd (d a b : Reg) (z : BitVec 1) (s : State) : Out := amoWord (.amoAnd d a b z) .and d a b (amoSize z) s
/-- AMO.OR -/
def execAmoOr (d a b : Reg) (z : BitVec 1) (s : State) : Out := amoWord (.amoOr d a b z) .or d a b (amoSize z) s
/-- AMO.XOR -/
def execAmoXor (d a b : Reg) (z : BitVec 1) (s : State) : Out := amoWord (.amoXor d a b z) .xor d a b (amoSize z) s
/-- AMO.MIN -/
def execAmoMin (d a b : Reg) (z : BitVec 1) (s : State) : Out := amoWord (.amoMin d a b z) .min d a b (amoSize z) s
/-- AMO.MAX -/
def execAmoMax (d a b : Reg) (z : BitVec 1) (s : State) : Out := amoWord (.amoMax d a b z) .max d a b (amoSize z) s
/-- AMO.MINN -/
def execAmoMinn (d a b : Reg) (z : BitVec 1) (s : State) : Out := amoWord (.amoMinn d a b z) .minn d a b (amoSize z) s
/-- AMO.MAXN -/
def execAmoMaxn (d a b : Reg) (z : BitVec 1) (s : State) : Out := amoWord (.amoMaxn d a b z) .maxn d a b (amoSize z) s
/-- AMO.SWP -/
def execAmoSwp (d a b : Reg) (z : BitVec 1) (s : State) : Out := amoWord (.amoSwp d a b z) .swp d a b (amoSize z) s
/-- AMO.FADD -/
def execAmoFadd (d a b : Reg) (s : State) : Out := amoWord (.amoFadd d a b) .fadd d a b 4 s
/-- CAS.W (R140) -/
def execCasW (d a b : Reg) (s : State) : Out := amoWord (.casW d a b) .cas d a b 4 s
/-- CAS.D (R140) -/
def execCasD (d a b : Reg) (s : State) : Out := amoWord (.casD d a b) .cas d a b 8 s

/-- WOCLR (R145): the checks, and then sector by sector. -/
def execWoclr (d a b : Reg) (s : State) : Out :=
  runWord (.woclr d a b) s fun c =>
    let t := s.cur.toNat
    let ea := c.r a
    let len := (c.r b).toNat
    match c.wait with
    | .sectors _ _ n _ done stop =>
      if stop then s.setCtx t (c.w d (BitVec.ofNat 64 done)).next
      else if n ≤ done then s.setCtx t (c.w d (BitVec.ofNat 64 done)).next
      else s
    | _ =>
      if ea.toNat % 8 ≠ 0 ∨ len % 8 ≠ 0 then s.trap c 2 0 ea
      else if 2 ^ 20 < len then s.trap c 6 7 (c.r b)
      else if len = 0 then (s.effects t).setCtx t (c.w d 0).next
      else
        let last := ea + BitVec.ofNat 64 (len - 8)
        s.withPage t c ea .store (checkAccess s t c.asid ea 8 .store true) fun e =>
          if e.kind != .writeOnce then s.trap c 4 0 ea
          else s.withPage t c last .store (checkAccess s t c.asid last 8 .store true) fun e' =>
            if e' ≠ e then s.trap c 4 0 last
            else if releases c.order && !s.released t c.scope then s.hold t c .again
            else
              let s := s.effects t
              { s with nextId := s.nextId + 1 }.hold t c (.sectors s.nextId (e.phys ea) len 0 0 false)

/-- One sector of a WOCLR at its home (R145): in program order with the context's other accesses to it (R132). -/
def woclrSector (t : Nat) (s : State) : State :=
  match s.ctxAt t with
  | none => s
  | some c =>
    match c.wait with
    | .sectors id pa len next done stop =>
      if stop || len ≤ done then s
      else
        let lo := pa + done
        let n := min (len - done) (64 - lo % 64)
        let ws := wordsOf lo n
        if s.reqs.any fun q => q.agent.ctx? == some t && q.st == .issued && q.meets lo n && !s.inChannel q then s
        else if s.reqs.any fun q => q.st == .deferred && q.meets lo n then s.setCtx t { c with wait := .sectors id pa len next done true }
        else
          { s with present := s.present.filter fun w => !ws.contains w }.setCtx t
            { c with wait := .sectors id pa len (next + 1) (done + n) false }
    | _ => s

/-- WOCLR_SECTOR_STEP (R145). -/
def execWoclrSectorStep (t : TileId) (s : State) : Out := .next (woclrSector t.toNat s)

/-- WOTEST (R146). -/
def execWotest (d a : Reg) (s : State) : Out :=
  runWord (.wotest d a) s fun c =>
    let t := s.cur.toNat
    let va := c.r a
    s.withPage t c va .load (checkAccess s t c.asid va 1 .load false) fun e =>
      if e.kind != .writeOnce then s.trap c 4 0 va
      else if 16 ≤ s.loadsOut t then s.hold t c .again
      else
        let q := mkReq s t .woTest e va 64
        s.issue t c { q with pa := q.pa / 64 * 64, reg := some d } false

end Sys2Proof.Machine
end

