-- ==== Sys2Proof/Machine/Fetch.lean ====
section
/-! DEFINITION. Fetching a sequencer word (R32, R114, R375), and what becomes of a word that cannot be fetched or is none. -/

namespace Sys2Proof.Machine

open Sys2Proof

/-- The context of tile `t` can issue or wait: it has not stopped, and a root core serves a request (R375). -/
def State.canIssue (s : State) (t : Nat) (c : Ctx) : Bool :=
  !c.halted && (!c.isRoot || (SMap.get? s.roots (tileDie t)).isSome)

/-- The address space of a fetch: a root core's is ASID 0 (R375). -/
def Ctx.fetchAsid (c : Ctx) : BitVec 16 := if c.isRoot then 0 else c.asid

/-- The word at an address inside the code of a region: as it stood at launch (R114). -/
def Region.codeWord (r : Region) (pc : W64) : Option W32 :=
  if r.codeVa.toNat ≤ pc.toNat ∧ pc.toNat + 4 ≤ r.codeVa.toNat + r.code.length then
    some (BitVec.ofNat 32 (leNat ((r.code.drop (pc.toNat - r.codeVa.toNat)).take 4)))
  else none

/-- What a fetch finds. -/
inductive Fetched where
  | trap (code : Nat)
  | miss
  | word (w : W32)
  deriving DecidableEq, Repr

/-- Fetch the word at the program counter of tile `t` (R32): the page must be mapped, with execute permission. A region's fetch observes
no store made since its launch, that of a root core none made since its request entered (R114, log 72). -/
def State.fetch (s : State) (t : Nat) (c : Ctx) : Fetched :=
  match checkAccess s t c.fetchAsid c.pc 4 .fetch false with
  | .trap 4 => .trap 8
  | .trap _ => .trap 7
  | .miss => .miss
  | .ok e =>
    match s.regionOf t with
    | some (_, r) => match r.codeWord c.pc with
      | some w => .word w
      | none => .word (BitVec.ofNat 32 (Memory.nat r.mem0 (e.phys c.pc) 4))
    | none => .word (BitVec.ofNat 32 (Memory.nat (if c.isRoot then c.mem0 else s.mem) (e.phys c.pc) 4))

/-- The fetch fault of a context (R358): csr.epc and csr.tval hold the address fetched; an ORD before that word is kept for the return, so that
the pair stays whole (R40, log 37). -/
def State.fetchFault (s : State) (t : Nat) (c : Ctx) (code : Nat) : State :=
  let s' := s.raise t c code 0 c.pc c.pc
  if c.ord.isSome then s'.updCtx t fun x => { x with eord := c.ord } else s'

/-- INSTRUCTION_FETCH_FAULT (R32, R358): the address of the next word cannot be fetched. -/
def execInstructionFetchFault (t : TileId) (s : State) : Out :=
  .next (match s.ctxAt t.toNat with
    | none => s
    | some c =>
      if !s.canIssue t.toNat c then s
      else match c.wait, s.fetch t.toNat c with
        | .idle, .trap code => s.fetchFault t.toNat c code
        | .fetch _, .trap code => s.fetchFault t.toNat c code
        | _, _ => s)

/-- ILLEGAL_INSTRUCTION (R44, R45): the word at the program counter is no instruction, or none for the context. -/
def execIllegalInstruction (t : TileId) (s : State) : Out :=
  .next (match s.ctxAt t.toNat with
    | none => s
    | some c =>
      if !s.canIssue t.toNat c then s
      else match c.wait, s.fetch t.toNat c with
        | .idle, .word w =>
          let bad := match decode w with
            | .error _ => true
            | .ok i => !(ordOk c.ord i && c.allows i)
          if bad then { s with cur := t }.illegal c w else s
        | _, _ => s)

end Sys2Proof.Machine
end

