-- ==== Sys2Proof/Machine/MemEvents.lean ====
section
/-! DEFINITION. The steps of memory: requests performed and answered (R117, R118, R131, R137, R340), walks of the page tables (R367,
R368). -/

namespace Sys2Proof.Machine

open Sys2Proof

/-- The home writes a write-once word for an ST.D, which therefore does not trap: the effects bit of the pips held is set in that step
(R314). -/
def State.wroteOnce (s : State) (q : Req) (id : Nat) : State :=
  match q.agent, s.req? id with
  | .ctx t, some q' => if q.op == .write && q.kind == .writeOnce && q'.st == .performed && !q'.failed then s.effects t else s
  | _, _ => s

/-- A request arrives at its home. -/
def homeAccess (id : Nat) (s : State) : State :=
  match s.req? id with
  | some q => if q.st == .issued then (homePerform id s).wroteOnce q id else homePerform id s
  | none => s

/-- HOME_ACCESS_PERFORM (R131, R142 to R144). -/
def execHomeAccessPerform (id : Nat) (s : State) : Out := .next (homeAccess id s)

/-- ATOMIC_PERFORM (R137, R139, R140, R262, R268). -/
def execAtomicPerform (id : Nat) (s : State) : Out := .next (atomicPerform id s)

/-- The tile whose error counters a request's events go to (R401). -/
def State.reqTile (s : State) (q : Req) : Nat :=
  match q.agent with
  | .ctx t => t
  | .own t => t
  | .stream t _ _ _ => t
  | .mbld t _ _ => t
  | .copy d i _ _ => match s.slot? d i with
    | some c => c.tile
    | none => rootTile d
  | .lane d k i _ => match s.lane? d k i with
    | some l => l.tile
    | none => rootTile d
  | .gone _ t => t

/-- Count events of a request: those of a slot or of a lane go where its region's do (R401). -/
def State.countReq (s : State) (q : Req) (i n : Nat) : State :=
  match q.agent with
  | .copy d j _ _ => match s.slot? d j with
    | some c => s.countWork c.tile c.region i n
    | none => s.countTile (rootTile d) i n
  | .lane d k j _ => match s.lane? d k j with
    | some l => s.countWork l.tile l.region i n
    | none => s.countTile (rootTile d) i n
  | .gone _ t => s.count (ctrTile t i) n
  | _ => s.countTile (s.reqTile q) i n

/-- A word takes the answer of a sector that it reads for itself (R402). -/
def Ctx.takeOwn (c : Ctx) (q : Req) : Ctx := match c.wait with
  | .idle | .fetch _ => c
  | _ => { c with own := c.own ++ [(q.pa, q.dat)] }

/-- A write of an engine meets an uncorrectable error: it is dropped and counted (R177, R295). -/
def State.writeError (s : State) (q : Req) : State :=
  if q.st == .issued && q.agent.ctx?.isNone then (s.setReq { q with st := .performed, failed := true }).countReq q 2 1 else s

/-- The answer of a read or an atomic arrives (R116 to R118): its register is written; a load that met an uncorrectable error
writes 0 and is counted. An engine's answer stays with the request until the engine takes it. -/
def memoryResponse (id : Nat) (err : Bool) (s : State) : State :=
  match s.req? id with
  | none => s
  | some q =>
    if q.op == .write then (if err then s.writeError q else s)
    else if s.cut q then s
    else if q.st != .performed then s
    else
      let q := if err then { q with dat := q.dat.map fun _ => 0, failed := true } else q
      let s := if err then s.countReq q 2 1 else s
      match q.agent with
      | .ctx t =>
        (s.delReq id).updCtx t fun c => match q.reg with
          | some d => c.w d q.value
          | none => c
      | .own t => (s.delReq id).updCtx t fun c => c.takeOwn q
      | .gone .. => s.delReq id
      | _ => s.setReq q

/-- MEMORY_RESPONSE (R117, R118). -/
def execMemoryResponse (id : Nat) (err : Bool) (s : State) : Out := .next (memoryResponse id err s)

/-- A request is one of a copy slot, whose engine itself takes the acknowledgements of its writes (R258). -/
def Agent.isCopy : Agent → Bool
  | .copy .. => true
  | _ => false

/-- The home acknowledges a store (R117): a posted store is forgotten, an acknowledged one lets its word complete; a rewrite of a
write-once word traps instead (R115 step 6, R144). -/
def storeAcknowledge (id : Nat) (s : State) : State :=
  match s.req? id with
  | none => s
  | some q =>
    if q.op != .write || q.st != .performed || q.agent.isCopy || s.cut q then s
    else
      let s := s.delReq id
      match q.agent with
      | .ctx t =>
        match s.ctxAt t with
        | some c =>
          if q.acked && c.wait == .access id && q.failed then s.raise t c 5 0 q.va c.here else s
        | none => s
      | _ => s

/-- STORE_ACKNOWLEDGE (R117, R136, R144). -/
def execStoreAcknowledge (id : Nat) (s : State) : Out := .next (storeAcknowledge id s)

/-- A request that has had no answer (R340): the answer of an engine's read is taken to arrive as the read is performed. -/
def Req.unanswered (q : Req) : Bool := q.st != .performed || q.agent.ctx?.isSome

/-- A request to host or peer memory is reported lost (R118, R340): retried once, then given up; a load gives 0, a store is
dropped. The retry of a request that its home has performed asks for the answer alone (log 73). Br counts cycles of the island of the tile
whose request it is, also for a loader, a storer, a codec lane or a copy slot (log 96). -/
def remoteLost (id : Nat) (s : State) : State :=
  match s.req? id with
  | none => s
  | some q =>
    let t := s.reqTile q
    if !isRemote q.pa || q.lost || !q.unanswered || (s.cycles (islandOf t)).toNat < q.bornAt.toNat + s.hub.br then s
    else if !q.retried then (s.setReq { q with retried := true, bornAt := s.cycles (islandOf t) }).countReq q 3 1
    else (s.setReq { q with st := .performed, lost := true, failed := q.op != .write, dat := List.replicate (if q.op == .write then 0 else q.n) 0 }).countReq q 3 1

/-- REMOTE_REQUEST_LOST (R118, R340). -/
def execRemoteRequestLost (id : Nat) (s : State) : Out := .next (remoteLost id s)

/-- The walker of a walk (R368): the one that has it, or the lowest of the die's four that is free. -/
def State.walkerFor (s : State) (w : Walk) : Option Nat :=
  match w.walker with
  | some k => some k
  | none => (List.range 4).find? fun k => !s.walks.any fun x => tileDie x.tile == tileDie w.tile && x.walker == some k

/-- One entry of a walk is read at its home (R367), once a walker of the die is free; `cached` says whether the walker keeps a table entry
in its walk cache (R368). -/
def translationWalk (id : Nat) (cached : Bool) (s : State) : State :=
  match s.walks.find? fun w => w.id == id with
  | none => s
  | some w => match (if w.done.isSome then none else s.walkerFor w) with
    | none => s
    | some k =>
      let w := { w with walker := some k }
      let addr := if w.level = 5 then w.table + 8 * w.asid.toNat else w.table + 8 * ptIndex w.va w.level
      let e : W64 := BitVec.ofNat 64 (s.seen.nat addr 8)
      let w' := match s.mapped w.asid w.va with
        | some x => { w with done := some (some x) }
        | none => match readPte w.level w.asid w.va e with
          | .invalid => { w with done := some none }
          | .table pa => { w with level := w.level - 1, table := pa }
          | .leaf x => { w with done := some (if w.level = 5 then none else some x) }
      let s := { s with walks := s.walks.map fun x => if x.id = id then w' else x }
      match readPte w.level w.asid w.va e with
      | .table _ =>
        if cached then
          let d := s.die (tileDie w.tile)
          let l := (w.asid, addr, e) :: (SMap.getD d.wcache k []).filter fun x => x.2.1 != addr
          s.setDie (tileDie w.tile) { d with wcache := SMap.put d.wcache k (l.take 64) }
        else s
      | _ => s

/-- TRANSLATION_WALK (R367). -/
def execTranslationWalk (id : Nat) (cached : Bool) (s : State) : Out := .next (translationWalk id cached s)

/-- The entries of a holder with a new one; a full holder replaces the one that `victim` names (R368). -/
def tlbEnter (cap : Nat) (l : List TlbEnt) (e : TlbEnt) (victim : Nat) : List TlbEnt :=
  if l.contains e then l else if l.length < cap then l ++ [e] else l.eraseIdx (victim % l.length) ++ [e]

/-- A walk ends (R115, R367, R368): the tile caches the translation, or the access that waits for it takes the page trap. A walk that
an invalidation met is not cached (R369); a prefetch caches only what it may use and never traps (R124). -/
def walkComplete (id victim : Nat) (s : State) : State :=
  match s.walks.find? fun w => w.id == id with
  | none => s
  | some w =>
    match w.done with
    | none => s
    | some r =>
      let s := { s with walks := s.walks.filter fun x => x.id != id }
      match r with
      | some e =>
        if w.stale || (w.quiet && !(e.r && e.kind == .normal)) then s
        else s.setTlb w.tile (tlbEnter (tlbCap w.tile) (s.tlbOf w.tile) e victim)
      | none =>
        match s.ctxAt w.tile with
        | none => s
        | some c =>
          if w.quiet || w.stale then s
          else if c.wait = .fetch id then s.fetchFault w.tile c 7
          else if c.wait = .walk id then s.raise w.tile c 3 0 w.va c.here
          else s

/-- WALK_COMPLETE (R115, R368). -/
def execWalkComplete (id victim : Nat) (s : State) : Out := .next (walkComplete id victim s)

end Sys2Proof.Machine
end

