-- ==== Sys2Proof/Machine/Image.lean ====
section
/-! DEFINITION. Configuration images (R163): the CRC-64 signature, the layout, and the checks of CFGLD in the order of R164. -/

namespace Sys2Proof.Machine

open Sys2Proof

/-! ### The signature (R163) -/

/-- One bit of the CRC-64. -/
def crcBit (c : W64) : W64 := if c.msb then (c <<< 1) ^^^ 0x42F0E1EBA9EA3693#64 else c <<< 1
/-- One byte of the CRC-64. -/
def crcByte (c : W64) (b : Byte) : W64 :=
  let c := c ^^^ (b.setWidth 64 <<< 56)
  crcBit (crcBit (crcBit (crcBit (crcBit (crcBit (crcBit (crcBit c)))))))
/-- The CRC-64 of a byte string: initial value 0, no reflection, no final XOR. -/
def crc64 (bs : List Byte) : W64 := bs.foldl crcByte 0
/-- The bytes with those from `lo` on, `n` of them, taken as zero. -/
def blankBytes (bs : List Byte) (lo n : Nat) : List Byte := bs.take lo ++ List.replicate (min n (bs.length - lo)) 0 ++ bs.drop (lo + n)

/-- Word `i` of an image. -/
def imgWord (bs : List Byte) (i : Nat) : W32 := BitVec.ofNat 32 (leNat ((bs.drop (4 * i)).take 4))
/-- Double at byte offset `o`. -/
def imgDouble (bs : List Byte) (o : Nat) : W64 := BitVec.ofNat 64 (leNat ((bs.drop o).take 8))

/-! ### Layout -/

/-- Where the parts of an image begin, as word indexes, and how many entries they have. -/
structure Layout where
  len   : Nat
  mask  : W64
  sites : List Nat
  ves   : List Nat
  ses   : List Nat
  link  : Nat
  nlink : Nat
  vp    : Nat
  nvp   : Nat
  ring  : Nat
  nring : Nat
  cut   : Nat
  ncut  : Nat
  stop  : Nat
  deriving DecidableEq, Repr

/-- The layout that the header gives. -/
def layoutOf (bs : List Byte) : Layout :=
  let mask := imgDouble bs 8
  let sites := (List.range 64).filter fun i => mask.getLsbD i
  let ves := sites.filter isVe
  let ses := sites.filter fun i => !isVe i
  let nlink := bits (imgWord bs 4) 15 0
  let nring := bits (imgWord bs 5) 15 8
  let nvp := bits (imgWord bs 5) 7 0
  let ncut := bits (imgWord bs 6) 7 0
  let link := 16 + 48 * ves.length + 4 * ses.length
  let vp := link + nlink
  let ring := vp + nvp
  let cut := ring + 4 * nring
  ⟨(imgWord bs 1).toNat, mask, sites, ves, ses, link, nlink, vp, nvp, ring, nring, cut, ncut, cut + 2 * ncut⟩

/-- The word index of the block of the `j`-th VE. -/
def Layout.veAt (_ : Layout) (j : Nat) : Nat := 16 + 48 * j
/-- The word index of the block of the `j`-th SE. -/
def Layout.seAt (l : Layout) (j : Nat) : Nat := 16 + 48 * l.ves.length + 4 * j

/-- Words `i` to `i + n - 1`. -/
def imgWords (bs : List Byte) (i n : Nat) : List W32 := (List.range n).map fun k => imgWord bs (i + k)

/-- The configuration of the `j`-th VE. -/
def veOf (bs : List Byte) (l : Layout) (j : Nat) : VeCfg :=
  let b := l.veAt j
  ⟨imgWords bs b 6, imgWords bs (b + 6) 6, (bs.drop (4 * (b + 12))).take 8, imgWords bs (b + 16) 32⟩

/-- The site of link entry `w`. -/
def linkSite (w : W32) : Nat := bits w 21 19 + 8 * bits w 18 16
/-- The switch word of link entry `w`. -/
def linkSwitch (w : W32) : BitVec 16 := w.setWidth 16

/-- The link entries. -/
def Layout.links (l : Layout) (bs : List Byte) : List W32 := imgWords bs l.link l.nlink
/-- The region-port entries. -/
def Layout.vps (l : Layout) (bs : List Byte) : List W32 := imgWords bs l.vp l.nvp

/-- The link key 8 × site + index of a ring entry at word `i`. -/
def ringKey (bs : List Byte) (i : Nat) : Nat :=
  let w := imgWord bs (i + 2)
  8 * (bits w 18 16 + 8 * bits w 21 19) + bits w 10 8
/-- The link key of a cut-edge entry at word `i`. -/
def cutKey (bs : List Byte) (i : Nat) : Nat :=
  let w := imgWord bs i
  8 * (bits w 2 0 + 8 * bits w 5 3) + bits w 8 6

/-- The switch words of each site, in order. -/
def siteLinks (ws : List W32) (site : Nat) : List (BitVec 16) := (ws.filter fun w => linkSite w == site).map linkSwitch

/-- The SE words of the image by site. -/
def seWordOf (bs : List Byte) (l : Layout) (site : Nat) : W32 :=
  match ((List.range l.ses.length).zip l.ses).find? fun x => x.2 == site with
  | some (j, _) => imgWord bs (l.seAt j)
  | none => 0

/-- The preload bytes of the `j`-th SE. -/
def preOf (bs : List Byte) (l : Layout) (j : Nat) : List Byte :=
  let n := bits (imgWord bs (l.seAt j + 1)) 12 0
  (bs.drop (imgWord bs (l.seAt j + 2)).toNat).take (8 * n)

/-- The plane that an image loads (R163). -/
def planeOf (bs : List Byte) (addr : W64) (asid : BitVec 16) : Plane :=
  let l := layoutOf bs
  let ls := l.links bs
  { addr := addr, asid := asid, sig := imgDouble bs 28, mask := l.mask
    ves := ((List.range l.ves.length).zip l.ves).map fun x => (x.2, veOf bs l x.1)
    ses := ((List.range l.ses.length).zip l.ses).map fun x => (x.2, ⟨imgWord bs (l.seAt x.1), preOf bs l x.1⟩)
    links := (l.sites.filter fun i => !(siteLinks ls i).isEmpty).map fun i => (i, siteLinks ls i)
    vps := (l.vps bs).foldl (fun m w => if vpEn w then SMap.put m (bits w 29 24) w else m) []
    rings := (List.range l.nring).foldl (fun m i =>
      SMap.put m (ringKey bs (l.ring + 4 * i)) ⟨imgDouble bs (4 * (l.ring + 4 * i)), bits (imgWord bs (l.ring + 4 * i + 2)) 5 0⟩) []
    cuts := (List.range l.ncut).foldl (fun m i =>
      let w := imgWord bs (l.cut + 2 * i + 1)
      SMap.put m (cutKey bs (l.cut + 2 * i)) ⟨BitVec.ofNat 22 (bits w 21 0), bits w 27 22⟩) [] }

/-! ### The checks (R164) -/

/-- A port word at position `k` of in0 to in3, out0, out1 (R48). -/
def portLegal (k : Nat) (w : W32) : Bool :=
  bits w 28 13 == 0 && bits w 4 0 == 0 &&
    (if bits w 31 31 = 0 then w == 0
     else if k < 4 then bits w 12 5 == 0 && (bits w 30 30 == 0 || k == 0)
     else bits w 30 29 == 0 && bits w 7 5 ≤ 1)

/-- An SE word (R49). -/
def seLegal (w : W32) : Bool :=
  bits w 31 29 ≤ 5 && bits w 24 24 == 0 &&
    (if bits w 31 29 = 0 then w == 0
     else bits w 28 25 != 0 && bits w 23 12 ≤ bits w 11 0 &&
       (List.range 4).all fun i => (seBanks w).contains i || bits w 11 0 < 1024 * i || 1024 * i + 1023 < bits w 23 12)

/-- A switch word (R50). -/
def switchLegal (w : BitVec 16) : Bool := swFrom w != 7 && !(swSpill w && swSlots w == 0)

/-- The checks of a VE block by word index (R46 to R48, R155, R163, R189, R191, R193). -/
def veChecks (bs : List Byte) (l : Layout) (j : Nat) : List (Nat × Bool) :=
  let b := l.veAt j
  let v := veOf bs l j
  ((List.range 6).map fun i => (b + i, stageLegal v.st i && stagesLegal { v with st := v.st.take (i + 1) }))
    ++ ((List.range 6).map fun k => (b + 6 + k, portLegal k (v.pw.getD k 0) &&
        (k != 0 || bits (v.pw.getD 0 0) 30 30 == 0 || ((readSet v).contains 0 && (readSet v).contains 1))))
    ++ [(b + 14, imgWord bs (b + 14) == 0), (b + 15, imgWord bs (b + 15) == 0)]
    ++ ((List.range 32).map fun c => (b + 16 + c, fmtLegal (bits (v.ch.getD c 0) 31 27) && bits (v.ch.getD c 0) 23 0 == 0))

/-- The checks of an SE block. -/
def seChecks (bs : List Byte) (l : Layout) (j : Nat) : List (Nat × Bool) :=
  let b := l.seAt j
  [(b, seLegal (imgWord bs b)), (b + 1, bits (imgWord bs (b + 1)) 31 13 == 0), (b + 3, imgWord bs (b + 3) == 0)]

/-- The VE configuration of a site in the image. -/
def imgVe (bs : List Byte) (l : Layout) (site : Nat) : Option VeCfg :=
  (((List.range l.ves.length).zip l.ves).find? fun x => x.2 == site).map fun x => veOf bs l x.1

/-- A port of a site that a link names is enabled (R164): every port of an SE is. -/
def portOn (bs : List Byte) (l : Layout) (site k : Nat) : Bool :=
  if isVe site then
    match imgVe bs l site with
    | some v => bits (v.pw.getD k 0) 31 31 == 1
    | none => false
  else true

/-- Whether a direction stays in the tile (R158). -/
def inTile (site dir : Nat) : Option Nat :=
  let x := siteSx site
  let y := siteSy site
  match dir with
  | 0 => if y < 7 then some (site + 8) else none
  | 1 => if x < 7 then some (site + 1) else none
  | 2 => if 0 < y then some (site - 8) else none
  | _ => if 0 < x then some (site - 1) else none

/-- The links that carry on from a zero-slot link inside the tile, as pairs of site and switch word. -/
def wireNext (ls : List W32) (w : W32) : List W32 :=
  let s := linkSwitch w
  if swSlots s ≠ 0 ∨ 4 ≤ swTo s then []
  else match inTile (linkSite w) (swTo s) with
    | some n => ls.filter fun x => linkSite x == n && swFrom (linkSwitch x) == opposite (swTo s) && swVc (linkSwitch x) == swVc s
        && swSlots (linkSwitch x) == 0
    | none => []

/-- Links reached over zero-slot links in at most `n` rounds. -/
def wireReach (ls : List W32) : Nat → List W32 → List W32
  | 0, xs => xs
  | n + 1, xs =>
    let ys := (xs.flatMap (wireNext ls)).filter fun x => !xs.contains x
    if ys.isEmpty then xs else wireReach ls n (xs ++ ys.eraseDups)

/-- A zero-slot link lies on a cycle of zero-slot links (R50). -/
def wireCycle (ls : List W32) (w : W32) : Bool :=
  swSlots (linkSwitch w) == 0 && (wireReach ls ls.length (wireNext ls w)).contains w

/-- The checks of a link entry. -/
def linkChecks (bs : List Byte) (l : Layout) (i : Nat) : List (Nat × Bool) :=
  let ls := l.links bs
  let w := ls.getD i 0
  let s := linkSwitch w
  let site := linkSite w
  let apart := (ls.take (i - 1)).any (fun x => linkSite x == site) && i != 0 && linkSite (ls.getD (i - 1) 0) != site
  let target := if 4 ≤ swTo s then portOn bs l site (swTo s - 4) else match inTile site (swTo s) with
    | some n => l.sites.contains n
    | none => true
  let source := if swFrom s = 4 then portOn bs l site 4 else if swFrom s = 5 then portOn bs l site 5 else true
  [(l.link + i, bits w 31 22 == 0 && switchLegal s && l.sites.contains site && !apart && target && source && !wireCycle ls w)]

/-- The checks of a region-port entry. The bits that only the other direction uses (port, vc) are named neither zero nor rsv by R163 and are
not looked at. -/
def vpChecks (bs : List Byte) (l : Layout) (i : Nat) : List (Nat × Bool) :=
  let w := imgWord bs (l.vp + i)
  let ok := bits w 16 5 == 0
  let out := !vpEn w || !vpOut w || (isVe (vpSite w) && portOn bs l (vpSite w) (4 + vpPort w))
  [(l.vp + i, ok && out)]

/-- The switch word of a link key. -/
def linkOfKey (bs : List Byte) (l : Layout) (k : Nat) : Option (BitVec 16) := (siteLinks (l.links bs) (k / 8))[k % 8]?

/-- The checks of a ring entry. -/
def ringChecks (bs : List Byte) (l : Layout) (i : Nat) : List (Nat × Bool) :=
  let b := l.ring + 4 * i
  let w := imgWord bs (b + 2)
  let lg := bits w 5 0
  [(b, lg < 12 || 24 < lg || (imgDouble bs (4 * b)).toNat % 2 ^ lg == 0),
   (b + 2, bits w 7 6 == 0 && bits w 15 11 == 0 && bits w 31 22 == 0 && (match linkOfKey bs l (ringKey bs b) with
      | some s => swSpill s
      | none => false)),
   (b + 3, imgWord bs (b + 3) == 0)]

/-- The checks of a cut-edge entry. -/
def cutChecks (bs : List Byte) (l : Layout) (i : Nat) : List (Nat × Bool) :=
  let b := l.cut + 2 * i
  [(b, bits (imgWord bs b) 31 9 == 0 && (match linkOfKey bs l (cutKey bs b) with
      | some s => swSlots s != 0
      | none => false)),
   (b + 1, bits (imgWord bs (b + 1)) 31 28 == 0)]

/-- The first failing word of a list of checks. -/
def firstBad (cs : List (Nat × Bool)) : Option Nat := (cs.find? fun c => !c.2).map (·.1)

/-- Code 3: the first word that is rejected. -/
def badWord (bs : List Byte) (l : Layout) : Option Nat :=
  firstBad (((List.range l.ves.length).flatMap (veChecks bs l)) ++ ((List.range l.ses.length).flatMap (seChecks bs l))
    ++ ((List.range l.nlink).flatMap (linkChecks bs l)) ++ ((List.range l.nvp).flatMap (vpChecks bs l))
    ++ ((List.range l.nring).flatMap (ringChecks bs l)) ++ ((List.range l.ncut).flatMap (cutChecks bs l)))

/-- Code 5: a direction that leaves the region without a cut edge, or a cut edge to no user tile. -/
def badPlace (bs : List Byte) (l : Layout) (inRegion : Nat → Bool) (t : Nat) : Option Nat :=
  let ls := l.links bs
  let cuts := (List.range l.ncut).map fun i => cutKey bs (l.cut + 2 * i)
  let key (i : Nat) : Nat :=
    8 * linkSite (ls.getD i 0) + ((ls.take i).filter fun x => linkSite x == linkSite (ls.getD i 0)).length
  firstBad (((List.range l.nlink).map fun i =>
      let w := ls.getD i 0
      let s := linkSwitch w
      (l.link + i, 4 ≤ swTo s || (inTile (linkSite w) (swTo s)).isSome || cuts.contains (key i) ||
        (match neighbour t (linkSite w) (swTo s) with
         | some (u, _) => inRegion u
         | none => false)))
    ++ (List.range l.ncut).map fun i =>
      (l.cut + 2 * i + 1, isUserTile (bits (imgWord bs (l.cut + 2 * i + 1)) 21 0 % 1024)))

/-- A value occurs before position `i` of a list. -/
def seenBefore (xs : List Nat) (i : Nat) : Bool := (xs.take i).contains (xs.getD i 0)

/-- Code 6: capacity. That two identical link words of one site are 'a link with two entries' is the model's choice (log 82), and so is that a
preload in the block of an SE in mode off is refused, one unit of it too (log 97). -/
def badCapacity (bs : List Byte) (l : Layout) : Option Nat :=
  let ls := l.links bs
  let vs := l.vps bs
  let rk := (List.range l.nring).map fun i => ringKey bs (l.ring + 4 * i)
  let ck := (List.range l.ncut).map fun i => cutKey bs (l.cut + 2 * i)
  let vn := vs.map fun w => bits w 29 24
  firstBad (((List.range l.ses.length).map fun j =>
      let b := l.seAt j
      let n := bits (imgWord bs (b + 1)) 12 0
      let o := (imgWord bs (b + 2)).toNat
      let w := imgWord bs b
      (b + 2, n == 0 || (o % 8 == 0 && o + 8 * n ≤ l.len && bits w 31 29 != 0 && bits w 23 12 + n ≤ bits w 11 0 + 1)))
    ++ ((List.range l.nlink).map fun i => (l.link + i, ((ls.take i).filter fun x => linkSite x == linkSite (ls.getD i 0)).length < 8
        && !(ls.take i).contains (ls.getD i 0)))
    ++ ((List.range l.nvp).map fun i => (l.vp + i, i < 64 && !seenBefore vn i &&
        (let w := vs.getD i 0
         !vpEn w || !vpOut w || !(ls.any fun x => linkSite x == vpSite w && swFrom (linkSwitch x) == 4 + vpPort w))))
    ++ ((List.range l.nring).map fun i =>
        (l.ring + 4 * i + 2, 12 ≤ bits (imgWord bs (l.ring + 4 * i + 2)) 5 0 && bits (imgWord bs (l.ring + 4 * i + 2)) 5 0 ≤ 24
          && !seenBefore rk i))
    ++ (List.range l.ncut).map fun i => (l.cut + 2 * i, !seenBefore ck i))

/-- The header is legal (code 1). -/
def headerLegal (bs : List Byte) : Bool :=
  let l := layoutOf bs
  imgWord bs 0 == 0x4B434647 && l.len % 64 == 0 && 64 ≤ l.len && l.len ≤ 16384
    && bits (imgWord bs 4) 31 16 == 0 && bits (imgWord bs 5) 31 16 == 0 && bits (imgWord bs 6) 31 8 == 0
    && ((List.range 7).all fun i => imgWord bs (9 + i) == 0) && 4 * l.stop ≤ l.len

/-- The status of an image as code and detail (R164): `busy` is code 4's condition. `bs` are the bytes of its length. -/
def imageStatus (bs : List Byte) (busy : Bool) (inRegion : Nat → Bool) (t : Nat) : Nat × Nat :=
  let l := layoutOf bs
  if !headerLegal bs then (1, 0)
  else if crc64 (blankBytes bs 28 8) ≠ imgDouble bs 28 then (2, 0)
  else match badWord bs l with
    | some i => (3, i)
    | none =>
      if busy then (4, 0)
      else match badPlace bs l inRegion t with
        | some i => (5, i)
        | none => match badCapacity bs l with
          | some i => (6, i)
          | none => (0, 0)

end Sys2Proof.Machine
end

