-- ==== Sys2Proof/Machine/Configuration.lean ====
section
/-! DEFINITION. Loading, arming and swapping configurations (R165 to R168, R173 to R175), bank tokens (R157, R182), and the drain of
an old plane (R167). -/

namespace Sys2Proof.Machine

open Sys2Proof

/-- The shadow plane of a tile: the one whose sites are being filled, or the complete one. -/
def Tile.shadow (t : Tile) : Option Plane := match t.plane (!t.epoch) with
  | some p => some p
  | none => t.loading

/-- The shadow plane is loaded and not yet swapped, or a swap is in progress (R164 code 4). -/
def Tile.busy (t : Tile) : Bool := t.swapping || t.shadow.isSome

/-- Whether a tile stands in the region of tile `t`. -/
def State.inRegionOf (s : State) (t u : Nat) : Bool := match s.regionOf t with
  | some (_, r) => r.tiles.contains u
  | none => false

/-- All that the links and the router ingress of a tile hold, and its decoders owe, stands ahead of the config tokens on their way. -/
def Tile.markAll (x : Tile) : Tile :=
  let x := { x with inq := x.inq.map fun y => { y with ahead := true }, xe8 := x.xe8.map fun y => (y.1, y.2.mark true) }
  (List.range 512).foldl (fun (x : Tile) k => if x.linkFill (k / 8) (k % 8) = 0 then x else x.markLink (k / 8) (k % 8)) x

/-- What the links and the ingresses of the region's tiles hold stands ahead of the config tokens that a load of a tile injects (R165,
R173). -/
def State.markAhead (s : State) (t : Nat) : State :=
  { s with tiles := s.tiles.map fun (u, x) => (u, if x.region = (s.tile t).region then x.markAll else x) }

/-- Where a token of a destination goes on to: over the hop of a link, or over a cut edge to the router at its far end (R158, R161). -/
def State.onward (s : State) (x : Tok) : Dest → List Dest
  | .link t site li _ => match s.hop t site li x with
    | some (.go ds) => ds
    | some (.cut c) =>
      if bits64 (BitVec.ofNat 64 c.tile.toNat) 21 10 = s.hub.pkg.toNat then s.dests (c.tile.toNat % 1024) c.site 6 x else []
    | none => []
  | _ => []

/-- All that a token of some destinations comes to: `fuel` hops at most, each place once. -/
def State.reach (s : State) (x : Tok) : Nat → List Dest → List Dest → List Dest
  | 0, _, seen => seen
  | fuel + 1, front, seen =>
    let new := (front.flatMap (s.onward x)).eraseDups.filter fun d => !seen.contains d
    if new.isEmpty then seen else State.reach s x fuel new (seen ++ new)

/-- A token that goes into some destinations is bound for an input of a site. -/
def State.comesTo (s : State) (t site : Nat) (x : Tok) (ds : List Dest) : Bool := (s.reach x wireFuel ds ds).any fun d => match d with
  | .input t' site' _ => t' == t && site' == site
  | _ => false

/-- Tokens of link `li` are bound for another site (R158, R173): in the plane of either epoch that has the link. -/
def State.boundFor (s : State) (t site u site' li : Nat) : Bool := [false, true].any fun ep =>
  match ((s.tile u).plane ep).bind fun p => p.link site' li with
  | some w =>
    let x : Tok := ⟨mkHdr 0 0 0 (swVc w), ep, lanesOf fun _ => 0⟩
    swTo w < 4 && s.comesTo t site x (s.onward x (.link u site' li (swSlots w)))
  | none => false

/-- What the decoder of a region port of tile `u` injects (R67) is bound for a site. -/
def State.portFor (s : State) (t site u vp : Nat) : Bool := match (s.tile u).port? vp with
  | some (w, ep) =>
    let x : Tok := ⟨mkHdr 0 0 0 (vpVc w), ep, lanesOf fun _ => 0⟩
    (u == t && vpSite w == site) || s.comesTo t site x (s.dests u (vpSite w) 6 x)
  | none => false

/-- A token at the ingress of tile `u` is bound for a site: it is for that router, or its links lead there. -/
def State.inFor (s : State) (t site u : Nat) (y : InTok) : Bool := match y.xe8 with
  | none => (u == t && y.site == site) || s.comesTo t site y.tok (s.dests u y.site 6 y.tok)
  | some v => s.portFor t site u (v % 64)

/-- A token bound for a site stands ahead of the config tokens for it: at a router ingress of the region, owed by a decoder, or in a link on
the way (R165, R173). -/
def State.aheadOf (s : State) (t site : Nat) : Bool :=
  s.tiles.any fun (u, x) => x.region = (s.tile t).region && ((x.inq.any fun y => y.ahead && s.inFor t site u y) ||
    (x.xe8.any fun (vp, d) => 0 < d.ahead && s.portFor t site u vp) ||
    x.bufs.any fun (k, b) => 256 ≤ k && k < 768 && 0 < b.ahead && s.boundFor t site u ((k - 256) / 8) ((k - 256) % 8))

/-- CFGLD (R163, R164, R173): the image is read, checked, and where it is accepted its config tokens go to the routers. -/
def execCfgld (d a : Reg) (s : State) : Out :=
  runWord (.cfgld d a) s fun c =>
    let t := s.cur.toNat
    let va := c.r a
    let finish (st : Nat × Nat) (s : State) : State :=
      let s := if st.1 = 0 then s else s.countTile t 7 1
      s.setCtx t (c.w d (packBits [(0, st.1), (16, st.2)])).next
    if va.toNat % 64 ≠ 0 then s.trap c 2 0 va
    else s.readOwn t c va 64 fun h =>
      let len := (imgWord h 1).toNat
      if imgWord h 0 ≠ 0x4B434647 ∨ len % 64 ≠ 0 ∨ len < 64 ∨ 16384 < len then finish (1, 0) s
      else s.readOwn t c va len fun bs =>
        let st := imageStatus bs (s.tile t).busy (s.inRegionOf t) t
        if st.1 = 0 then finish st ((s.updTile t fun x => { x with loading := some (planeOf bs va c.asid), arrived := [] }).markAhead t)
        else finish st s

/-- The config tokens of a site have all arrived behind the tokens bound for it (R165). -/
def configArrive (t site : Nat) (s : State) : State :=
  let tl := s.tile t
  match tl.loading with
  | none => s
  | some p =>
    if tl.frozen || 64 ≤ site || tl.arrived.contains site || s.aheadOf t site then s
    else
      let a := insRising tl.arrived site
      if 64 ≤ a.length then s.setTile t { tl.setPlane (!tl.epoch) (some p) with loading := none, arrived := [] }
      else s.setTile t { tl with arrived := a }

/-- CONFIG_TOKEN_ARRIVE (R165). -/
def execConfigTokenArrive (t : TileId) (site : Nat) (s : State) : Out := .next (configArrive t.toNat site s)

/-- CFGGO arms the sites of the tile (R174). -/
def arm (i : Instr) (strict : Bool) (s : State) : Out :=
  runWord i s fun c =>
    let t := s.cur.toNat
    let tl := s.tile t
    if tl.shadow.isNone || tl.swapping then s.trap c 6 6 0
    else (s.setTile t { tl with swapping := true, strict := strict, flipped := [] }).setCtx t c.next

/-- CFGGO. -/
def execCfggo (s : State) : Out := arm .cfggo false s
/-- CFGGO.S. -/
def execCfggoS (s : State) : Out := arm .cfggoS true s

/-- The site holds its complete shadow plane (R165). -/
def Tile.siteReady (t : Tile) (site : Nat) : Bool := t.loading.isNone || t.arrived.contains site

/-- The site has passed EOS in its active plane, once armed (R165). -/
def Tile.passedEos (t : Tile) (site : Nat) : Bool :=
  if isVe site then
    (t.ve site).eos || match t.veCfg site with
      | some v => (List.range 4).all fun k => bits (v.pw.getD k 0) 31 31 == 0
      | none => true
  else
    (t.se site).eos || t.seMode site == 0 || match t.at site with
      | some p => !((p.linksOf site).any fun w => swTo w == 4)
      | none => true

/-- Where a stray token stands at a site about to swap (R166): queue 0 to 3, or 4 plus a link into an own input port. What an SE's FIFO holds
stands in the queue of I0, behind which its capacity lies (R156). -/
def Tile.strayAt (t : Tile) (site : Nat) : Option (Nat × Tok) :=
  let old := t.epoch
  let held (k : Nat) : List Tok := (if k = 0 then (t.se site).fifo else []) ++ t.queue site k
  let qs := (List.range 4).filterMap fun k => ((held k).find? fun x => x.ep == old).map fun x => (k, x)
  let ls := (List.range 8).filterMap fun li =>
    match (t.plane old).bind fun p => p.link site li with
    | some w => if 4 ≤ swTo w then ((t.buf (lKey site li)).toks.find? fun x => x.ep == old).map fun x => (4 + li, x) else none
    | none => none
  (qs ++ ls).head?

/-- Remove the stray tokens of an SE's FIFO, with their number (R156, R166). -/
def Tile.dropFifo (t : Tile) (site : Nat) : Tile × Nat :=
  let e := t.se site
  let keep := e.fifo.filter fun x => x.ep != t.epoch
  if e.fifo = keep then (t, 0) else (t.setSe site { e with fifo := keep }, e.fifo.length - keep.length)

/-- Remove the stray tokens of a site, with their number (R166). -/
def Tile.dropStrays (t : Tile) (site : Nat) : Tile × Nat :=
  let old := t.epoch
  let keys := (List.range 4).map (qKey site) ++ ((List.range 8).filter fun li =>
    match (t.plane old).bind fun p => p.link site li with
    | some w => 4 ≤ swTo w
    | none => false).map (lKey site)
  keys.foldl (fun (acc : Tile × Nat) k =>
    let b := acc.1.buf k
    let keep := b.toks.filter fun x => x.ep != old
    let n := b.toks.length - keep.length
    if n = 0 then acc
    else (acc.1.setBuf k { b with toks := keep, ret := b.ret + n, ahead := ((b.toks.take b.ahead).filter fun x => x.ep != old).length + (b.ahead - b.toks.length) }, acc.2 + n))
    (t.dropFifo site)

/-- The reset value of stage state (R191, R201): lane 0 of a SCAN is the sum identity of its type. -/
def stageReset (w : W32) : Lanes :=
  if bits w 31 26 = 0x24 then lanesOf fun j => if j = 0 then sumId (bits w 14 12) else 0 else lanesOf fun _ => 0

/-- The reset value of accumulator `k` under a new plane (R191). -/
def accReset (v : Option VeCfg) (k : Nat) : Lanes :=
  match v.bind fun v => v.st.find? fun w => bits w 31 26 == 0x27 && bits w 0 0 == k with
  | some w => lanesOf fun _ => sumId (bits w 14 12)
  | none => lanesOf fun _ => 0

/-- A VE at its swap (R191, R193): accumulators, stage state and the intersection unit reset; flags and firings in flight stay. -/
def Ve.swap (v : Ve) (cfg : Option VeCfg) : Ve :=
  { v with
    acc0 := accReset cfg 0, acc1 := accReset cfg 1
    st := (List.range 6).map fun i => stageReset (match cfg with
      | some c => c.st.getD i 0
      | none => 0)
    touched := [0, 0, 0, 0, 0, 0]
    lastA := none, lastB := none, skipA := false, skipB := false, pairs := [], pairHdrA := [], pairHdrB := [], eos := false }

/-- An SE at its swap (R157, R163, R279): its banks move, its preload is written, its warp reference store is not set up; features of a request
that is answered are still due (R18, R281). -/
def Tile.swapSe (t : Tile) (site : Nat) (p : Plane) : Tile :=
  let (w, pre) : W32 × List Byte := match SMap.get? p.ses site with
    | some c => (c.word, c.pre)
    | none => (0, [])
  let t := (t.swapBanks site w).seWrite (seBase site + seLo w) pre
  let e := t.se site
  t.setSe site { e with eos := false, on := false, fill := 0, done1 := false, done2 := false }

/-- The region ports that a plane declares at a site. -/
def Plane.portsAt (p : Plane) (site : Nat) : List (Nat × W32) := p.vps.filter fun (_, w) => vpSite w == site

/-- A port keeps its declaration from plane to plane (R230, R245): an out port of the same site and output port, an in port. -/
def keepsPort (new : Plane) (vp : Nat) (w : W32) : Bool :=
  match SMap.get? new.vps vp with
  | some x => if vpOut w then vpOut x && vpSite x == vpSite w && vpPort x == vpPort w else !vpOut x
  | none => false

/-- A slot is detached from a port that lost its declaration (R261). -/
def CSlot.detach (c : CSlot) (vp : Nat) (out : Bool) : CSlot :=
  if out then { c with detFvp := c.detFvp || (c.fe && c.fvp == vp) } else { c with detVp := c.detVp || (c.dk && c.vp == vp) }

/-- A Spout lane loses a port, which it reads like an armed array its ivp (R287, R245): it is stopped and freed, and the leaf that it has
half taken and the writes that it still owes are dropped and counted (log 52). -/
def State.dropSpouts (s : State) (t vp : Nat) : State :=
  (s.die (tileDie t)).spout.foldl (fun (s : State) x =>
    if x.2.tile = t ∧ x.2.region = (s.tile t).region ∧ x.2.spoutPorts.contains vp then
      (s.countWork t x.2.region 11 (x.2.out.length + b1 (!x.2.toks.isEmpty))).stopLane (tileDie t) true x.1
    else s) s

/-- A port loses its declaration at a swap: what the old plane has in the queue of an out port is dropped as stray (R230), the rill array is disarmed (R245), a Spout
lane is stopped, copy slots are detached, with what they then drop (R261). -/
def State.losePort (s : State) (t vp : Nat) (w : W32) : State :=
  let tl := s.tile t
  let b := tl.buf (vKey vp)
  let keep := b.toks.filter fun x => x.ep != tl.epoch
  let n := b.toks.length - keep.length
  let s := if vpOut w ∧ n ≠ 0 then (s.setTile t (tl.setBuf (vKey vp) { b with toks := keep, ret := 0 })).strays t n else s
  let r := (s.tile t).rill
  let s := if r.run && (if vpOut w then r.ivp == vp else r.ovp == vp) then s.disarm t else s
  let s := if vpOut w then s.dropSpouts t vp else s
  let d := s.die (tileDie t)
  s.setDie (tileDie t) { d with slots := d.slots.map fun x => (x.1, if x.2.tile = t ∧ x.2.region = tl.region then x.2.detach vp (vpOut w) else x.2) }

/-- A site swaps planes (R157, R163, R165, R166). The ended bit of its ports (R180) clears, with an EOS still in a kept queue too, which is the
model's choice (log 46). -/
def siteSwap (t site : Nat) (s : State) : State :=
  let tl := s.tile t
  match tl.shadow with
  | none => s
  | some p =>
    if 64 ≤ site || !tl.swapping || tl.frozen || tl.flipped.contains site || !tl.siteReady site || !tl.passedEos site then s
    else match tl.strict, tl.strayAt site with
      | true, some (k, x) => s.strayFault t site k x
      | _, _ =>
        let old := tl.plane tl.epoch
        let (tl, n) := tl.dropStrays site
        let tl := tl.setPlane (!tl.epoch) (some p)
        let tl := { tl with flipped := insRising tl.flipped site }
        let tl := if isVe site then tl.setVe site ((tl.ve site).swap (SMap.get? p.ves site)) else tl.swapSe site p
        let gone := match old with
          | some o => o.portsAt site
          | none => []
        let tl := { tl with held := tl.held.filter fun v => !(gone.any fun x => x.1 == v) }
        let s := (s.setTile t tl).strays t n
        let s := gone.foldl (fun (s : State) (x : Nat × W32) => if keepsPort p x.1 x.2 then s else s.losePort t x.1 x.2) s
        s.moved t

/-- SITE_SWAP (R165). -/
def execSiteSwap (t : TileId) (site : Nat) (s : State) : Out := .next (siteSwap t.toNat site s)

/-- No token of the old epoch remains in any buffer, region port or ring of the tile (R167). -/
def Tile.drained (t : Tile) : Bool :=
  (t.bufs.all fun (_, b) => b.toks.all fun x => x.ep != t.epoch) && (t.inq.all fun x => x.tok.ep != t.epoch)
    && (t.ves.all fun (_, v) => v.pipe.all fun f => f.ep != t.epoch)
    && (t.ses.all fun (_, e) => (e.fifo ++ e.outq).all fun x => x.ep != t.epoch)
    && match t.plane t.epoch with
      | some p => p.rings.all fun (k, _) => (t.ringHt (k / 8) (k % 8) t.epoch).1 == (t.ringHt (k / 8) (k % 8) t.epoch).2
      | none => true

/-- The memory of a drained ring has undefined contents (R150, log 7): free bytes, page by page where it is mapped. -/
def State.freeRing (s : State) (asid : BitVec 16) (r : RingCfg) : State :=
  (List.range (2 ^ r.lg / 4096)).foldl (fun (s : State) i =>
    match walkTables s asid (r.base + BitVec.ofNat 64 (4096 * i)) with
    | some e =>
      let bs := (List.range 4096).map fun j => Config.freeByte (s.free + j)
      (s.store (e.phys (r.base + BitVec.ofNat 64 (4096 * i))) bs).draw 4096
    | none => s) s

/-- The old plane of a tile is drained (R167): the new one is the active plane, and the old rings are ordinary memory; the windows of its cut
edges go with it (R161). -/
def planeDrained (t : Nat) (s : State) : State :=
  let tl := s.tile t
  if tl.frozen || !tl.swapping || tl.flipped.length < 64 || !tl.drained then s
  else
    let s := match tl.plane tl.epoch with
      | some p => p.rings.foldl (fun (s : State) (x : Nat × RingCfg) => s.freeRing p.asid x.2) s
      | none => s
    s.updTile t fun tl => { tl.setPlane tl.epoch none with
      epoch := !tl.epoch, flipped := [], swapping := false, strict := false
      ringHT := tl.ringHT.filter fun x => decide (512 ≤ x.1) != tl.epoch
      windows := tl.windows.filter fun x => decide (512 ≤ x.1) != tl.epoch }

/-- PLANE_DRAINED (R167). -/
def execPlaneDrained (t : TileId) (s : State) : Out := .next (planeDrained t.toNat s)

/-- A context that waits in a word whose tile is frozen stays in that wait (R356). -/
def State.stays (s : State) (t : Nat) (c : Ctx) : Bool := (s.tile t).frozen && c.wait == .again

/-- CFGWAIT: the wait is over; the stray counter is read and cleared (R175). -/
def cfgWait (i : Instr) (d : Reg) (done : Tile → Bool) (s : State) : Out :=
  runWord i s fun c =>
    let t := s.cur.toNat
    let tl := s.tile t
    if done tl && !s.stays t c then (s.setTile t { tl with stray := 0 }).setCtx t (c.w d (tl.stray.setWidth 64)).next
    else s.hold t c .again

/-- CFGWAIT.LD. -/
def execCfgwaitLd (d : Reg) (s : State) : Out := cfgWait (.cfgwaitLd d) d (fun tl => tl.loading.isNone) s
/-- CFGWAIT.GO. -/
def execCfgwaitGo (d : Reg) (s : State) : Out := cfgWait (.cfgwaitGo d) d (fun tl => !tl.swapping) s

/-- The signature of a plane; 0 where it is empty (R173). -/
def sigOf (p : Option Plane) : W64 := match p with
  | some p => p.sig
  | none => 0

/-- CFGSIG.A. -/
def execCfgsigA (d : Reg) (s : State) : Out :=
  alu (.cfgsigA d) d s fun _ => sigOf ((s.tile s.cur.toNat).plane (s.tile s.cur.toNat).epoch)
/-- CFGSIG.SH. -/
def execCfgsigSh (d : Reg) (s : State) : Out := alu (.cfgsigSh d) d s fun _ => sigOf (s.tile s.cur.toNat).shadow

/-! ### Bank tokens (R157, R182) -/

/-- The bank of a BKTOK operand, or the page trap (R182). -/
def bankWord (i : Instr) (a : Reg) (s : State) (f : Ctx → Nat → State) : Out :=
  runWord i s fun c => if 2 ^ 20 ≤ (c.r a).toNat then s.trap c 3 0 (c.r a) else f c (bankOf (c.r a).toNat)

/-- BKTOK.TAKE: granted at once, or it waits for the grant. -/
def execBktokTake (d a : Reg) (s : State) : Out :=
  bankWord (.bktokTake d a) a s fun c b =>
    let t := s.cur.toNat
    if (s.tile t).takable b && !s.stays t c then (s.updTile t fun x => x.grant b).setCtx t (c.w d 0).next
    else s.hold t c .again

/-- BKTOK.GIVE. -/
def execBktokGive (d a : Reg) (s : State) : Out :=
  bankWord (.bktokGive d a) a s fun c b =>
    let t := s.cur.toNat
    let r := (s.tile t).give b
    (if r.2 then s.setTile t r.1 else s).setCtx t (c.w d (flag (!r.2))).next

/-- BKTOK.QUERY. -/
def execBktokQuery (d a : Reg) (s : State) : Out :=
  bankWord (.bktokQuery d a) a s fun c b =>
    s.setCur (c.w d (BitVec.ofNat 64 (SMap.getD (s.tile s.cur.toNat).banks b 0))).next

/-- A waiting TAKE is granted (R157). -/
def bankGrant (t : Nat) (s : State) : State :=
  match s.ctxAt t with
  | none => s
  | some c =>
    match c.wait, decode c.word with
    | .again, .ok (.bktokTake d a) =>
      let b := bankOf (c.r a).toNat
      if (s.tile t).takable b && !s.stays t c then (s.updTile t fun x => x.grant b).setCtx t (c.w d 0).next else s
    | _, _ => s

/-- BKTOK_GRANT (R157). -/
def execBktokGrant (t : TileId) (s : State) : Out := .next (bankGrant t.toNat s)

end Sys2Proof.Machine
end

