-- ==== Sys2Proof/Machine/Streams.lean ====
section
/-! DEFINITION. Region ports and memory streams: STRM and the steps of loaders and storers (R147, R148, R169, R170, R177), the words
that inject and read tokens (R178 to R180), accumulator reads (R181) and DRAIN (R183). -/

namespace Sys2Proof.Machine

open Sys2Proof

/-! ### Stream descriptors (R170) -/

/-- base -/
def Strm.base (b : Strm) : W64 := b.desc.getD 0 0
/-- count -/
def Strm.count (b : Strm) : Nat := bits64 (b.desc.getD 1 0) 31 0
/-- stride -/
def Strm.stride (b : Strm) : Int := sextNat 32 (bits64 (b.desc.getD 1 0) 63 32)
/-- bpt -/
def Strm.bpt (b : Strm) : Nat := bits64 (b.desc.getD 2 0) 6 0
/-- edge -/
def Strm.edge (b : Strm) : Nat := bits64 (b.desc.getD 2 0) 11 8
/-- seg -/
def Strm.seg (b : Strm) : Bool := bits64 (b.desc.getD 2 0) 16 16 == 1
/-- eos -/
def Strm.eos (b : Strm) : Bool := bits64 (b.desc.getD 2 0) 17 17 == 1
/-- wo -/
def Strm.wo (b : Strm) : Bool := bits64 (b.desc.getD 2 0) 18 18 == 1
/-- xe8 -/
def Strm.xe8 (b : Strm) : Bool := bits64 (b.desc.getD 2 0) 19 19 == 1
/-- The address of token `k`. -/
def Strm.addr (b : Strm) (k : Nat) : W64 := b.base + BitVec.ofInt 64 (b.stride * k)

/-- Every field is in range under R170. -/
def Strm.legal (b : Strm) : Bool :=
  let d2 := b.desc.getD 2 0
  b.count != 0 && bits64 d2 63 20 == 0 && bits64 d2 15 12 == 0 && bits64 d2 7 7 == 0 && b.desc.getD 3 0 == 0 && b.edge ≤ 9
    && (!b.out || (!b.seg && !b.eos && !b.xe8))
    && (if b.xe8 then b.stride == 0 && b.bpt == 0 && !b.wo else 4 ≤ b.bpt && b.bpt ≤ 64 && b.bpt % 4 == 0)

/-- The four doubles of a descriptor of 32 bytes. -/
def doublesOf (n : Nat) (bs : List Byte) : List W64 := (List.range n).map fun i => imgDouble bs (8 * i)

/-- An out port whose stream a BIND command began, and whose EOS has not come, takes no other stream: that EOS completes the command
(R335, log 38). -/
def Tile.holdsBind (t : Tile) (vp : Nat) : Bool := match SMap.get? t.ports vp with
  | some b => b.out && b.cmd.isSome && !b.eosIn
  | none => false

/-- Checks 3 to 6 of R177 for a stream at port `vp` of tile `t`, and the binding: the status. -/
def State.bindPort (s : State) (t vp : Nat) (desc : List W64) (asid : BitVec 16) (cmd : Option (Nat × W32 × W32)) : State × Nat :=
  let tl := s.tile t
  match tl.port? vp with
  | none => (s, 9)
  | some (w, _) =>
    let b : Strm := { out := vpOut w, desc := desc, asid := asid, cmd := cmd }
    if tl.holdsBind vp || tl.bound vp || (vpOut w && !(tl.buf (vKey vp)).toks.isEmpty) then (s, 8)
    else if !b.legal then (s, 7)
    else (s.setTile t { tl with ports := SMap.put tl.ports vp { b with xleft := b.count } }, 0)

/-- A segment-opening word (R337): while a pre-emption request is latched and the segment is closed, it stalls (R338). `f` gets the context
with its segment open; a word that traps opens none (R357). -/
def State.opening (s : State) (t : Nat) (c : Ctx) (f : Ctx → State) : State :=
  if !c.segOpen && s.latched t then s.hold t c .again else f { c with segOpen := true }

/-- A word of context `was` that has trapped as it issued leaves the segment as it was (R337, R357). -/
def Ctx.reclose (was c : Ctx) : Ctx := if c.awaiting && !was.awaiting then { c with segOpen := was.segOpen } else c

/-- STRM (R177): a release at DIE scope (R147), then the checks in their order. -/
def execStrm (d a : Reg) (n : BitVec 6) (s : State) : Out :=
  runWord (.strm d a n) s fun c =>
    let t := s.cur.toNat
    let va := c.r a
    s.opening t c fun c' =>
      if s.outstanding t then s.hold t c' .again
      else if va.toNat % 32 ≠ 0 then s.trap c 2 0 va
      else (s.readOwn t c' va 32 fun bs =>
        let r := s.bindPort t n.toNat (doublesOf 4 bs) c.asid none
        r.1.setCtx t (c'.w d (BitVec.ofNat 64 r.2)).next).updCtx t (Ctx.reclose c)

/-! ### The loader and the storer of a port -/

/-- The agent of the read of token `k` at a port. -/
def strmAgent (t vp k : Nat) (i : Nat) : Agent := .stream t vp k i

/-- A binding has ended: the BIND command that made it completes (R335). -/
def State.endStream (s : State) (t vp : Nat) (b : Strm) : State :=
  let s := s.updTile t fun tl => { tl with ports := SMap.put tl.ports vp { b with ended := true, eosIn := true } }
  match b.cmd with
  | some (q, tag, h) => s.answer q tag.toNat 0 2 1 h.toNat 0
  | none => s

/-- The bytes of the blocks still to be found in the bytes read (R170): the length of the string where its end is known. A malformed
block is its end, since no later block boundary can be found (R67). -/
def blockScan : Nat → Nat → List Byte → Nat → Nat × Nat × List Byte × Bool
  | 0, left, bs, used => (left, used, bs, false)
  | n + 1, left, bs, used =>
    if left = 0 then (0, used, bs, false)
    else match parseBlock bs with
      | .short => (left, used, bs, false)
      | .bad => (0, used + bs.length, [], true)
      | .ok _ k => blockScan n (left - 1) (bs.drop k) (used + k)

/-- Tokens of kind 6 of a port that its decoder has not taken: what lies ahead of injection in an XE8 stream (R170). -/
def Tile.xeAhead (t : Tile) (vp : Nat) : Nat :=
  (t.inq.filter fun x => x.tok.kind == 6 && (x.xe8 == some vp || x.xe8 == some (vp + 64))).length

/-- STREAM_LOADER_READ (R170): the reads of the next token go out, at most 64 tokens ahead of injection. The reads of an XE8 string
follow one another, so that none lies beyond the last block. -/
def loaderRead (t vp : Nat) (s : State) : State :=
  match SMap.get? (s.tile t).ports vp with
  | none => s
  | some b =>
    let h : Holder := .engine (tileDie t) b.edge
    if b.out || b.ended then s
    else if b.xe8 then
      if b.xleft = 0 ∨ b.issued ≠ b.done ∨ 64 ≤ (s.tile t).xeAhead vp then s
      else
        let r := s.engIssue (strmAgent t vp b.issued) h b.asid (b.base + BitVec.ofNat 64 (64 * b.issued)) 64 t
        (r.1.countTile t 3 r.2).updTile t fun tl => { tl with ports := SMap.put tl.ports vp { b with issued := b.issued + 1 } }
    else if b.count ≤ b.issued ∨ b.done + 64 ≤ b.issued then s
    else
      let r := s.engIssue (strmAgent t vp b.issued) h b.asid (b.addr b.issued) b.bpt t
      (r.1.countTile t 3 r.2).updTile t fun tl => { tl with ports := SMap.put tl.ports vp { b with issued := b.issued + 1 } }

/-- STREAM_LOADER_READ. -/
def execStreamLoaderRead (t : TileId) (vp : Nat) (s : State) : Out := .next (loaderRead t.toNat vp s)

/-- Bytes as lanes of a token with a matching mask: 64 at most (R170). -/
def byteTok (kind : Nat) (bs : List Byte) : Tok :=
  ⟨mkHdr 0 (2 ^ ((bs.length + 3) / 4) - 1) kind 0, false, lanesOf fun i => BitVec.ofNat 32 (leNat ((bs.drop (4 * i)).take 4))⟩

/-- A token of a stream goes into the port, or to the decoder of an XE8 port (R67, R68); the first of a stream restarts the decoder. -/
def State.streamTok (s : State) (t vp : Nat) (b : Strm) (x : Tok) : Option State :=
  let tl := s.tile t
  if b.xe8 then
    match tl.port? vp with
    | some (w, ep) =>
      if tl.frozen || !tl.cutsOpen ep then none
      else some (s.setTile t { tl with inq := tl.inq ++ [⟨0, vpSite w, some (if b.done = 0 ∧ !b.sotOut then vp + 64 else vp), { x with ep := ep }, false⟩] })
    | none => none
  else if s.canInject t vp then some (s.inject t vp x) else none

/-- The decoder of a port has injected all that it was sent (R67). -/
def Tile.decoded (t : Tile) (vp : Nat) : Bool :=
  (t.inq.all fun x => x.xe8 != some vp && x.xe8 != some (vp + 64)) && (SMap.getD t.xe8 vp {}).due.isEmpty

/-- The last token or marker of an in stream has gone out: it ends there, and an XE8 stream when its decoder has injected it (R170). -/
def State.sentAll (s : State) (t vp : Nat) (b : Strm) : State :=
  if b.xe8 then s.updTile t fun tl => { tl with ports := SMap.put tl.ports vp { b with sent := true } } else s.endStream t vp b

/-- STREAM_LOAD_INJECT (R170): SOT, the data tokens in order, EOT and EOS, one each time; an XE8 stream then ends once its decoder has injected
the last of them. -/
def loadInject (t vp : Nat) (s : State) : State :=
  match SMap.get? (s.tile t).ports vp with
  | none => s
  | some b =>
    let put (b : Strm) (s : State) : State := s.updTile t fun tl => { tl with ports := SMap.put tl.ports vp b }
    let fin (b : Strm) (s : State) : State :=
      if (!b.seg || b.eotOut) && !b.eos then s.sentAll t vp b else put b s
    if b.out || b.ended then s
    else if b.sent then (if (s.tile t).decoded vp then s.endStream t vp b else s)
    else if b.seg && !b.sotOut then
      match s.streamTok t vp b (mkMarker 0x10 0 false) with
      | some s' => put { b with sotOut := true } s'
      | none => s
    else if (if b.xe8 then b.xleft != 0 || b.done != b.issued else b.done != b.count) then
      if b.done = b.issued then s
      else
        let va := if b.xe8 then b.base + BitVec.ofNat 64 (64 * b.done) else b.addr b.done
        match s.engData (strmAgent t vp b.done) va (if b.xe8 then 64 else b.bpt) with
        | none => s
        | some bs =>
          let (left, used, rest, _) := if b.xe8 then blockScan 65 b.xleft (b.xbuf ++ bs) b.xbase else (0, 0, [], false)
          let bs := if b.xe8 && left == 0 then bs.take (used - 64 * b.done) else bs
          match s.streamTok t vp b (byteTok (if b.xe8 then 6 else 0) bs) with
          | none => s
          | some s' =>
            let b := { b with done := b.done + 1, xleft := if b.xe8 then left else b.xleft, xbuf := rest, xbase := used }
            let s' := s'.engDone (strmAgent t vp (b.done - 1))
            if (if b.xe8 then b.xleft == 0 else b.done == b.count) && !b.seg then fin b s' else put b s'
    else if b.seg && !b.eotOut then
      match s.streamTok t vp b (mkMarker 2 0 false) with
      | some s' => fin { b with eotOut := true } s'
      | none => s
    else match s.streamTok t vp b (mkMarker 3 0 false) with
      | some s' => s'.sentAll t vp b
      | none => s

/-- STREAM_LOAD_INJECT. -/
def execStreamLoadInject (t : TileId) (vp : Nat) (s : State) : Out := .next (loadInject t.toNat vp s)

/-- The pieces that a storer writes for a token: the lanes below bpt/4 whose mask bit is set, one by one, or under wo two by two
where both lanes of an 8-byte word are set (R170, R144): byte offset and bytes. -/
def storePieces (b : Strm) (x : Tok) : List (Nat × List Byte) :=
  let set (j : Nat) : Bool := j < b.bpt / 4 && x.mask.getLsbD j
  let ln (j : Nat) : List Byte := leBytes 4 (x.lanes.at j).toNat
  (List.range 8).flatMap fun i =>
    if b.wo && set (2 * i) && set (2 * i + 1) then [(8 * i, ln (2 * i) ++ ln (2 * i + 1))]
    else (if set (2 * i) then [(8 * i, ln (2 * i))] else []) ++ (if set (2 * i + 1) then [(8 * i + 4, ln (2 * i + 1))] else [])

/-- The requests of a port's stream. -/
def Agent.isStream (t vp : Nat) : Agent → Bool
  | .stream t' v _ _ => t' == t && v == vp
  | _ => false

/-- A storer sends the writes of data token `k`; the home performs each in its own time (R148). Those that fault, or fall into a ring, are
dropped and counted (R150, R177). -/
def State.storeTok (s : State) (t vp : Nat) (b : Strm) (x : Tok) : State :=
  let r := (storePieces b x).foldl (fun (acc : State × Nat) p =>
    let q := acc.1.engSend (strmAgent t vp b.done 0) (.engine (tileDie t) (16 + b.edge)) b.asid (b.addr b.done + BitVec.ofNat 64 p.1) p.2 t
    (q.1, acc.2 + q.2)) (s, 0)
  r.1.countTile t 3 r.2

/-- STREAM_STORE (R170): the storer takes the head of its port's queue. The stream ends after count data tokens, and later ones are dropped
and counted until its EOS; the EOS waits until every write before it is performed, and completes the binding (R148). -/
def streamStore (t vp : Nat) (s : State) : State :=
  let tl := s.tile t
  match SMap.get? tl.ports vp, (tl.buf (vKey vp)).toks with
  | some b, x :: _ =>
    if !b.out || b.eosIn || tl.frozen then s
    else if x.isMarker && x.index == 3 && s.engWriting (Agent.isStream t vp) then s
    else
      let s := (s.setTile t (tl.pop (vKey vp))).moved t
      if x.isMarker then (if x.index = 3 then s.endStream t vp b else s)
      else if x.kind ≠ 0 then s
      else if b.count ≤ b.done then s.countTile t 4 1
      else
        (s.storeTok t vp b x).updTile t fun tl => { tl with
          ports := SMap.put tl.ports vp { b with done := b.done + 1, ended := b.count == b.done + 1 } }
  | _, _ => s

/-- STREAM_STORE. -/
def execStreamStore (t : TileId) (vp : Nat) (s : State) : Out := .next (streamStore t.toNat vp s)

/-! ### Words that inject and read tokens -/

/-- A port that PWS, PWV and MKI may use (R178). -/
def Tile.injectable (t : Tile) (vp : Nat) : Bool := t.isIn vp && !t.bound vp

/-- A word of a port that has passed its checks and waits for a free slot: nothing but that slot ends the wait (R172, R356). -/
def Ctx.slotWait (c : Ctx) : Bool := c.wait == .again && c.segOpen

/-- The capacity trap of a port in a state that refuses the word (R359): csr.tval holds the unit field. -/
def State.refusedPort (s : State) (c : Ctx) (n : Nat) : State := s.trap c 6 4 (BitVec.ofNat 64 n)

/-- Wait for a free slot, in wait `w`, then inject (R178). -/
def State.putTok (s : State) (t : Nat) (c' : Ctx) (vp : Nat) (x : Tok) (w : Wait) : State :=
  if s.canInject t vp then (s.inject t vp x).setCtx t c'.next else s.hold t c' w

/-- The header word of PWS and PWV, of kind k (R178). -/
def pwsHdr (gb : W64) : W32 := BitVec.ofNat 32 (bits64 gb 31 24 * 2 ^ 24 + bits64 gb 15 0 * 2 ^ 8 + bits64 gb 18 16 * 2 ^ 5)

/-- The kinds that PWS and PWV send (R178). -/
def pwsKind (gb : W64) : Bool := [0, 1, 5].contains (bits64 gb 18 16)

/-- PWS (R178). -/
def execPws (a b : Reg) (n : BitVec 6) (s : State) : Out :=
  runWord (.pws a b n) s fun c =>
    let t := s.cur.toNat
    s.opening t c fun c' =>
      let gb := c.r b
      if !c.slotWait && !(s.tile t).injectable n.toNat then s.refusedPort c n.toNat
      else if !pwsKind gb then s.trap c 6 8 gb
      else s.putTok t c' n.toNat ⟨pwsHdr gb, false, lanesOf fun i => if gb.getLsbD i then (c.r a).setWidth 32 else 0⟩ .again

/-- The 16 lanes at an SE local address. -/
def Tile.seLanes (t : Tile) (la : Nat) : Lanes := lanesOf fun i => t.seW32 (la + 4 * i)

/-- PWV (R178): it is checked, and reads its lanes, as it issues; in its wait only a free slot ends it (R172, R356). -/
def execPwv (a b : Reg) (n : BitVec 6) (s : State) : Out :=
  runWord (.pwv a b n) s fun c =>
    let t := s.cur.toNat
    s.opening t c fun c' =>
      let va := c.r a
      let gb := c.r b
      match c.wait with
      | .slot x => s.putTok t c' n.toNat ⟨pwsHdr gb, false, x⟩ (.slot x)
      | _ =>
        if !(s.tile t).injectable n.toNat then s.refusedPort c n.toNat
        else match checkLocal s t va 64 64 with
          | some code => s.trap c code 0 va
          | none =>
            if !pwsKind gb then s.trap c 6 8 gb
            else
              let x := (s.tile t).seLanes va.toNat
              (s.updTile t fun tl => tl.seqAccess va.toNat).putTok t c' n.toNat ⟨pwsHdr gb, false, x⟩ (.slot x)

/-- MKI (R178). -/
def execMki (a : Reg) (n : BitVec 6) (s : State) : Out :=
  runWord (.mki a n) s fun c =>
    let t := s.cur.toNat
    s.opening t c fun c' =>
      let code := bits64 (c.r a) 7 0
      if !c.slotWait && !(s.tile t).injectable n.toNat then s.refusedPort c n.toNat
      else if !([0, 1, 2, 3, 0x10].contains code) then s.trap c 6 8 (c.r a)
      else s.putTok t c' n.toNat (mkMarker code 0 false) .again

/-- A port that PRD may read (R179, R209, R245, R261, R287). -/
def State.readable (s : State) (t vp : Nat) : Bool :=
  let tl := s.tile t
  tl.isOut vp && !tl.bound vp && !tl.rillReads vp && !s.feeds t vp && !s.spoutReads t vp
    && !(tl.mx.q.any fun m => m.started && !m.done && m.taken < m.need && m.readsPort == some vp)

/-- PRD (R179): the port is checked as the word issues; in its wait only a head ends it (R172, R356). -/
def execPrd (d a : Reg) (n : BitVec 6) (s : State) : Out :=
  runWord (.prd d a n) s fun c =>
    let t := s.cur.toNat
    let tl := s.tile t
    let sel := c.r a
    if c.wait != .again && !s.readable t n.toNat then s.refusedPort c n.toNat
    else match (tl.buf (vKey n.toNat)).toks with
      | x :: _ =>
        if tl.frozen then s.hold t c .again
        else
          let i := bits64 sel 3 0
          let w : W32 := if [0, 1, 5].contains x.kind && x.mask.getLsbD i then x.lanes.at i else 0
          let s := if sel.getLsbD 4 then (s.setTile t (tl.pop (vKey n.toNat))).moved t else s
          s.setCtx t (c.w d (x.hdr ++ w)).next
      | [] => s.hold t c .again

/-! ### Status and drains -/

/-- Slots in use of the first buffer that an in port feeds, as its flow-control counter shows them (R180). -/
def State.feedOcc (s : State) (t : Nat) (w : W32) (ep : Bool) : Nat :=
  let x : Tok := ⟨mkHdr 0 0 0 (vpVc w), ep, lanesOf fun _ => 0⟩
  let n (b : Buf) : Nat := min 15 (b.toks.length + b.resv + b.ret)
  match s.dests t (vpSite w) 6 x with
  | .input t' site k :: _ => n ((s.tile t').buf (qKey site k))
  | .link t' site li _ :: _ => n ((s.tile t').buf (lKey site li))
  | _ => 0

/-- The status word of a port (R180). -/
def State.portStatus (s : State) (t vp : Nat) : W64 :=
  let tl := s.tile t
  match tl.port? vp with
  | none => 0
  | some (w, ep) =>
    let site := vpSite w
    let q := (tl.buf (vKey vp)).toks
    let hd : List (Nat × Nat) := match vpOut w, q with
      | true, x :: _ => [(24, x.index), (21, x.kind), (20, 1)]
      | _, _ => []
    let vc := if vpOut w then (match (tl.plane ep).bind fun p => SMap.get? p.ves site with
      | some v => bits (portWord v (4 + vpPort w)) 12 8
      | none => 0) else vpVc w
    packBits (hd ++ [(32, if isVe site then (tl.ve site).flags.toNat else 0),
      (12, if vpOut w then q.length else s.feedOcc t w ep), (7, b1 (tl.bound vp)), (6, b1 (tl.held.contains vp)),
      (5, b1 (vpOut w)), (0, vc)])

/-- PSTAT (R180, R75). -/
def execPstat (d b : Reg) (n : BitVec 6) (s : State) : Out :=
  runWord (.pstat d b n) s fun c =>
    let t := s.cur.toNat
    let st := s.portStatus t n.toNat
    let s := match (s.tile t).port? n.toNat with
      | some (w, _) =>
        if isVe (vpSite w) then s.updTile t fun tl =>
          let v := tl.ve (vpSite w)
          tl.setVe (vpSite w) { v with flags := (v.flags &&& ~~~ (c.r b).setWidth 6) ||| v.raised }
        else s
      | none => s
    s.setCtx t (c.w d st).next

/-- A matrix token selects macro `m` (R52). -/
def MTok.selects (x : MTok) (m : Nat) : Bool := bits64 x.word (42 + m) (42 + m) == 1

/-- Every token issued before that selects the macro has completed (R211, R227). -/
def Matrix.macroIdle (x : Matrix) (m : Nat) : Bool := !(x.q.any fun k => k.selects m)

/-- The element of accumulator bank `n` at a row and a column, +0 where nothing stands (R207). -/
def Matrix.acc (x : Matrix) (n row col : Nat) : W32 := SMap.getD (SMap.getD x.ac n []) (128 * row + col) 0

/-- ACCZ (R181). -/
def execAccz (n : BitVec 5) (s : State) : Out :=
  runWord (.accz n) s fun c =>
    let t := s.cur.toNat
    let m := (s.tile t).mx
    if !m.macroIdle (n.toNat / 8) || s.stays t c then s.hold t c .again
    else (s.updTile t fun tl => { tl with mx := { m with
      ac := SMap.del m.ac n.toNat
      dmg := m.dmg &&& ~~~ (1#32 <<< n.toNat) } }).setCtx t c.next

/-- ACCRD (R181). -/
def execAccrd (d a : Reg) (n : BitVec 5) (s : State) : Out :=
  runWord (.accrd d a n) s fun c =>
    let t := s.cur.toNat
    let m := (s.tile t).mx
    if !m.macroIdle (n.toNat / 8) || s.stays t c then s.hold t c .again
    else s.setCtx t (c.w d ((m.acc n.toNat (bits64 (c.r a) 3 0) (bits64 (c.r a) 10 4)).setWidth 64)).next

/-- The tile is idle (R183, R245): nothing in a buffer, queue, ring, decoder or region port of the active plane, no firing in flight, no vector
in the rill array, every request of its loaders, storers and matrix node answered. -/
def State.tileIdle (s : State) (t : Nat) : Bool :=
  let tl := s.tile t
  tl.tokens == 0 && (tl.ringHT.all fun x => x.2.1 == x.2.2) && (tl.ves.all fun x => x.2.pipe.isEmpty)
    && tl.rill.infl.isEmpty && tl.rill.half.isNone
    && !(s.reqs.any fun q => q.st != .performed && match q.agent with
        | .stream t' _ _ _ => t' == t
        | .mbld t' _ _ => t' == t
        | _ => false)

/-- DRAIN (R183). -/
def execDrain (d : Reg) (s : State) : Out :=
  runWord (.drain d) s fun c =>
    let t := s.cur.toNat
    if s.tileIdle t && !s.stays t c then
      (s.updTile t fun tl => { tl with dropped := 0 }).setCtx t (c.w d ((s.tile t).dropped.setWidth 64)).next
    else s.hold t c .again

end Sys2Proof.Machine
end

