-- ==== Sys2Proof/Machine/Matrix.lean ====
section
/-! DEFINITION. The matrix node (R207 to R229): block tokens and their alignment (R76), the sums, contributions and checks of an MMA
(R77, R78, R219, R220), the seven token ops and the matrix words. -/

namespace Sys2Proof.Machine

open Sys2Proof

/-! ### Tokens (R52, R210) -/

/-- op -/
def MTok.op (m : MTok) : Nat := bits64 m.word 63 60
/-- fmtA -/
def MTok.fa (m : MTok) : Nat := bits64 m.word 59 57
/-- fmtB -/
def MTok.fb (m : MTok) : Nat := bits64 m.word 56 54
/-- bank within a macro -/
def MTok.bank (m : MTok) : Nat := bits64 m.word 41 39
/-- acc -/
def MTok.acc (m : MTok) : Bool := m.word.getLsbD 38
/-- crow -/
def MTok.crow (m : MTok) : Bool := m.word.getLsbD 37
/-- ccol -/
def MTok.ccol (m : MTok) : Bool := m.word.getLsbD 36
/-- The macros that it selects, ascending. -/
def MTok.macs (m : MTok) : List Nat := (List.range 4).filter m.selects

/-- The bits that an op uses beside the op itself (R210). -/
def mtokUses (op : Nat) : W64 :=
  let f (hi lo : Nat) : W64 := BitVec.ofNat 64 (2 ^ (hi + 1) - 2 ^ lo)
  match op with
  | 0 | 1 => f 59 57 ||| f 53 36
  | 2 => f 56 54 ||| f 49 42
  | 3 | 6 => f 45 42
  | 4 => f 53 38
  | _ => f 53 50 ||| f 47 39

/-- The token is valid (R52, R210). -/
def mtokValid (w : W64) : Bool :=
  let op := bits64 w 63 60
  op ≤ 6 && (w &&& 0x0FFFFFFFFFFFFFFF#64 &&& ~~~ mtokUses op) == 0 && bits64 w 45 42 != 0
    && (2 ≤ op || bits64 w 59 57 ≤ 5) && (op != 2 || bits64 w 56 54 ≤ 5)

/-! ### Blocks (R61, R76, R208) -/

/-- The floating-point format of a code 0 to 4. -/
def mxFmt : Nat → Fmt
  | 0 => e2m1
  | 1 => e3m2
  | 2 => e2m3
  | 3 => e4m3
  | _ => e5m2

/-- Bits of an element; the element lanes of a block token are as many. -/
def mxBits : Nat → Nat
  | 0 => 4
  | 1 | 2 => 6
  | _ => 8

/-- wA (R26). -/
def mxWidth : Nat → Nat
  | 0 => 4
  | 1 | 4 => 5
  | 2 | 3 => 6
  | _ => 7

/-- The 32 codes of a block token (R61, R208): an element lane whose mask bit is clear reads as zero. -/
def blockCodes (fmt : Nat) (x : Tok) : List Byte :=
  let n := mxBits fmt
  let v := leNat ((List.range n).flatMap fun i => leBytes 4 (if x.mask.getLsbD i then (x.lanes.at i).toNat else 0))
  (List.range 32).map fun j => BitVec.ofNat 8 (v / 2 ^ (n * j) % 2 ^ n)

/-- The token lacks an element lane (R208). -/
def blockShort (fmt : Nat) (x : Tok) : Bool := !((List.range (mxBits fmt)).all fun i => x.mask.getLsbD i)

/-- The scale of a block token (R208). -/
def blockScale (x : Tok) : Byte := if x.mask.getLsbD 8 then (x.lanes.at 8).setWidth 8 else 0x7F

/-- The value of a code. -/
def mxNum (fmt : Nat) (b : Byte) : Num := if fmt = 5 then Num.ofInt (sextNat 8 b.toNat) else (mxFmt fmt).num b.toNat

/-- A NaN, an infinity or a scale of 0xFF makes a block special (R78, R214). -/
def blockSpecial (fmt : Nat) (cs : List Byte) (s : Byte) : Bool :=
  s == 0xFF || cs.any fun b => match mxNum fmt b with
    | .fin .. => false
    | _ => true

/-- The largest exponent among the non-zero elements (R76). -/
def blockExp (fmt : Nat) (cs : List Byte) : Int :=
  let es := cs.filterMap fun b => match mxNum fmt b with
    | .fin _ m e => if m = 0 then none else some (max (e + m.log2) (1 - (mxFmt fmt).bias))
    | _ => none
  match es with
  | [] => 0
  | e :: l => l.foldl max e

/-- E_A or E_B of a block; an INT8 block has q = 1 (R76). -/
def blockE (fmt w : Nat) (cs : List Byte) : Int := if fmt = 5 then (w : Int) - 1 else blockExp fmt cs

/-- The aligned integers of a block of `w` magnitude bits (R76). -/
def blockInts (fmt w : Nat) (isA : Bool) (cs : List Byte) : List Int :=
  let q := blockE fmt w cs - w + 1
  cs.map fun b =>
    if fmt = 5 then (let x := sextNat 8 b.toNat
      if isA && x == -128 then -127 else x)
    else match mxNum fmt b with
      | .fin s m e => (roundInt 0 s m (e - q)).1
      | _ => 0

/-! ### Rows and planes -/

/-- Row `m`, block `kb` of the row buffer takes a block token. -/
def RowBuf.put (r : RowBuf) (fmt m kb : Nat) (x : Tok) : RowBuf :=
  let cs := blockCodes fmt x
  let sp := blockSpecial fmt cs (blockScale x)
  let is := if sp then [] else blockInts fmt (mxWidth fmt) true cs
  { r with
    a := ((List.range 32).zip is).foldl (fun l p => if p.2 = 0 then l else SMap.put l (128 * m + 32 * kb + p.1) p.2) r.a
    e := SMap.put r.e (4 * m + kb) (blockE fmt (mxWidth fmt) cs)
    s := SMap.put r.s (4 * m + kb) (blockScale x)
    spec := SMap.put r.spec (4 * m + kb) cs }

/-- Block `kb` of column `n` of a plane takes a block token (R214). -/
def MPlane.put (p : MPlane) (fmt n kb : Nat) (x : Tok) : MPlane :=
  let cs := blockCodes fmt x
  let sp := blockSpecial fmt cs (blockScale x)
  let is := if sp then [] else blockInts fmt 8 false cs
  { p with
    b := ((List.range 32).zip is).foldl (fun l q => if q.2 = 0 then l else SMap.put l (128 * (32 * kb + q.1) + n) q.2) p.b
    e := SMap.put p.e (128 * kb + n) (blockE fmt 8 cs)
    s := SMap.put p.s (128 * kb + n) (blockScale x)
    spec := SMap.put p.spec (128 * kb + n) cs
    b1 := ((List.range 32).zip is).foldl (fun l q => SMap.upd l (32 * kb + q.1) 0 fun y => y + q.2) p.b1 }

/-- a[m][k] -/
def RowBuf.at (r : RowBuf) (m k : Nat) : Int := SMap.getD r.a (128 * m + k) 0
/-- b[k][n] -/
def MPlane.at (p : MPlane) (k n : Nat) : Int := SMap.getD p.b (128 * k + n) 0
/-- An A block under R78. -/
def RowBuf.special (r : RowBuf) (m kb : Nat) : Bool :=
  blockSpecial r.fmt (SMap.getD r.spec (4 * m + kb) []) (SMap.getD r.s (4 * m + kb) 0x7F)
/-- A B block under R78. -/
def MPlane.special (p : MPlane) (kb n : Nat) : Bool :=
  blockSpecial p.fmt (SMap.getD p.spec (128 * kb + n) []) (SMap.getD p.s (128 * kb + n) 0x7F)

/-- S of a block (R212), with what disturbs it in this attempt. -/
def blockSum (r : RowBuf) (p : MPlane) (ups : List Upset) (m kb n : Nat) : Int :=
  ((List.range 32).map fun i => r.at m (32 * kb + i) * p.at (32 * kb + i) n).sum
    + ((ups.filter fun u => u.m == m && u.kb == kb && u.n == n).map fun u => u.delta).sum

/-- The sum of the infinite products of a special block, or NaN (R78). -/
def specialSum (r : RowBuf) (p : MPlane) (m kb n : Nat) : Num :=
  let ca := SMap.getD r.spec (4 * m + kb) (List.replicate 32 0)
  let cb := SMap.getD p.spec (128 * kb + n) (List.replicate 32 0)
  let nan := SMap.getD r.s (4 * m + kb) 0x7F == 0xFF || SMap.getD p.s (128 * kb + n) 0x7F == 0xFF
    || (ca.any fun b => (mxNum r.fmt b).isNan) || (cb.any fun b => (mxNum p.fmt b).isNan)
  if nan then .nan
  else (ca.zip cb).foldl (fun (acc : Num) x =>
    let u := mxNum r.fmt x.1
    let v := mxNum p.fmt x.2
    match u, v with
    | .fin .., .fin .. => acc
    | _, _ => (acc.add 0 (u.mul v).1).1) (.fin false 0 0)

/-- The accumulator after one block (R77, R78), one rounding per block. A special block of A contributes by R78 at rows and columns beyond the
plane's loaded K and N too, which is the model's choice (log 91). -/
def contribute (r : RowBuf) (p : MPlane) (ups : List Upset) (m n : Nat) (acc : W32) (kb : Nat) : W32 :=
  if r.special m kb || p.special kb n then (round32 0 ((num32 acc).add 0 (specialSum r p m kb n)).1).1
  else
    let z := blockSum r p ups m kb n
    if z = 0 then acc
    else
      let qa := SMap.getD r.e (4 * m + kb) 0 - mxWidth r.fmt + 1
      let qb := SMap.getD p.e (128 * kb + n) 0 - 7
      let e := qa + qb + ((SMap.getD r.s (4 * m + kb) 0x7F).toNat : Int) - 127 + ((SMap.getD p.s (128 * kb + n) 0x7F).toNat : Int) - 127
      (round32 0 ((num32 acc).add 0 (.fin (z < 0) z.natAbs e)).1).1

/-- ccol (R219): the row checks of a macro. -/
def colCheck (k : MTok) (r : RowBuf) (p : MPlane) (ups : List Upset) : Bool :=
  (List.range k.rows).all fun m => (List.range k.kbs).all fun kb =>
    r.special m kb ||
      (((List.range 128).filter fun n => !p.special kb n).map fun n => blockSum r p ups m kb n).sum
        == ((List.range 32).map fun i => r.at m (32 * kb + i) * SMap.getD p.b1 (32 * kb + i) 0).sum

/-- crow (R219): the column checks of a macro. -/
def rowCheck (k : MTok) (r : RowBuf) (p : MPlane) (ups : List Upset) : Bool :=
  (List.range k.kbs).all fun kb => (List.range 128).all fun n =>
    p.special kb n ||
      let ms := (List.range k.rows).filter fun m => !r.special m kb
      (ms.map fun m => blockSum r p ups m kb n).sum
        == ((List.range 32).map fun i => (ms.map fun m => r.at m (32 * kb + i)).sum * p.at (32 * kb + i) n).sum

/-! ### The node -/

/-- The active plane of a macro. -/
def Matrix.active (x : Matrix) (m : Nat) : MPlane := x.act.getD m {}
/-- The loading plane of a macro. -/
def Matrix.loading (x : Matrix) (m : Nat) : MPlane := x.ld.getD m {}

/-- Every attempted sum passes its checks (R219). -/
def Matrix.passes (x : Matrix) (k : MTok) (ups : List Upset) : Bool :=
  k.macs.all fun mac =>
    let us := ups.filter fun u => u.mac == mac
    (!k.ccol || colCheck k k.rb (x.active mac) us) && (!k.crow || rowCheck k k.rb (x.active mac) us)

/-- Record bits of the node word from bit 2 on (R226): spec 32, clip 16, skip 8, lerr 4, short 2, lost 1. -/
def Matrix.raise (x : Matrix) (f : BitVec 6) : Matrix :=
  { x with
    spec := x.spec || f.getLsbD 5, clip := x.clip || f.getLsbD 4, skip := x.skip || f.getLsbD 3, lerr := x.lerr || f.getLsbD 2
    short := x.short || f.getLsbD 1, lost := x.lost || f.getLsbD 0, now := { x.now with fl := x.now.fl ||| f } }
/-- Record an invalid token. -/
def Matrix.invalid (x : Matrix) : Matrix := { x with cinv := sat16 x.cinv 1, now := { x.now with cinv := sat16 x.now.cinv 1 } }
/-- Record a rerun. -/
def Matrix.rerun (x : Matrix) : Matrix := { x with crr := sat16 x.crr 1, now := { x.now with crr := sat16 x.now.crr 1 } }
/-- Record a damaged commit. -/
def Matrix.damaged (x : Matrix) : Matrix := { x with cdmg := sat16 x.cdmg 1, now := { x.now with cdmg := sat16 x.now.cdmg 1 } }
/-- Clear the counters and the bits [7:2] of the node word (R226): what the present island cycle has recorded stays. -/
def Matrix.clear (x : Matrix) : Matrix :=
  let f := x.now.fl
  { x with
    cinv := x.now.cinv, crr := x.now.crr, cdmg := x.now.cdmg, spec := f.getLsbD 5, clip := f.getLsbD 4, skip := f.getLsbD 3
    lerr := f.getLsbD 2, short := f.getLsbD 1, lost := f.getLsbD 0 }

/-- Commit the sums of an attempt (R212). -/
def Matrix.commit (x : Matrix) (k : MTok) (ups : List Upset) (hurt : Bool) : Matrix :=
  k.macs.foldl (fun (x : Matrix) mac =>
    let p := x.active mac
    let us := ups.filter fun u => u.mac == mac
    let bk := 8 * mac + k.bank
    let sp := (List.range k.rows).any fun m => (List.range k.kbs).any fun kb => (List.range k.cols).any fun n =>
      k.rb.special m kb || p.special kb n
    let bank := (List.range k.rows).foldl (fun (b : SMap W32) m => (List.range k.cols).foldl (fun (b : SMap W32) n =>
      let old : W32 := if k.acc then SMap.getD b (128 * m + n) 0 else 0
      SMap.put b (128 * m + n) ((List.range k.kbs).foldl (contribute k.rb p us m n) old)) b) (SMap.getD x.ac bk [])
    { x.raise (if sp then 32 else 0) with
      ac := SMap.put x.ac bk bank
      dmg := if p.bad || hurt then x.dmg ||| (1#32 <<< bk) else x.dmg }) x

/-- Replace a token of the queue. -/
def Matrix.setTok (x : Matrix) (k : MTok) : Matrix := { x with q := x.q.map fun j => if j.seq = k.seq then k else j }

/-- Two tokens conflict (R211). -/
def MTok.conflicts (a b : MTok) : Bool :=
  ((List.range 4).any fun m => a.selects m && b.selects m)
    && (a.op == 3 || b.op == 3 || (a.op == 2) == (b.op == 2))

/-- Invalid at its start (R213, R218). -/
def Matrix.dropsAtStart (x : Matrix) (k : MTok) : Bool :=
  ([0, 1, 6].contains k.op && k.macs.any fun m => !(x.active m).valid)
    || (k.op == 1 && (!x.rb.valid || x.rb.fmt != k.fa || x.rb.rows < k.rows || x.rb.kbs < k.kbs))

/-- Change the node of a tile. -/
def State.setMx (s : State) (t : Nat) (x : Matrix) : State := s.updTile t fun tl => { tl with mx := x }

/-- Count an event of the node in double 8 (R226, R366). -/
def State.mxInvalid (s : State) (t : Nat) (x : Matrix) : State :=
  (s.setMx t x.invalid).countTile t 8 1

/-- A started DRN that its port holds up (R216): the tokens behind it wait. -/
def State.drainStalled (s : State) (t : Nat) (k : MTok) : Bool := k.op == 4 && k.started && !k.done && !s.canInject t k.vp

/-- The token can start (R211, R216): those before it have started, none of them conflicts, none still reads its port. -/
def State.mxStarts (s : State) (t : Nat) (k : MTok) : Bool :=
  ((s.tile t).mx.q.takeWhile fun j => j.seq != k.seq).all fun j =>
    j.started && !j.conflicts k && !s.drainStalled t j
      && !(k.readsPort.isSome && j.readsPort == k.readsPort && !j.done && j.taken < j.need)

/-- The holder of the loader that reads for MBLD (R225). -/
def mbldHolder (t : Nat) : Holder := .engine (tileDie t) (tileTy t)

/-- The reads of an MBLD go out (R225); those that fault, or fall into a ring, are dropped and counted (R150). -/
def State.mbldIssue (s : State) (t : Nat) (k : MTok) : State :=
  match k.mem with
  | none => s
  | some (va, asid) => (List.range k.need).foldl (fun (s : State) j =>
      let r := s.engIssue (fun i => .mbld t (4 * k.seq + i) j) (mbldHolder t) asid (va + BitVec.ofNat 64 (64 * j)) 64 t
      r.1.countTile t 3 r.2) s

/-- CHK of one macro (R218): the plane as it is afterwards, and whether a difference was found. -/
def MPlane.check (p : MPlane) : MPlane × Bool :=
  let ok := (List.range 128).all fun k =>
    ((List.range 128).filter fun n => !p.special (k / 32) n).map (fun n => p.at k n) |>.sum |> fun z => z == SMap.getD p.b1 k 0
  (if ok then p else { p with bad := true }, !ok)

/-- Set an element of a list. -/
def setAt {α : Type} (l : List α) (i : Nat) (x : α) : List α := l.set i x

/-- The effect of BSWP, CLR and CHK (R215, R217, R218), and the number of damaged commits. -/
def Matrix.short1 (x : Matrix) (k : MTok) : Matrix × Nat :=
  k.macs.foldl (fun (acc : Matrix × Nat) m =>
    let x := acc.1
    match k.op with
    | 3 => ({ x with act := setAt x.act m (x.loading m), ld := setAt x.ld m (x.active m) }, acc.2)
    | 5 =>
      let bk := 8 * m + k.bank
      let b := (SMap.getD x.ac bk []).filter fun p => !(p.1 / 128 < k.rows && p.1 % 128 < k.cols)
      ({ x with ac := SMap.put x.ac bk b, dmg := x.dmg &&& ~~~ (1#32 <<< bk) }, acc.2)
    | _ =>
      let (p, bad) := (x.active m).check
      let x := if bad then x.damaged else x
      ({ x with act := setAt x.act m p }, acc.2 + if bad then 1 else 0)) (x, 0)

/-- A token starts (R211 to R218). -/
def State.mxStart (s : State) (t : Nat) (k : MTok) : State :=
  let x := (s.tile t).mx
  if x.dropsAtStart k then s.mxInvalid t (x.setTok { k with started := true, done := true })
  else match k.op with
    | 0 => s.setMx t (x.setTok { k with started := true, rb := { fmt := k.fa } })
    | 1 => s.setMx t (x.setTok { k with started := true, rb := x.rb })
    | 2 => (s.setMx t (x.setTok { k with started := true, pl := { fmt := k.fb, k := k.kbs - 1, n := k.cols / 32 - 1 } })).mbldIssue t k
    | 4 => s.setMx t (x.setTok { k with started := true })
    | _ =>
      let (y, n) := x.short1 k
      (s.setMx t (y.setTok { k with started := true, done := true })).countTile t 8 n

/-- A block token is taken (R208, R212, R214); with the last one a BLD's plane is loaded, and the row buffer holds an MMA's rows: until then a
token on other macros sees the rows that it held before, which is the model's choice (log 91). -/
def State.mxTake (s : State) (t : Nat) (k : MTok) (x : Tok) (lost : Bool) : State :=
  let mx := (s.tile t).mx
  let kb := k.taken % k.kbs
  let j := k.taken / k.kbs
  let fmt := if k.op = 2 then k.fb else k.fa
  let mx := mx.raise ((if blockShort fmt x then 2 else 0) ||| (if k.op == 0 && fmt == 5 && (blockCodes fmt x).contains 0x80 then 16 else 0)
    ||| if lost then 4 else 0)
  let k := { k with taken := k.taken + 1 }
  if k.op = 2 then
    let k := { k with pl := let p := k.pl.put fmt j kb x
      { p with bad := p.bad || lost } }
    if k.taken = k.need then
      let mx := k.macs.foldl (fun (y : Matrix) m => { y with ld := setAt y.ld m { k.pl with valid := true } }) mx
      s.setMx t (mx.setTok { k with done := true, pl := {} })
    else s.setMx t (mx.setTok k)
  else
    let k := { k with rb := k.rb.put fmt j kb x }
    if k.taken = k.need then
      let k := { k with rb := { k.rb with valid := true, rows := k.rows, kbs := k.kbs } }
      s.setMx t { (mx.setTok k) with rb := k.rb }
    else s.setMx t (mx.setTok k)

/-- A running token that takes block tokens from its port (R209). -/
def State.mxPort (s : State) (t : Nat) (k : MTok) : Option State :=
  let tl := s.tile t
  match tl.frozen, (tl.buf (vKey k.vp)).toks with
  | false, x :: _ =>
    let s := (s.setTile t (tl.pop (vKey k.vp))).moved t
    if x.kind ≠ 0 then some ((s.setMx t ((s.tile t).mx.raise 8)).countTile t 4 1)
    else some (s.mxTake t k x false)
  | _, _ => none

/-- A running BLD that takes its blocks from memory (R225). -/
def State.mxMem (s : State) (t : Nat) (k : MTok) (va : W64) : Option State :=
  let ag (i : Nat) : Agent := .mbld t (4 * k.seq + i) k.taken
  match s.engData ag (va + BitVec.ofNat 64 (64 * k.taken)) 64 with
  | none => none
  | some bs =>
    let lost := s.reqs.any fun q => (q.agent == ag 0 || q.agent == ag 1) && q.failed
    let bs := if lost then [] else bs
    some ((s.engDone ag).mxTake t k ⟨mkHdr 0 0x01FF 0 0, false, lanesOf fun i => BitVec.ofNat 32 (leNat ((bs.drop (4 * i)).take 4))⟩ lost)

/-- All rows are present: the sums are made, checked, rerun where a check fails, and committed (R212, R219, R220). -/
def State.mxCommit (s : State) (t : Nat) (k : MTok) (ups : List Upset) : State :=
  let x := (s.tile t).mx
  let fin (x : Matrix) : Matrix := x.setTok { k with done := true, rb := {} }
  let first := ups.filter fun u => u.first
  if x.passes k first then s.setMx t (fin (x.commit k first false))
  else
    let again := ups.filter fun u => u.again
    if x.passes k again then
      let y := x.commit k again false
      (s.setMx t (fin y.rerun)).countTile t 8 1
    else
      let y := x.commit k again true
      let s := (s.setMx t (fin y.damaged)).countTile t 8 1
      s.report (causeWord false 0 0x30) 0 0 t (s.tile t).region

/-- The tokens that a DRN emits (R216). -/
def Matrix.drainTok (x : Matrix) (k : MTok) : Option Tok :=
  let per := k.rows * (k.cols / 16)
  let mac := k.macs.getD (k.pos / per) 0
  let m := k.pos % per / (k.cols / 16)
  let g := k.pos % (k.cols / 16)
  let bk := 8 * mac + k.bank
  if k.pos < per * k.macs.length then
    some ⟨mkHdr ((if x.dmg.getLsbD bk then 128 else 0) + 16 * g + m) 0xFFFF 0 0, false, lanesOf fun i => x.acc bk m (16 * g + i)⟩
  else if k.pos = per * k.macs.length ∧ 1 < k.kbs then some (mkMarker (k.kbs - 2) 0 false)
  else none

/-- One token of a DRN is injected; after the last one its elements are cleared under acc (R216). -/
def State.mxDrain (s : State) (t : Nat) (k : MTok) : Option State :=
  let x := (s.tile t).mx
  match x.drainTok k with
  | none => none
  | some y =>
    if !s.canInject t k.vp then none
    else
      let k := { k with pos := k.pos + 1 }
      let s := s.inject t k.vp y
      let x := (s.tile t).mx
      if (x.drainTok k).isSome then some (s.setMx t (x.setTok k))
      else
        let x := if k.acc then k.macs.foldl (fun (x : Matrix) m =>
          let bk := 8 * m + k.bank
          { x with ac := SMap.put x.ac bk ((SMap.getD x.ac bk []).filter fun p => !(p.1 / 128 < k.rows && p.1 % 128 < k.cols)) }) x else x
        some (s.setMx t (x.setTok { k with done := true }))

/-- What the token can do now: start, take a block token, commit, or inject (R211 to R216). -/
def State.mxTry (s : State) (t : Nat) (ups : List Upset) (k : MTok) : Option State :=
  if k.done then none
  else if !k.started then (if s.mxStarts t k then some (s.mxStart t k) else none)
  else if k.taken < k.need then
    match k.mem with
    | some (va, _) => s.mxMem t k va
    | none => s.mxPort t k
  else if k.op = 4 then s.mxDrain t k
  else some (s.mxCommit t k ups)

/-- One step of the oldest token of an op that can make one; a frozen tile's node stands still (R356). -/
def mxStep (op t : Nat) (ups : List Upset) (s : State) : State :=
  if (s.tile t).frozen then s
  else (((s.tile t).mx.q.filter fun k => k.op == op).findSome? (s.mxTry t ups)).getD s

/-- MMA (R212, R219, R220). -/
def execMma (t : TileId) (ups : List Upset) (s : State) : Out := .next (mxStep 0 t.toNat ups s)
/-- MMAC (R213). -/
def execMmac (t : TileId) (ups : List Upset) (s : State) : Out := .next (mxStep 1 t.toNat ups s)
/-- BLD (R214, R225). -/
def execBld (t : TileId) (s : State) : Out := .next (mxStep 2 t.toNat [] s)
/-- BSWP (R215). -/
def execBswp (t : TileId) (s : State) : Out := .next (mxStep 3 t.toNat [] s)
/-- DRN (R216). -/
def execDrn (t : TileId) (s : State) : Out := .next (mxStep 4 t.toNat [] s)
/-- CLR (R217). -/
def execClr (t : TileId) (s : State) : Out := .next (mxStep 5 t.toNat [] s)
/-- CHK (R218). -/
def execChk (t : TileId) (s : State) : Out := .next (mxStep 6 t.toNat [] s)

/-- A token completes when its last effect has been made (R211): the first such one leaves the queue. -/
def mxComplete (t : Nat) (s : State) : State :=
  let x := (s.tile t).mx
  match (if (s.tile t).frozen then none else x.q.find? fun k => k.done) with
  | some k => s.setMx t { x with q := x.q.filter fun j => j.seq != k.seq }
  | none => s

/-- MATRIX_TOKEN_COMPLETE (R211). -/
def execMatrixTokenComplete (t : TileId) (s : State) : Out := .next (mxComplete t.toNat s)

/-- PLANE_SOFT_ERROR (R218): a stored integer of an active plane changes. -/
def execPlaneSoftError (t : TileId) (mac : Nat) (k n : Nat) (delta : Int) (s : State) : Out :=
  .next (if 4 ≤ mac ∨ 128 ≤ k ∨ 128 ≤ n then s
    else s.updTile t.toNat fun tl =>
      let p := tl.mx.active mac
      { tl with mx := { tl.mx with act := setAt tl.mx.act mac { p with b := SMap.put p.b (128 * k + n) (p.at k n + delta) } } })

/-! ### The matrix words (R223 to R227) -/

/-- An entry of the queue (R207). -/
def Matrix.enqueue (x : Matrix) (w : W64) (vp : Nat) (mem : Option (W64 × BitVec 16)) : Matrix :=
  { x with q := x.q ++ [{ word := w, vp := vp, mem := mem, seq := x.seq }], seq := x.seq + 1 }

/-- The port of an MTOK is in a state that refuses the token (R224, R245, R261). -/
def State.mtokRefused (s : State) (t vp op : Nat) : Bool :=
  let tl := s.tile t
  if op = 0 ∨ op = 2 then !tl.isOut vp || tl.bound vp || tl.rillReads vp || s.feeds t vp || s.spoutReads t vp
  else if op = 4 then !tl.isIn vp || tl.bound vp
  else false

/-- MTOK (R224): the port is checked as the word issues; in its wait only a free entry ends it (R172, R356). -/
def execMtok (d a : Reg) (n : BitVec 6) (s : State) : Out :=
  runWord (.mtok d a n) s fun c =>
    let t := s.cur.toNat
    s.opening t c fun c' =>
      let w := c.r a
      let x := (s.tile t).mx
      if !mtokValid w then (s.mxInvalid t x).setCtx t (c'.w d 1).next
      else if !c.slotWait && s.mtokRefused t n.toNat (bits64 w 63 60) then s.refusedPort c n.toNat
      else if 8 ≤ x.q.length then s.hold t c' .again
      else (s.setMx t (x.enqueue w n.toNat none)).setCtx t (c'.w d 0).next

/-- MBLD (R225): a release at DIE scope. Its pages are checked as it issues; in its wait only a free entry of the queue ends it (R172). -/
def execMbld (d a b : Reg) (s : State) : Out :=
  runWord (.mbld d a b) s fun c =>
    let t := s.cur.toNat
    let w := c.r b
    let va := c.r a
    let x := (s.tile t).mx
    let put : State := if 8 ≤ x.q.length then s.hold t c .ready
      else (s.setMx t (x.enqueue w 0 (some (va, c.asid)))).setCtx t (c.w d 0).next
    if c.wait = .ready then put
    else if s.outstanding t then s.hold t c .again
    else if !mtokValid w || bits64 w 63 60 != 2 then (s.mxInvalid t x).setCtx t (c.w d 1).next
    else if va.toNat % 64 ≠ 0 then s.trap c 2 0 va
    else
      let k : MTok := { word := w, vp := 0, seq := 0 }
      (pageStarts va (64 * k.need)).foldr (fun p (go : State) =>
        s.withPage t c p .load (checkPage s t c.asid p) fun e => if e.kind == .device then s.trap c 4 0 p else go) put

/-- A macro word (R226). -/
def Matrix.macroWord (x : Matrix) (m : Nat) : W64 :=
  let a := x.active m
  let l := x.loading m
  packBits [(32, bits x.dmg (8 * m + 7) (8 * m)), (17, b1 l.bad), (16, b1 a.bad), (15, b1 a.valid), (12, a.fmt), (10, a.k), (8, a.n),
    (7, b1 l.valid), (4, l.fmt), (2, l.k), (0, l.n)]

/-- The node word (R226): a macro runs a token from its start until it completes. -/
def Matrix.nodeWord (x : Matrix) : W64 :=
  packBits [(48, x.cinv.toNat), (32, x.crr.toNat), (16, x.cdmg.toNat), (12, x.q.length),
    (8, ((List.range 4).map fun m => if x.q.any fun k => k.started && k.selects m then 2 ^ m else 0).sum),
    (7, b1 x.spec), (6, b1 x.clip), (5, b1 x.skip), (4, b1 x.lerr), (3, b1 x.short), (2, b1 x.lost)]

/-- MSTAT (R226). -/
def execMstat (d : Reg) (n : BitVec 3) (s : State) : Out :=
  runWord (.mstat d n) s fun c =>
    let t := s.cur.toNat
    let x := (s.tile t).mx
    if n.toNat < 4 then s.setCtx t (c.w d (x.macroWord n.toNat)).next
    else
      let y := if n = 5 then x.clear else x
      (s.setMx t y).setCtx t (c.w d x.nodeWord).next

/-- MWAIT (R227). -/
def execMwait (m : BitVec 4) (s : State) : Out :=
  runWord (.mwait m) s fun c =>
    let t := s.cur.toNat
    let x := (s.tile t).mx
    if ((List.range 4).all fun i => !(m == 0 || m.getLsbD i) || x.macroIdle i) && !s.stays t c then s.setCtx t c.next
    else s.hold t c .again

end Sys2Proof.Machine
end

