-- ==== Sys2Proof/Machine/Rill.lean ====
section
/-! DEFINITION. The rill array (R51, R231 to R248): graph images and their checks, vectors, and the rill words. -/

namespace Sys2Proof.Machine

open Sys2Proof

/-! ### Graph images (R51, R233, R235 to R237) -/

/-- A node: its place, its op and its sources. -/
structure RNode where
  ph : Nat
  col : Nat
  row : Nat
  op : Nat
  sa : Nat
  sb : Nat
  w : Nat
  a : Nat
  b : Nat
  ot : Bool
  deriving DecidableEq, Repr

/-- The node of a place and two node words (R51). -/
def RNode.of (pos : Nat) (w0 w1 : W32) : RNode :=
  ⟨bits w1 11 10, pos / 32 % 32, pos % 32, bits w0 31 29, bits w0 28 25, bits w0 24 21, bits w0 20 15 + 8, bits w1 31 22, bits w1 21 12,
    bits w1 8 8 == 1⟩

/-- The order of entries (R236). -/
def RNode.key (n : RNode) : Nat := 1024 * n.ph + 32 * n.col + n.row
/-- ADD, SUB and RSUB read two sources. -/
def RNode.binary (n : RNode) : Bool := n.op ≤ 2
/-- A source identity names a tap of the node. -/
def RNode.taps (n : RNode) (src : Nat) : Bool := src / 32 == n.col
/-- The sources that a node reads. -/
def RNode.srcs (n : RNode) : List Nat := if n.binary then [n.a, n.b] else [n.a]

/-- The width of a source that a graph supplies (R233, R237): `ns` are the nodes of the image. -/
def srcWidth (ns : List RNode) (nin : Nat) (n : RNode) (src : Nat) : Option Nat :=
  if n.taps src then
    (if n.ph = 0 then (if src % 32 < nin then some 8 else none)
     else (ns.find? fun m => m.ph + 1 == n.ph && m.ot && m.row == src % 32).map fun m => m.w)
  else if n.col < src / 32 then none
  else (ns.find? fun m => m.ph == n.ph && 32 * m.col + m.row == src).map fun m => m.w

/-- The least width that a node may declare (R233). -/
def RNode.least (n : RNode) (wa wb : Nat) : Nat :=
  match n.op with
  | 0 | 1 | 2 => max wa wb
  | 3 => wa
  | 4 => max 8 (wa - n.sa)
  | _ => 8

/-- An entry is accepted (R51, R233, R236, R237) among all the nodes of the image, behind the nodes `ns` before it. -/
def entryLegal (all ns : List RNode) (k nin : Nat) (e0 w0 w1 e3 : W32) : Bool :=
  let n := RNode.of (bits e0 9 0) w0 w1
  bits e0 31 10 == 0 && e3 == 0 && bits w0 14 0 == 0 && bits w1 7 0 == 0 && n.op ≤ 5 && n.w ≤ 48 && bits w1 9 9 == 1 && n.ph < k
    && (n.binary || (n.b == 0 && n.sb == 0)) && (n.op != 4 || n.sa != 0)
    && !(n.ot && ns.any fun m => m.ph == n.ph && m.ot && m.row == n.row)
    && (ns.all fun m => m.key < n.key)
    && match srcWidth all nin n n.a, (if n.binary then srcWidth all nin n n.b else some 0) with
      | some wa, some wb => n.least wa wb ≤ n.w
      | _, _ => false

/-- The interval of an ii code (R236). -/
def rillK (ii : Nat) : Nat := 2 ^ ii

/-- A graph as its image gives it. -/
structure Graph where
  ii : Nat
  nin : Nat
  nout : Nat
  nnode : Nat
  sig : W64
  deriving DecidableEq, Repr

/-- The header of an image. -/
def graphOf (bs : List Byte) : Graph :=
  ⟨bits (imgWord bs 3) 1 0, bits (imgWord bs 3) 12 8 + 1, bits (imgWord bs 3) 20 16 + 1, bits (imgWord bs 2) 12 0, imgDouble bs 24⟩

/-- Code 1 does not apply (R243). -/
def graphHeader (bs : List Byte) : Bool :=
  let len := (imgWord bs 1).toNat
  let g := graphOf bs
  imgWord bs 0 == 0x4B52494C && len % 64 == 0 && 64 ≤ len && len ≤ 65600 && g.ii != 3 && 1 ≤ g.nnode && g.nnode ≤ 4096
    && bits (imgWord bs 2) 31 13 == 0 && bits (imgWord bs 3) 31 21 == 0 && bits (imgWord bs 3) 15 13 == 0 && bits (imgWord bs 3) 7 2 == 0
    && ([4, 5, 8, 9, 10, 11, 12, 13, 14, 15].all fun i => imgWord bs i == 0) && 64 + 16 * g.nnode ≤ len

/-- The nodes that the entries of an image name. -/
def imageNodes (bs : List Byte) (n : Nat) : List RNode :=
  (List.range n).map fun e => RNode.of (bits (imgWord bs (16 + 4 * e)) 9 0) (imgWord bs (17 + 4 * e)) (imgWord bs (18 + 4 * e))

/-- The length of the image whose pages are checked: that of its header, or the header's own where the length is none of an image. -/
def graphLen (bs : List Byte) : Nat :=
  let len := (imgWord bs 1).toNat
  if len % 64 = 0 ∧ 64 ≤ len ∧ len ≤ 65600 then len else 64

/-- The entries one after another, to the first that is rejected. -/
def scanEntries (bs : List Byte) (all : List RNode) (k nin : Nat) : Nat → Nat → List RNode → List RNode × Option Nat
  | 0, _, ns => (ns, none)
  | n + 1, e, ns =>
    let w (i : Nat) : W32 := imgWord bs (16 + 4 * e + i)
    if entryLegal all ns k nin (w 0) (w 1) (w 2) (w 3) then scanEntries bs all k nin n (e + 1) (ns ++ [RNode.of (bits (w 0) 9 0) (w 1) (w 2)])
    else (ns, some e)

/-- The values live at the boundary before column `b` in a phase (R235). -/
def liveAt (ns : List RNode) (ph b : Nat) : Nat :=
  let rd := (ns.filter fun n => n.ph == ph && b ≤ n.col).flatMap fun n => n.srcs.map fun x => if n.taps x then 1024 + x % 32 else x
  (rd.filter fun x => 1024 ≤ x || x / 32 < b).eraseDups.length

/-- The source fields that read a value in a phase. -/
def fanOut (ns : List RNode) (ph v : Nat) : Nat :=
  ((ns.filter fun n => n.ph == ph).flatMap fun n => n.srcs.filter fun x => (if n.taps x then 1024 + x % 32 else x) == v).length

/-- csr.tval of the routing trap, or none where the graph can be placed (R235). -/
def routeFault (ns : List RNode) (k : Nat) : Option Nat :=
  ((List.range k).flatMap fun ph =>
    (((List.range 32).filter fun b => 1 ≤ b && 64 < liveAt ns ph b).map fun b => 4096 + 1024 * ph + 32 * b) ++
    (((List.range 1024).filter fun v => 16 < fanOut ns ph v).map fun v => 2 * 4096 + 1024 * ph + v) ++
    (((List.range 32).filter fun r => 16 < fanOut ns ph (1024 + r)).map fun r => 3 * 4096 + 1024 * ph + r)).head?

/-! ### Slots -/

/-- Slot `i`. -/
def Rill.at (r : Rill) (i : Nat) : RSlot := r.slots.getD i {}
/-- Entry `i` of the mode map (R244). -/
def Rill.map (r : Rill) (i : Nat) : Nat :=
  if i < 32 then r.map1.toNat / 4 ^ i % 4 else r.map2.toNat / 4 ^ (i - 32) % 4
/-- The slots of the graph that begins in slot `i`. -/
def Rill.span (r : Rill) (i : Nat) : List Nat :=
  if (r.at i).valid && (r.at i).head then (List.range (rillK (r.at i).ii)).map (i + ·) else []
/-- The slot is bound (R242). -/
def Rill.bound (r : Rill) (i : Nat) : Bool :=
  r.run && (if r.sel then (List.range 64).any fun j => r.map j == i else (r.span r.slot).contains i)
/-- A loaded graph lies partly inside and partly outside a set of slots (R243, R246). -/
def Rill.cuts (r : Rill) (f : Nat → Bool) : Bool :=
  (List.range 4).any fun i => (r.span i).any f && (r.span i).any fun j => !f j
/-- Free a slot (R246). -/
def Rill.clear (r : Rill) (f : Nat → Bool) : Rill :=
  { r with
    nodes := r.nodes.filter fun x => !f (x.1 / 1024)
    slots := (List.range 4).map fun i => if f i then {} else r.at i }

/-- The status of an image that passes the header check, before the routing trap (R243): code and detail, with the nodes. Of several faults of
code 3 the first bad entry is reported, else a padding byte, else an undriven tap, which is the model's choice (log 92). -/
def graphStatus (bs : List Byte) (r : Rill) (sl : Nat) : (Nat × Nat) × List RNode :=
  let g := graphOf bs
  let k := rillK g.ii
  let (ns, bad) := scanEntries bs (imageNodes bs g.nnode) k g.nin g.nnode 0 []
  let code : Nat × Nat :=
    if crc64 (blankBytes bs 24 8) ≠ g.sig then (2, 0)
    else match bad with
      | some e => (3, e)
      | none =>
        if (bs.drop (64 + 16 * g.nnode)).any fun b => b != 0 then (3, g.nnode)
        else if (List.range g.nout).any fun i => !(ns.any fun n => n.ph + 1 == k && n.ot && n.row == i) then (3, 0xFFFF)
        else if sl % k ≠ 0 ∨ r.cuts (fun j => sl ≤ j && j < sl + k) then (5, 0)
        else (0, 0)
  (code, ns)

/-- The array with a graph loaded from slot `sl` on (R243). That it, like RFREE and RSTAT, leaves the lost bit of the array word (R247) as it is
until the next launch is the model's choice (log 92). -/
def Rill.load (r : Rill) (bs : List Byte) (ns : List RNode) (sl : Nat) (va : W64) (asid : BitVec 16) : Rill :=
  let g := graphOf bs
  let k := rillK g.ii
  let r := r.clear fun j => sl ≤ j && j < sl + k
  let nodes := ((List.range ns.length).zip ns).foldl (fun (l : SMap (W32 × W32)) x =>
    let w1 := imgWord bs (18 + 4 * x.1)
    SMap.put l (1024 * sl + x.2.key) (imgWord bs (17 + 4 * x.1), (w1 &&& 0xFFFFF3FF#32) ||| BitVec.ofNat 32 (1024 * (sl + x.2.ph)))) r.nodes
  { r with
    nodes := nodes
    slots := (List.range 4).map fun i =>
      if sl ≤ i ∧ i < sl + k then ⟨true, i == sl, g.ii, g.nin, g.nout, g.sig, va, asid⟩ else r.at i }

/-- RLOAD (R243): a release at TILE scope (R147). -/
def execRload (d a : Reg) (n : BitVec 2) (s : State) : Out :=
  runWord (.rload d a n) s fun c =>
    let t := s.cur.toNat
    let va := c.r a
    let r := (s.tile t).rill
    let finish (code detail : Nat) (s : State) : State :=
      (if code = 0 then s else s.countTile t 7 1).setCtx t (c.w d (packBits [(0, code), (16, detail)])).next
    if va.toNat % 64 ≠ 0 then s.trap c 2 0 va
    else s.readOwn t c va 64 fun h =>
      s.readOwn t c va (graphLen h) fun bs =>
        if !graphHeader bs then finish 1 0 s
        else
          let (st, ns) := graphStatus bs r n.toNat
          let k := rillK (graphOf bs).ii
          if st.1 ≠ 0 then finish st.1 st.2 s
          else match routeFault ns k with
            | some v => (s.countTile t 7 1).trap c 6 5 (BitVec.ofNat 64 v)
            | none =>
              if (List.range 4).any fun j => n.toNat ≤ j && j < n.toNat + k && r.bound j then finish 4 0 s
              else finish 0 0 (s.updTile t fun tl => { tl with rill := r.load bs ns n.toNat va c.asid })

/-! ### Vectors (R232, R237 to R241) -/

/-- Sat of R7 at a signed width. -/
def satW (w : Nat) (x : Int) : Int × Bool := satInt x (-(2 : Int) ^ (w - 1)) ((2 : Int) ^ (w - 1) - 1)

/-- What a phase has computed: values of cells, values of output taps, breaches and SATO clamps. -/
structure Phase where
  vals : SMap Int := []
  outs : SMap Int := []
  brc : Nat := 0
  sato : Nat := 0
  deriving DecidableEq, Repr

/-- One node of a phase (R232). -/
def phaseNode (taps : SMap Int) (p : Phase) (n : RNode) : Phase :=
  let src (x : Nat) : Int := if n.taps x then SMap.getD taps (x % 32) 0 else SMap.getD p.vals x 0
  let a := src n.a
  let b := src n.b
  let x : Int := match n.op with
    | 0 => a * 2 ^ n.sa + b * 2 ^ n.sb
    | 1 => a * 2 ^ n.sa - b * 2 ^ n.sb
    | 2 => b * 2 ^ n.sb - a * 2 ^ n.sa
    | 4 => (a + 2 ^ (n.sa - 1)) / 2 ^ n.sa
    | _ => a * 2 ^ n.sa
  let (v, clamp) := satW n.w x
  { vals := SMap.put p.vals (32 * n.col + n.row) v
    outs := if n.ot then SMap.put p.outs n.row v else p.outs
    brc := p.brc + if clamp && n.op != 5 then 1 else 0
    sato := p.sato + if clamp && n.op == 5 then 1 else 0 }

/-- The nodes of a slot, column by column. -/
def Rill.nodesOf (r : Rill) (slot : Nat) : List RNode :=
  (r.nodes.filter fun x => x.1 / 1024 == slot).map fun x => RNode.of (x.1 % 1024) x.2.1 x.2.2

/-- Phases `j` to the last, each on the taps of the one before. -/
def Rill.phases (r : Rill) (slot : Nat) : Nat → Phase → Phase
  | 0, p => p
  | n + 1, p =>
    Rill.phases r (slot + 1) n ((r.nodesOf slot).foldl (phaseNode p.outs) { brc := p.brc, sato := p.sato })

/-- An input tap (R237). -/
def rillTap (fmt : Nat) (xs : List Tok) (i : Nat) : Int :=
  match xs[i / 16]? with
  | some x => if x.mask.getLsbD (i % 16) then sextNat (8 * 2 ^ fmt) (x.lanes.at (i % 16)).toNat else 0
  | none => 0

/-- A vector runs through the graph that begins in a slot: its output tokens, breaches and SATO clamps (R232, R237, R239). -/
def Rill.vector (r : Rill) (slot : Nat) (xs : List Tok) : List Tok × Nat × Nat :=
  let g := r.at slot
  let taps : SMap Int := (List.range g.nin).map fun i => (i, rillTap r.infmt xs i)
  let p := r.phases slot (rillK g.ii) { outs := taps }
  let outs := (List.range g.nout).map fun i => satW 32 (SMap.getD p.outs i 0)
  let brc := p.brc + (outs.filter fun x => x.2).length
  let x := match xs with
    | x :: _ => x.index % 64
    | [] => 0
  let index := (if brc = 0 then 0 else 128) + x
  ((List.range ((g.nout + 15) / 16)).map fun u =>
    ⟨mkHdr index (2 ^ (min 16 (g.nout - 16 * u)) - 1) 0 0, false, lanesOf fun j => BitVec.ofInt 32 (outs.getD (16 * u + j) (0, false)).1⟩,
    brc, p.sato)

/-- Vectors that the array can hold: one starts a cycle, and its first output leaves 33 cycles per phase later (R238). -/
def rillDepth : Nat := 34

/-- Change the array of a tile. -/
def State.setRill (s : State) (t : Nat) (r : Rill) : State := s.updTile t fun tl => { tl with rill := r }

/-- A vector starts (R238): its results are known, its breaches counted. That an RLOAD or RFREE of its slot does not touch a vector in flight is
the model's choice (log 92). -/
def State.rillStart (s : State) (t slot : Nat) (xs : List Tok) : State :=
  let r := (s.tile t).rill
  let (out, brc, sato) := r.vector slot xs
  (s.setRill t { r.tally brc sato 0 0 with half := none, infl := r.infl ++ [out] }).countTile t 9 brc

/-- The array takes the token at the head of its input port (R238, R240, R241), unless it is a marker. -/
def rillTake (t : Nat) (s : State) : State :=
  let tl := s.tile t
  let r := tl.rill
  if !r.run || r.closing || tl.frozen then s
  else match (tl.buf (vKey r.ivp)).toks with
    | [] => s
    | x :: _ =>
      let s1 := (s.setTile t (tl.pop (vKey r.ivp))).moved t
      if x.isMarker then s
      else if x.kind ≠ 0 then (s1.setRill t (r.tally 0 0 0 1)).countTile t 9 1
      else match r.half with
        | some (y, slot) => if r.infl.length < rillDepth then s1.rillStart t slot [y, x] else s
        | none =>
          let slot := if r.sel then r.map (x.index % 64) else r.slot
          let g := r.at slot
          if r.sel && !(g.valid && g.head && g.ii == 0) then s1.rillDrop t 1
          else if 16 < g.nin then s1.setRill t { r with half := some (x, slot) }
          else if r.infl.length < rillDepth then s1.rillStart t slot [x]
          else s

/-- RILL_VECTOR_START (R238, R241). -/
def execRillVectorStart (t : TileId) (s : State) : Out := .next (rillTake t.toNat s)

/-- A DRN has a token for an in port: when it and the array inject into the port in one cycle, its token enters first (R245). -/
def Tile.drains (t : Tile) (vp : Nat) : Bool :=
  t.mx.q.any fun k => k.op == 4 && k.started && !k.done && k.vp == vp && (t.mx.drainTok k).isSome

/-- The oldest output token is injected (R238, R239), behind a DRN's that can enter the port now (R245). -/
def rillInject (t : Nat) (s : State) : State :=
  let r := (s.tile t).rill
  match r.infl with
  | (x :: xs) :: vs =>
    if r.run && s.canInject t r.ovp && !(s.tile t).drains r.ovp then
      (s.setRill t { r with infl := if xs.isEmpty then vs else xs :: vs }).inject t r.ovp x
    else s
  | [] :: vs => s.setRill t { r with infl := vs }
  | [] => s

/-- RILL_OUTPUT_INJECT (R238, R239). -/
def execRillOutputInject (t : TileId) (s : State) : Out := .next (rillInject t.toNat s)

/-- A marker at the head (R240): a half-taken vector is dropped, and behind the outputs of the vectors before, the marker is injected
with the same code and consumed. -/
def rillMark (t : Nat) (s : State) : State :=
  let tl := s.tile t
  let r := tl.rill
  if !r.run || r.closing || tl.frozen then s
  else match (tl.buf (vKey r.ivp)).toks with
    | [] => s
    | x :: _ =>
      if !x.isMarker then s
      else
        let s := if r.half.isSome then (s.setRill t { r with half := none }).rillDrop t 1 else s
        if r.infl.isEmpty && s.canInject t r.ovp && !tl.drains r.ovp then
          ((s.updTile t fun tl => tl.pop (vKey r.ivp)).inject t r.ovp (mkMarker x.index 0 false)).moved t
        else s

/-- RILL_MARKER (R240). -/
def execRillMarker (t : TileId) (s : State) : Out := .next (rillMark t.toNat s)

/-! ### The rill words (R244, R246, R247) -/

/-- The operand of a part-0 RSEL is outside its allowed set (R244). -/
def rselValue (v : W64) : Bool :=
  bits64 v 63 22 != 0 || bits64 v 15 14 != 0 || bits64 v 7 6 != 0 || (v.getLsbD 0 && bits64 v 5 4 == 3)

/-- The ports and the slot that an arming RSEL names refuse it (R244, R261). -/
def State.rselRefused (s : State) (t : Nat) (v : W64) : Bool :=
  let tl := s.tile t
  let r : Rill := { tl.rill with ctl := v }
  r.run && (!tl.isOut r.ivp || tl.bound r.ivp || tl.matrixReads r.ivp || s.feeds t r.ivp || !tl.isIn r.ovp || tl.bound r.ovp
    || (!r.sel && !((r.at r.slot).valid && (r.at r.slot).head)))

/-- RSEL (R244): the checks are made once, before it waits. -/
def execRsel (d a : Reg) (p : BitVec 2) (s : State) : Out :=
  runWord (.rsel d a p) s fun c =>
    let t := s.cur.toNat
    let v := c.r a
    let r := (s.tile t).rill
    if p = 1 then (s.setRill t { r with map1 := v }).setCtx t (c.w d r.map1).next
    else if p = 2 then (s.setRill t { r with map2 := v }).setCtx t (c.w d r.map2).next
    else if !(r.closing || c.wait == .again) && rselValue v then s.trap c 6 8 v
    else if !(r.closing || c.wait == .again) && s.rselRefused t v then s.trap c 6 4 0
    else
      let s := if r.half.isSome then (s.setRill t { r with half := none }).rillDrop t 1 else s
      let r := (s.tile t).rill
      if r.infl.isEmpty && !s.stays t c then (s.setRill t { r with closing := false, ctl := v }).setCtx t (c.w d r.ctl).next
      else (s.setRill t { r with closing := true }).hold t c .again

/-- The array word (R247). -/
def Rill.arrayWord (r : Rill) : W64 :=
  packBits ((List.range 4).map (fun j => (16 + 4 * j, 8 * b1 (r.at j).valid + 4 * b1 (r.at j).head + (r.at j).ii)) ++
    [(32, b1 r.lost), (8, min 63 (r.infl.length + b1 r.half.isSome)), (0, bits64 r.ctl 7 0)])

/-- The counters word (R247). -/
def Rill.countWord (r : Rill) : W64 := packBits [(48, r.brc.toNat), (32, r.sato.toNat), (16, r.drop.toNat), (0, r.skip.toNat)]

/-- The counters are cleared: what has been counted in the present cycle stands (R247). -/
def Rill.cleared (r : Rill) : Rill := { r with brc := r.now.c3, sato := r.now.c2, drop := r.now.c1, skip := r.now.c0 }

/-- RSTAT (R247). -/
def execRstat (d : Reg) (n : BitVec 3) (s : State) : Out :=
  runWord (.rstat d n) s fun c =>
    let t := s.cur.toNat
    let r := (s.tile t).rill
    let v := if n = 0 then r.arrayWord else if n.toNat < 4 then r.countWord else (r.at (n.toNat - 4)).sig
    (if n = 2 then s.setRill t r.cleared else s).setCtx t (c.w d v).next

/-- RFREE (R246). -/
def execRfree (d : Reg) (m : BitVec 4) (s : State) : Out :=
  runWord (.rfree d m) s fun c =>
    let t := s.cur.toNat
    let r := (s.tile t).rill
    if (List.range 4).any fun j => m.getLsbD j && r.bound j then s.setCtx t (c.w d 4).next
    else if r.cuts m.getLsbD then s.setCtx t (c.w d 5).next
    else (s.setRill t (r.clear m.getLsbD)).setCtx t (c.w d 0).next

end Sys2Proof.Machine
end

