-- ==== Sys2Proof/Machine/Copy.lean ====
section
/-! DEFINITION. The copy engine complex (R250 to R261, R263 to R267): templates, firings cut into pieces, completion, suspension, and
the copy words. -/

namespace Sys2Proof.Machine

open Sys2Proof

/-! ### Templates (R251, R252, R264) -/

/-- src -/
def CSlot.src (c : CSlot) : W64 := c.dbl 0
/-- dst -/
def CSlot.dst (c : CSlot) : W64 := c.dbl 1
/-- sstride -/
def CSlot.ss (c : CSlot) : W64 := c.dbl 2
/-- dstride -/
def CSlot.ds (c : CSlot) : W64 := c.dbl 3
/-- ksrc -/
def CSlot.ksrc (c : CSlot) : W64 := c.dbl 4
/-- kdst -/
def CSlot.kdst (c : CSlot) : W64 := c.dbl 5
/-- wo -/
def CSlot.wo (c : CSlot) : Bool := c.ctl.getLsbD 29

/-- Every field keeps R251 and R252. -/
def CSlot.legal (c : CSlot) : Bool :=
  let m (n : Nat) (x : W64) : Bool := x.toNat % n == 0
  bits64 c.ctl 63 40 == 0 && bits64 c.ctl 11 8 == 0 && c.dbl 9 == 0 && c.dbl 10 == 0 && c.dbl 11 == 0
    && bits64 c.ctl 14 13 ≤ 1 && (c.dk || c.vp == 0) && (c.fe || c.fvp == 0) && (!c.dk || c.dst == 0)
    && (!c.wo || (!c.dk && m 8 c.dst && m 8 c.ds && c.len % 8 == 0 && (c.gather || m 8 c.kdst)))
    && (!c.chen || c.chain != c.fq)
    && 4 ≤ c.len && c.len ≤ 2 ^ 24 && c.len % 4 == 0
    && 1 ≤ c.rows && (c.gather || (c.rows ≤ 2 ^ 20 && c.rows * c.len < 2 ^ 32))
    && m 4 c.src && m 4 c.dst && m 4 c.ss && m 4 c.ds && (c.gather || (m 4 c.ksrc && m 4 c.kdst)) && m 16 c.tb

/-! ### Rows and pieces (R254 to R256) -/

/-- The lanes of a token that are valid, ascending. -/
def validLanes (x : Tok) : List Nat := (List.range 16).filter fun i => x.mask.getLsbD i

/-- Rows of a firing. -/
def CSlot.nrows (c : CSlot) (f : CopyFir) : Nat := if c.gather then (validLanes f.tok).length else c.rows

/-- The index that row `j` of a gather reads. -/
def rowIndex (f : CopyFir) (j : Nat) : Nat := (f.tok.lanes.at ((validLanes f.tok).getD j 0)).toNat

/-- Where row `j` is read from; none for a row of zeros. -/
def CSlot.rowSrc (c : CSlot) (f : CopyFir) (j : Nat) : Option W64 :=
  if c.gather then
    (if rowIndex f j < c.rows then some (c.src + BitVec.ofNat 64 (rowIndex f j) * c.ss) else none)
  else some (c.src + BitVec.ofNat 64 f.k * c.ksrc + BitVec.ofNat 64 j * c.ss)

/-- Where row `j` is written to. -/
def CSlot.rowDst (c : CSlot) (f : CopyFir) (j : Nat) : W64 :=
  if c.gather then c.dst + BitVec.ofNat 64 (f.k * 16 + j) * c.ds
  else c.dst + BitVec.ofNat 64 f.k * c.kdst + BitVec.ofNat 64 j * c.ds

/-- Bytes of a row's first piece. -/
def CSlot.firstLen (c : CSlot) (f : CopyFir) (j : Nat) : Nat :=
  if c.dk then min 64 c.len else min c.len (64 - (c.rowDst f j).toNat % 64)

/-- Pieces of a row. -/
def CSlot.rowPieces (c : CSlot) (f : CopyFir) (j : Nat) : Nat := 1 + (c.len - c.firstLen f j + 63) / 64

/-- A piece: its row, its offset within the row and its bytes. -/
structure Piece where
  row : Nat
  off : Nat
  n : Nat
  deriving DecidableEq, Repr

/-- Piece `i` counted from row `j` on, of `n` rows. -/
def CSlot.pieceFrom (c : CSlot) (f : CopyFir) : Nat → Nat → Nat → Option Piece
  | 0, _, _ => none
  | n + 1, j, i =>
    if i < c.rowPieces f j then
      let a := c.firstLen f j
      if i = 0 then some ⟨j, 0, a⟩ else some ⟨j, a + 64 * (i - 1), min 64 (c.len - (a + 64 * (i - 1)))⟩
    else CSlot.pieceFrom c f n (j + 1) (i - c.rowPieces f j)

/-- Piece `i` of a firing. -/
def CSlot.piece? (c : CSlot) (f : CopyFir) (i : Nat) : Option Piece := c.pieceFrom f (c.nrows f) 0 i

/-- The firing's byte count. -/
def CSlot.bytes (c : CSlot) (f : CopyFir) : Nat := c.nrows f * c.len

/-- The byte offset of piece `i` within the firing; the byte count where there is no such piece. -/
def CSlot.offset (c : CSlot) (f : CopyFir) (i : Nat) : Nat := match c.piece? f i with
  | some p => p.row * c.len + p.off
  | none => c.bytes f

/-- Piece `i` is performed. -/
def CopyFir.has (f : CopyFir) (i : Nat) : Bool := i < f.low || f.perf.contains i

/-- The lowest piece not performed, past those of the list: at most `n` of them. -/
def lowFrom : Nat → Nat → List Nat → Nat
  | 0, low, _ => low
  | n + 1, low, l => if l.contains low then lowFrom n (low + 1) l else low

/-- Piece `i` has been performed; a gather keeps what it has read, for the rows that read it again (R255). -/
def CopyFir.perform (f : CopyFir) (gather : Bool) (i : Nat) : CopyFir :=
  let l := insRising f.perf i
  let low := lowFrom l.length f.low l
  { f with low := low, perf := l.filter fun x => low ≤ x, issued := if gather then f.issued else f.issued.filter fun x => low ≤ x }

/-- The piece of a row that holds the row's byte `b`. -/
def CSlot.pieceAt (c : CSlot) (f : CopyFir) (row b : Nat) : Nat :=
  (List.range row).foldl (fun n r => n + c.rowPieces f r) (if b < c.firstLen f row then 0 else 1 + (b - c.firstLen f row) / 64)

/-- The pieces whose reads give piece `i` its bytes: of a gather those of the first row of the same index, which is read once within a firing
(R255); the piece's own where those were performed before a resumption. -/
def CSlot.readers (c : CSlot) (f : CopyFir) (i : Nat) : List Nat :=
  match c.piece? f i with
  | none => []
  | some p =>
    if !c.gather || f.issued.contains i then [i]
    else match (List.range p.row).find? fun r => rowIndex f r == rowIndex f p.row with
      | none => [i]
      | some r =>
        let x := c.pieceAt f r p.off
        let l := List.range' x (c.pieceAt f r (p.off + p.n - 1) + 1 - x)
        if l.all fun y => f.issued.contains y || !f.has y then l else [i]

/-- The agent of a piece's reads. -/
def copyAgent (d i p : Nat) (part : Nat) : Agent := .copy d i p part

/-! ### Fire queues and firings (R253) -/

/-- The slots of a region that serve a queue: one that is being killed serves none, which is the model's choice (log 48). -/
def State.serves (s : State) (d q h : Nat) : Bool := match s.server d q with
  | some (_, c) => c.region == h && c.st != 4
  | none => false

/-- The slot's region stands placed: a saved region's slots take no new fire token (R261). -/
def State.slotRuns (s : State) (c : CSlot) : Bool := match s.region? c.region with
  | some r => r.st == .running
  | none => false

/-- A token enters its fire queue (R253): from the feed port of a slot, or one that waited at its source. One that no slot of the region serves
is dropped and counted for its source, a slot (R258) or a lane (R401). -/
def fireEnqueue (d : Nat) (src : FireSrc) (s : State) : State :=
  match src with
  | .feed i =>
    match s.slot? d i with
    | none => s
    | some c =>
      let tl := s.tile c.tile
      if !c.fe || c.detFvp || c.st == 4 || tl.frozen || !s.slotRuns c || 16 ≤ (s.fireq d c.fq).length then s
      else match (tl.buf (vKey c.fvp)).toks with
        | x :: _ => ((s.setTile c.tile (tl.pop (vKey c.fvp))).setFireq d c.fq (s.fireq d c.fq ++ [x])).moved c.tile
        | [] => s
  | .waiting ix =>
    let x := s.die d
    match x.fwait[ix]? with
    | none => s
    | some w =>
      if !s.serves d w.q w.region then
        let s := s.setDie d { x with fwait := x.fwait.eraseIdx ix }
        match w.slot with
        | some i => s.slotDrop d i 1
        | none => s.countWork w.tile w.region 11 1
      else if 16 ≤ (s.fireq d w.q).length then s
      else (s.setDie d { x with fwait := x.fwait.eraseIdx ix }).setFireq d w.q (s.fireq d w.q ++ [w.tok])

/-- FIRE_TOKEN_ENQUEUE (R253). -/
def execFireTokenEnqueue (d : Nat) (src : FireSrc) (s : State) : Out := .next (fireEnqueue d src s)

/-- The head of a fire queue starts a firing (R253, R255); a token of another kind is consumed and counted as dropped. -/
def copyStart (d i : Nat) (s : State) : State :=
  match s.slot? d i with
  | none => s
  | some c =>
    match s.fireq d c.fq with
    | [] => s
    | x :: xs =>
      if c.st != 1 || !s.slotRuns c || x.isMarker then s
      else
        let s := s.setFireq d c.fq xs
        if x.kind ≠ 0 then s.slotDrop d i 1
        else
          let k := if c.gather then c.count else match validLanes x with
            | j :: _ => (x.lanes.at j).toNat
            | [] => 0
          let f : CopyFir := { k := k, tok := x }
          let z := if c.gather then ((List.range (c.nrows f)).filter fun j => (c.rowSrc f j).isNone).length else 0
          (s.setSlot d i { c with st := 2, fir := some f, count := (c.count + 1) % 2 ^ 32, done := 0, czf := sat16 c.czf z }).countWork
            c.tile c.region 10 z

/-- COPY_FIRING_START (R253, R255). -/
def execCopyFiringStart (d i : Nat) (s : State) : Out := .next (copyStart d i s)

/-- A marker at the head of the queue of a slot whose firings have completed (R253): injected with the same code, or consumed. -/
def copyMark (d i : Nat) (s : State) : State :=
  match s.slot? d i with
  | none => s
  | some c =>
    match s.fireq d c.fq with
    | [] => s
    | x :: xs =>
      if c.st != 1 || !s.slotRuns c || !x.isMarker then s
      else if !c.dk then s.setFireq d c.fq xs
      else if c.detVp then (s.setFireq d c.fq xs).slotDrop d i 1
      else if s.canInject c.tile c.vp then (s.setFireq d c.fq xs).inject c.tile c.vp (mkMarker x.index 0 false)
      else s

/-- COPY_MARKER (R253). -/
def execCopyMarker (d i : Nat) (s : State) : Out := .next (copyMark d i s)

/-! ### Reads and pieces (R255 to R260) -/

/-- Translate an access of a slot: the page, or the cause of R266 (`dst`: of a destination). -/
def State.copyPage (s : State) (d : Nat) (c : CSlot) (va : W64) (dst : Bool) : State × Except Nat TlbEnt :=
  let r := engTranslate s (.copy d) c.asid va (if dst then .store else .load) true
  (r.1, match r.2 with
    | .ok e => if dst && e.kind == .device then .error 4 else .ok e
    | .error k => .error (if k = 3 then (if dst then 2 else 1) else (if dst then 4 else 3)))

/-- The barrier's page: writable, normal (R138, R260, R268). An update that falls into a ring is dropped and counted (R150). -/
def State.copyBarrier (s : State) (d : Nat) (c : CSlot) : State × Option TlbEnt :=
  let r := engTranslate s (.copy d) c.asid c.tb .store true
  (r.1, match r.2 with
    | .ok e => if e.kind == .normal then some e else none
    | .error _ => none)

/-- Send an update of the slot's barrier: sectors and arrivals to take off (R258, R262). -/
def State.barSend (s : State) (d i : Nat) (c : CSlot) (e : TlbEnt) (ds da : Nat) : State :=
  if ringed s c.asid c.tb then s.countWork c.tile c.region 3 1
  else { s with bars := s.bars ++ [⟨s.nextId, c.tb, c.asid, e.phys c.tb, ds, da, d, i⟩], nextId := s.nextId + 1 }

/-- The bank queue of a read (R137, R255): home tile and bank of the sector it begins in. -/
def State.bankOfRead (s : State) (c : CSlot) (va : W64) : Nat := match walkTables s c.asid va with
  | some e => 16 * homeTile (e.phys va) + e.phys va / 640 % 16
  | none => 0

/-- A read that a firing owes: its piece, where it reads, and its bank queue. -/
structure DueRead where
  pc : Nat
  va : W64
  n : Nat
  bank : Nat
  deriving DecidableEq, Repr

/-- The reads that a firing owes inside the window of 64 pieces (R257), in piece order; an affine firing has one queue. -/
def State.copyDue (s : State) (c : CSlot) (f : CopyFir) : List DueRead :=
  (List.range 65).filterMap fun j =>
    let x := f.low + j
    if f.has x || f.issued.contains x || c.readers f x != [x] then none
    else (c.piece? f x).bind fun p => (c.rowSrc f p.row).map fun a =>
      let va := a + BitVec.ofNat 64 p.off
      ⟨x, va, p.n, if c.gather then s.bankOfRead c va else 0⟩

/-- The first of its queue (R257): an affine firing reads in piece order, a gather in ascending address within a bank queue: the
virtual address of the piece's source, which is the model's choice (log 48). -/
def DueRead.first (q : DueRead) (gather : Bool) (l : List DueRead) : Bool :=
  l.all fun x => x.bank != q.bank || (if gather then q.va.toNat ≤ x.va.toNat else q.pc ≤ x.pc)

/-- The address of the read of piece `i`, where it may be issued as far as its slot goes (R257). -/
def State.copyReadable (s : State) (c : CSlot) (f : CopyFir) (i : Nat) : Option W64 :=
  let l := s.copyDue c f
  (l.find? fun q => q.pc == i && q.first c.gather l).map (·.va)

/-- The pages of a read: each part's cause, or none. -/
def State.copyParts (s : State) (d : Nat) (c : CSlot) (va : W64) (n : Nat) : Option (Nat × W64) :=
  (sectorParts va n).findSome? fun (x : W64 × Nat) => match (s.copyPage d c x.1 false).2 with
    | .error k => some (k, x.1)
    | .ok _ => none

/-- The pieces of a slot whose reads may be issued, with their bank queues; none while one of them faults (R257, R260). -/
def State.copyReady (s : State) (d : Nat) (c : CSlot) : List (Nat × Nat) :=
  match c.fir with
  | none => []
  | some f =>
    if c.st != 2 then []
    else
      let l := s.copyDue c f
      (l.filter fun q => q.first c.gather l && (s.copyParts d c q.va q.n).isNone).map fun q => (q.pc, q.bank)

/-- How far `x` stands behind `last` in a turn of `n`. -/
def turnOf (n last x : Nat) : Nat := (x + n - last % n - 1) % n

/-- It is the turn of a read (R257): of its slot among the slots that have one ready, and of its bank queue among those of the slot. -/
def State.copyTurn (s : State) (d i : Nat) (c : CSlot) (b : Nat) : Bool :=
  let x := s.die d
  (x.slots.all fun y => y.1 == i || (s.copyReady d y.2).isEmpty || turnOf 64 x.lastSlot i ≤ turnOf 64 x.lastSlot y.1)
    && (s.copyReady d c).all fun y => turnOf (2 ^ 32) c.lastq b ≤ turnOf (2 ^ 32) c.lastq y.2

/-- COPY_READ_ISSUE (R257). -/
def copyRead (d i pc : Nat) (s : State) : State :=
  match s.slot? d i with
  | none => s
  | some c =>
    match c.fir with
    | none => s
    | some f =>
      match c.piece? f pc with
      | none => s
      | some p =>
        match s.copyReadable c f pc with
        | none => s
        | some va =>
          let b := if c.gather then s.bankOfRead c va else 0
          if c.st != 2 || (s.copyParts d c va p.n).isSome || !s.copyTurn d i c b then s
          else
            let s := (s.engIssue (copyAgent d i pc) (.copy d) c.asid va p.n c.tile).1
            let s := s.setDie d { s.die d with lastSlot := i }
            s.setSlot d i { c with lastq := b, fir := some { f with issued := insRising f.issued pc } }

/-- COPY_READ_ISSUE. -/
def execCopyReadIssue (d i pc : Nat) (s : State) : Out := .next (copyRead d i pc s)

/-- A byte address lies in the source of the firing. -/
def CSlot.inSource (c : CSlot) (f : CopyFir) (a : W64) : Bool := (List.range (c.nrows f)).any fun j => match c.rowSrc f j with
  | some b => (a - b).toNat < c.len
  | none => false

/-- A read that a piece takes bytes from has failed (R259). -/
def State.pieceBad (s : State) (d i : Nat) (c : CSlot) (f : CopyFir) (pc : Nat) : Bool :=
  s.reqs.any fun q => q.failed && q.op == .read && (c.readers f pc).any fun x => q.agent == copyAgent d i x 0 || q.agent == copyAgent d i x 1

/-- The bytes of a piece and whether its read failed (R255, R259); none while they have not come. -/
def State.pieceData (s : State) (d i : Nat) (c : CSlot) (f : CopyFir) (pc : Nat) (p : Piece) : Option (List Byte × Bool) :=
  match c.rowSrc f p.row with
  | none => some (List.replicate p.n 0, false)
  | some a =>
    let part (x : Nat) : Option (List Byte) :=
      if !f.issued.contains x then none
      else (c.piece? f x).bind fun q => (s.engData (copyAgent d i x) (a + BitVec.ofNat 64 q.off) q.n).map fun bs =>
        (bs.drop (p.off - q.off)).take (min (p.off + p.n) (q.off + q.n) - max p.off q.off)
    let l := c.readers f pc
    if l.any fun x => (part x).isNone then none
    else
      let bad := s.pieceBad d i c f pc
      some (if bad then List.replicate p.n 0 else l.flatMap fun x => (part x).getD [], bad)

/-- The answers of every piece before this one have come, so that its own leaves the reorder stage: responses leave in request order (R142,
R148), the rows of a gather in the order of their tags (R255). A suspended slot takes what has come (R260). -/
def State.inOrder (s : State) (d i : Nat) (c : CSlot) (f : CopyFir) (pc : Nat) : Bool :=
  c.st == 3 || (List.range (pc - f.low)).all fun j => f.has (f.low + j) || match c.piece? f (f.low + j) with
    | some p => (s.pieceData d i c f (f.low + j) p).isSome
    | none => false

/-- The bytes written by a piece: those that the source range overlaps are undefined (R254, log 7). -/
def State.overlapped (s : State) (c : CSlot) (f : CopyFir) (va : W64) (bs : List Byte) : List Byte :=
  ((List.range bs.length).zip bs).map fun x =>
    if c.inSource f (va + BitVec.ofNat 64 x.1) then Config.freeByte (s.free + x.1) else x.2

/-- The write of a piece that is out (R256). -/
def State.pieceOut (s : State) (d i pc : Nat) : Option Req := s.reqs.find? fun q => q.agent == copyAgent d i pc 0 && q.op == .write

/-- A piece has been performed (R258, R259): its update goes to the barrier, or is owed where the barrier's page refuses it (R260); what it
counts, and its requests are forgotten, but for the reads that a gather keeps (R255). -/
def State.pieceDone (s : State) (d i : Nat) (c : CSlot) (f : CopyFir) (pc zf wor drops : Nat) : State :=
  let upd : State × Nat := if c.tb = 0 then (s, 0) else match s.copyBarrier d c with
    | (s1, some e) => (s1.barSend d i c e 1 0, 0)
    | (_, none) => (s, 1)
  let s := upd.1
  let s := if c.gather then { s with reqs := s.reqs.filter fun q => !(q.agent == copyAgent d i pc 0 && q.op == .write) }
    else s.engDone (copyAgent d i pc)
  (s.setSlot d i { c with fir := some (f.perform c.gather pc), owed := c.owed + upd.2, czf := sat16 c.czf zf, cwor := sat16 c.cwor wor, cdrop := sat16 c.cdrop drops }).countWork
    c.tile c.region 10 (zf + wor + drops)

/-- A piece whose data are there goes out (R256, R259): its token is injected and the piece performed, or its write is issued; one that falls
into a ring is dropped and counted as an access lost (R150). A suspended slot goes on with the pieces above its offset, to memory only
(R260). That a gather's piece with no read of its own goes out so too, however far above the offset, is the model's choice (log 98), and so is
that a piece whose token a detached port drops counts as performed (R261, log 99). -/
def State.pieceSend (s : State) (d i : Nat) (c : CSlot) (f : CopyFir) (pc : Nat) (p : Piece) (bs : List Byte) (bad : Bool) : State :=
  if f.has pc || !s.inOrder d i c f pc || !(c.st == 2 || (c.st == 3 && !c.dk && c.offset f pc > c.off && !bad)) then s
  else if c.dk then
    if pc ≠ f.low then s
    else if c.detVp then s.pieceDone d i c f pc (b1 bad) 0 1
    else if s.slotRuns c && s.canInject c.tile c.vp then
      let index := if c.gather then (16 * f.k + p.row) % 256 else pc % 256
      let x : Tok := ⟨mkHdr index (2 ^ (p.n / 4) - 1) 0 0, false, lanesOf fun j => BitVec.ofNat 32 (leNat ((bs.drop (4 * j)).take 4))⟩
      (s.inject c.tile c.vp x).pieceDone d i c f pc (b1 bad) 0 0
    else s
  else
    let va := c.rowDst f p.row + BitVec.ofNat 64 p.off
    match s.copyPage d c va true with
    | (_, .error _) => s
    | (s1, .ok e) =>
      if ringed s c.asid va then (s1.countWork c.tile c.region 3 1).pieceDone d i c f pc (b1 bad) 0 0
      else (s1.addReq (engWriteReq s1 (copyAgent d i pc 0) e c.asid va (s1.overlapped c f va bs) c.tile)).draw p.n

/-- One move of a piece (R256, R258): it goes out, or the write that it issued has been performed at its home, and so has the piece. -/
def copyPiece (d i pc : Nat) (s : State) : State :=
  match s.slot? d i with
  | none => s
  | some c =>
    match c.fir with
    | none => s
    | some f =>
      match c.piece? f pc, s.pieceOut d i pc with
      | none, _ => s
      | some _, some q => if q.st == .performed && !f.has pc then s.pieceDone d i c f pc (b1 (s.pieceBad d i c f pc)) q.drops 0 else s
      | some p, none =>
        match s.pieceData d i c f pc p with
        | none => s
        | some (bs, bad) => s.pieceSend d i c f pc p bs bad

/-- COPY_PIECE_PERFORMED (R258). -/
def execCopyPiecePerformed (d i pc : Nat) (s : State) : Out := .next (copyPiece d i pc s)

/-- BARRIER_UPDATE (R258, R262): one update of a barrier is performed at its home; one that a port which is down loses is counted (R118, R388). -/
def barrierStep (ix : Nat) (s : State) : State :=
  match s.bars[ix]? with
  | none => s
  | some b =>
    let (v, clamp) := tbUpdate (s.mem.nat b.pa 16) b.ds b.da
    if s.peerDown b.pa then { s with bars := s.bars.eraseIdx ix }.count (ctrTile (rootTile b.die) 3) 1
    else ({ s with bars := s.bars.eraseIdx ix, mem := s.mem.putBytes b.pa (leBytes 16 v) }).countHome b.pa 13 clamp

/-- BARRIER_UPDATE. -/
def execBarrierUpdate (ix : Nat) (s : State) : Out := .next (barrierStep ix s)

/-- No barrier update of the slot is on its way. -/
def State.barsDone (s : State) (d i : Nat) : Bool := !(s.bars.any fun b => b.die == d && b.slot == i)

/-- The record that a completion pushes (R258). -/
def CSlot.pipRec (c : CSlot) (k : Nat) : List W64 :=
  let w0 := c.dbl 12
  [if c.pinc then setField w0 63 48 (min 65535 (bits64 w0 63 48 + k)) else w0, setField (c.dbl 13) 31 0 k, c.dbl 14, c.dbl 15]

/-- The push at a completion, as WPUSH makes it at SYS (R258, R319), with the pip's number; it waits while the store cannot take the pip
(R302), and pushes nothing where the region is in no domain. -/
def State.copyPush (s : State) (d i : Nat) (c : CSlot) (k : Nat) : State :=
  match (s.region? c.region).bind fun r => r.domain.bind fun n => (s.dom? n).map fun dm => (n, dm) with
  | none => s.setSlot d i { c with done := 2 }
  | some (n, dm) =>
    let w := pushRec n (c.pipRec k)
    if s.cascTakes n dm (dm.serving d) then
      let r := s.accept n (dm.serving d) w c.tile 0 true
      r.1.setSlot d i { c with pushed := some r.2 }
    else s

/-- The next completion step of a firing whose pieces are all performed (R258): updates that its barrier is owed, arrival, pip push, chain, and
then the firing is complete. -/
def copyComplete (d i : Nat) (s : State) : State :=
  match s.slot? d i with
  | none => s
  | some c =>
    match c.fir with
    | none => s
    | some f =>
      let finish (s : State) : State :=
        match s.slot? d i with
        | some c =>
          let s := s.setSlot d i { c with st := 1, fir := none, done := 0, cfir := sat16 c.cfir 1 }
          { s with reqs := s.reqs.filter fun q => match q.agent with
              | .copy d' i' _ _ => !(d' == d && i' == i)
              | _ => true }
        | none => s
      if c.st != 2 || (c.piece? f f.low).isSome || !s.barsDone d i then s
      else match c.done with
        | 0 =>
          if c.tb = 0 then s.setSlot d i { c with done := 1 }
          else match s.copyBarrier d c with
            | (s1, some e) =>
              if 0 < c.owed then (s1.setSlot d i { c with owed := c.owed - 1 }).barSend d i c e 1 0
              else (s1.setSlot d i { c with done := 1 }).barSend d i c e 0 1
            | (_, none) => s
        | 1 =>
          if !c.pip then s.setSlot d i { c with done := 2 }
          else match c.pushed with
            | none => s.copyPush d i c f.k
            | some id => if s.unsettled id then s else s.setSlot d i { c with done := 2, pushed := none }
        | 2 =>
          if !c.chen then finish s
          else if !s.serves d c.chain c.region then finish (s.slotDrop d i 1)
          else
            let x : Tok := ⟨mkHdr 0 1 0 0, false, lanesOf fun j => if j = 0 then BitVec.ofNat 32 f.k else 0⟩
            if (s.fireq d c.chain).length < 16 then finish (s.setFireq d c.chain (s.fireq d c.chain ++ [x]))
            else (s.setDie d { s.die d with fwait := (s.die d).fwait ++ [⟨c.chain, x, some i, c.region, none, c.tile⟩] }).setSlot d i { c with done := 3 }
        | _ => if (s.die d).fwait.any fun w => w.slot == some i then s else finish s

/-- COPY_FIRING_COMPLETE (R258). -/
def execCopyFiringComplete (d i : Nat) (s : State) : Out := .next (copyComplete d i s)

/-- Suspend a slot (R260): what is recorded, and the fault token. -/
def State.suspendSlot (s : State) (d i : Nat) (c : CSlot) (cause : Nat) (va : W64) (off : Nat) : State :=
  let keep (q : Req) : Bool := !c.dk || match q.agent with
    | .copy d' i' _ _ => !(d' == d && i' == i && q.st == .performed)
    | _ => true
  let s := s.setSlot d i { c with st := 3, cause := cause, fva := va, off := off }
  ({ s with reqs := s.reqs.filter keep }).report (causeWord false 0 0x31) va 0 c.tile c.region

/-- A fault on the source of a piece, on its destination, or on the barrier (`pc` names no piece) suspends the firing (R260): on the barrier once
every piece has been performed, so that o is the byte count (log 87); elsewhere while no write of the lowest piece is out, so that o stands. -/
def copyFault (d i pc : Nat) (s : State) : State :=
  match s.slot? d i with
  | none => s
  | some c =>
    match c.fir with
    | none => s
    | some f =>
      if c.st != 2 then s
      else match c.piece? f pc with
        | none =>
          if c.done == 0 && c.tb != 0 && (c.piece? f f.low).isNone && (s.copyBarrier d c).2.isNone then s.suspendSlot d i c 5 c.tb (c.bytes f) else s
        | some p =>
          let o := c.offset f f.low
          if (s.pieceOut d i f.low).isSome then s
          else match s.copyReadable c f pc with
          | some va =>
            match s.copyParts d c va p.n with
            | some (k, a) => s.suspendSlot d i c k a o
            | none => s
          | none =>
            let va := c.rowDst f p.row + BitVec.ofNat 64 p.off
            if c.dk || f.has pc || (s.pieceOut d i pc).isSome || (s.pieceData d i c f pc p).isNone then s
            else match (s.copyPage d c va true).2 with
              | .error k => s.suspendSlot d i c k va o
              | .ok _ => s

/-- COPY_FAULT (R260). -/
def execCopyFault (d i pc : Nat) (s : State) : Out := .next (copyFault d i pc s)

/-- Every request of a killed slot is answered: it is free (R267). -/
def copyKillDrained (d i : Nat) (s : State) : State :=
  match s.slot? d i with
  | some c => if c.st == 4 && !s.slotBusy d i then s.freeSlot d i else s
  | none => s

/-- COPY_KILL_DRAINED (R267). -/
def execCopyKillDrained (d i : Nat) (s : State) : Out := .next (copyKillDrained d i s)

/-! ### The copy words (R264 to R267) -/

/-- CPARM's status for a template (R264). -/
def State.cparmStatus (s : State) (t i : Nat) (c : CSlot) : Nat :=
  let d := tileDie t
  let tl := s.tile t
  if !c.legal then 1
  else if c.region == 0 || (match s.slot? d i with
      | some o => o.region != c.region || o.st != 1 || !(s.fireq d o.fq).isEmpty
      | none => false) then 2
  else if (match s.server d c.fq with
      | some (j, _) => j != i
      | none => false) then 3
  else if (c.dk && (!tl.isIn c.vp || tl.bound c.vp)) ||
      (c.fe && (!tl.isOut c.fvp || tl.bound c.fvp || tl.rillReads c.fvp || tl.matrixReads c.fvp)) then 4
  else 0

/-- CPARM (R264): a release at DIE scope. -/
def execCparm (d a : Reg) (n : BitVec 6) (s : State) : Out :=
  runWord (.cparm d a n) s fun c =>
    let t := s.cur.toNat
    let va := c.r a
    if s.outstanding t then s.hold t c .again
    else if va.toNat % 64 ≠ 0 then s.trap c 2 0 va
    else s.readOwn t c va 128 fun bs =>
      let x : CSlot := { region := (s.tile t).region, tile := t, asid := c.asid, tpl := doublesOf 16 bs }
      let st := s.cparmStatus t n.toNat x
      let x := match s.slot? (tileDie t) n.toNat with
        | some o => { x with cfir := o.cfir, cdrop := o.cdrop, czf := o.czf, cwor := o.cwor }
        | none => x
      (if st = 0 then s.setSlot (tileDie t) n.toNat x else s).setCtx t (c.w d (BitVec.ofNat 64 st)).next

/-- CPFIRE (R265, R314): a release at DIE scope. -/
def execCpfire (d a b : Reg) (s : State) : Out :=
  runWord (.cpfire d a b) s fun c =>
    let t := s.cur.toNat
    let e := tileDie t
    let q := bits64 (c.r a) 7 0
    let form := bits64 (c.r a) 15 8
    let code := bits64 (c.r b) 7 0
    if s.outstanding t then s.hold t c .again
    else if 1 < form then s.trap c 6 8 (c.r a)
    else if form = 1 ∧ !markerLegal code then s.trap c 6 8 (c.r b)
    else
      let x : Tok := if form = 1 then mkMarker code 0 false
        else ⟨mkHdr 0 1 0 0, false, lanesOf fun j => if j = 0 then (c.r b).setWidth 32 else 0⟩
      let h := (s.tile t).region
      if h = 0 ∨ !s.serves e q h then (s.countTile t 10 1).setCtx t (c.w d 2).next
      else if 16 ≤ (s.fireq e q).length then s.setCtx t (c.w d 1).next
      else (((s.effects t).setFireq e q (s.fireq e q ++ [x]))).setCtx t (c.w d 0).next

/-- A context may act on a slot (R266, R267): one of the slot's region, or one at the monitor level of the die. -/
def State.ownsSlot (s : State) (t : Nat) (c : Ctx) (x : CSlot) : Bool :=
  c.lvl || ((s.tile t).region == x.region && x.region != 0)

/-- The done mask (R260): the pieces performed behind the piece at o; no piece stands behind the end of a firing that its barrier suspended. -/
def CSlot.doneMask (c : CSlot) : W64 := match c.fir with
  | some f => if c.st == 3 && !c.dk && c.cause != 5 then packBits ((List.range 64).map fun j => (j, b1 (f.has (f.low + 1 + j)))) else 0
  | none => 0

/-- The slot word (R266). -/
def State.slotWord (s : State) (d : Nat) (c : CSlot) : W64 :=
  packBits [(40, c.st), (37, c.cause), (32, (s.fireq d c.fq).length),
    (0, if c.st = 3 then c.off else match c.fir with
      | some f => c.offset f f.low
      | none => 0)]

/-- CPSTAT (R266). -/
def execCpstat (d a : Reg) (n : BitVec 6) (s : State) : Out :=
  runWord (.cpstat d a n) s fun c =>
    let t := s.cur.toNat
    let v : W64 := match s.slot? (tileDie t) n.toNat with
      | some x =>
        if !s.ownsSlot t c x then 0
        else match bits64 (c.r a) 1 0 with
          | 0 => s.slotWord (tileDie t) x
          | 1 => x.fva
          | 2 => x.doneMask
          | _ => packBits [(48, x.cfir.toNat), (32, x.cdrop.toNat), (16, x.czf.toNat), (0, x.cwor.toNat)]
      | none => 0
    s.setCtx t (c.w d v).next

/-- The pieces of a slot whose writes are out. -/
def State.piecesOut (s : State) (d i : Nat) : List Nat := s.reqs.foldl (fun l q => match q.agent with
  | .copy d' i' p _ => if d' == d && i' == i && q.op == .write then insRising l p else l
  | _ => l) []

/-- A suspended slot goes on (R260, R267): what was not performed is read again, but for the pieces whose writes are out. -/
def State.resumeSlot (s : State) (d i : Nat) (c : CSlot) : State :=
  let l := s.piecesOut d i
  let s := { s with reqs := s.reqs.filter fun q => match q.agent with
    | .copy d' i' p _ => !(d' == d && i' == i) || l.contains p
    | _ => true }
  s.setSlot d i { c with st := 2, cause := 0, fva := 0, off := 0, fir := c.fir.map fun f => { f with issued := l } }

/-- CPRES (R267). -/
def execCpres (d : Reg) (n : BitVec 6) (s : State) : Out :=
  runWord (.cpres d n) s fun c =>
    let t := s.cur.toNat
    match s.slot? (tileDie t) n.toNat with
    | some x =>
      if !s.ownsSlot t c x then s.setCtx t (c.w d 3).next
      else if x.st = 3 then (s.resumeSlot (tileDie t) n.toNat x).setCtx t (c.w d 0).next
      else s.setCtx t (c.w d 1).next
    | none => s.setCtx t (c.w d 1).next

/-- CPKILL (R267). -/
def execCpkill (d : Reg) (n : BitVec 6) (s : State) : Out :=
  runWord (.cpkill d n) s fun c =>
    let t := s.cur.toNat
    match s.slot? (tileDie t) n.toNat with
    | some x =>
      if !s.ownsSlot t c x then s.setCtx t (c.w d 3).next
      else (s.killSlot (tileDie t) n.toNat).setCtx t (c.w d 0).next
    | none => s.setCtx t (c.w d 1).next

end Sys2Proof.Machine
end

