-- ==== Sys2Proof/Machine/Barriers.lean ====
section
/-! DEFINITION. The transaction-barrier words (R262, R268, R269). -/

namespace Sys2Proof.Machine

open Sys2Proof

/-- A barrier word that updates (R268): a release at its scope. `bad` is the capacity check of its operand. -/
def barrierWord (i : Instr) (op : HomeOp) (d a b : Reg) (sc : BitVec 2) (bad : W64 → Bool) (s : State) : Out :=
  runWord i s fun c =>
    let t := s.cur.toNat
    let va := c.r a
    s.withPage t c va .store (checkAtomic s t c.asid va 16 true false) fun e =>
      if bad (c.r b) then s.trap c 6 8 (c.r b)
      else if !s.released t sc.toNat then s.hold t c .again
      else if 16 ≤ s.loadsOut t then s.hold t c .again
      else s.issue t c { mkReq s t op e va 16 with reg := some d, dat := lowBytes 8 (c.r b) } false

/-- TBINIT. -/
def execTbinit (d a b : Reg) (sc : BitVec 2) (s : State) : Out :=
  barrierWord (.tbinit d a b sc) .tbInit d a b sc (fun v => bits64 v 31 28 != 0) s
/-- TBARR. -/
def execTbarr (d a b : Reg) (sc : BitVec 2) (s : State) : Out :=
  barrierWord (.tbarr d a b sc) .tbArr d a b sc (fun _ => false) s
/-- TBEXP. -/
def execTbexp (d a b : Reg) (sc : BitVec 2) (s : State) : Out :=
  barrierWord (.tbexp d a b sc) .tbExp d a b sc (fun _ => false) s

/-- TBTEST (R268): one read, an acquire. -/
def execTbtest (d a : Reg) (sc : BitVec 2) (s : State) : Out :=
  runWord (.tbtest d a sc) s fun c =>
    let t := s.cur.toNat
    match c.wait with
    | .access id => s.answeredWord t c id
    | _ =>
      let va := c.r a
      s.withPage t c va .load (checkAtomic s t c.asid va 16 false true) fun e =>
        if 16 ≤ s.loadsOut t then s.hold t c .again
        else s.issue t c { mkReq s t .tbTest e va 16 with reg := some d } true

/-- The read of a waiting TBWAIT is not answered. -/
def State.tbWaiting (s : State) (t : Nat) : Bool := s.reqs.any fun q => q.agent == .ctx t && q.op == .tbWait

/-- TBWAIT (R269): one read at the home, an acquire, that the home holds back while the phase equals g(b). -/
def execTbwait (d a b : Reg) (sc : BitVec 2) (s : State) : Out :=
  runWord (.tbwait d a b sc) s fun c =>
    let t := s.cur.toNat
    match c.wait with
    | .until _ => if s.tbWaiting t then s else s.setCtx t c.next
    | _ =>
      let va := c.r a
      s.withPage t c va .load (checkAtomic s t c.asid va 16 false true) fun e =>
        if 16 ≤ s.loadsOut t then s.hold t c .again
        else (s.addReq { mkReq s t .tbWait e va 16 with reg := some d, expect := c.r b &&& 15, acked := true }).hold t c
          (.until (s.cycles (islandOf t) + 4096))

/-- The 4,096 cycles of a TBWAIT are over (R269). -/
def tbTimeout (t : Nat) (s : State) : State :=
  match s.ctxAt t with
  | some c =>
    match c.wait with
    | .until cyc =>
      if (s.cycles (islandOf t)).toNat < cyc.toNat then s
      else match s.reqs.find? fun q => q.agent == .ctx t && q.op == .tbWait with
        | some q => s.tbExpire q.id
        | none => s
    | _ => s
  | none => s

/-- TBWAIT_TIMEOUT (R269). -/
def execTbwaitTimeout (t : TileId) (s : State) : Out := .next (tbTimeout t.toNat s)

end Sys2Proof.Machine
end

