-- ==== Sys2Proof/Machine/Lanes.lean ====
section
/-! DEFINITION. Codec lanes (R271 to R277, R286 to R297): what a Sluice lane makes of its bitstream and a Spout lane of its tokens. The
codec standards are no part of the spec: what the bitstream says comes with each step, and the bits that the encoder writes are a free
function of the blocks it codes (log 13). -/

namespace Sys2Proof.Machine

open Sys2Proof

/-! ### Descriptors (R292) -/

/-- Double `i` of a lane's descriptor. -/
def Lane.dbl (l : Lane) (i : Nat) : W64 := l.desc.getD i 0
/-- Sluice: len. -/
def Lane.len (l : Lane) : Nat := (l.dbl 1).toNat
/-- Sluice: nfr. -/
def Lane.nfr (l : Lane) : Nat := (l.dbl 3).toNat
/-- Spout: slotsz. -/
def Lane.slotsz (l : Lane) : Nat := bits64 (l.dbl 1) 31 0
/-- Spout: nslot. -/
def Lane.nslot (l : Lane) : Nat := bits64 (l.dbl 1) 47 32
/-- Spout: the codec is AV1. -/
def Lane.av1 (l : Lane) : Bool := (l.dbl 2).getLsbD 0
/-- The ports L, C, M and S. -/
def Lane.ports (l : Lane) (spout : Bool) : List Nat := if spout then l.spoutPorts else l.sluicePorts
/-- Port `i` of L, C, M, S. -/
def Lane.port (l : Lane) (spout : Bool) (i : Nat) : Nat := (l.ports spout).getD i 0
/-- The fire queue, where fqen = 1. -/
def Lane.fireq (l : Lane) (spout : Bool) : Option Nat :=
  if spout then (if (l.dbl 2).getLsbD 40 then some (bits64 (l.dbl 2) 55 48) else none)
  else if (l.dbl 2).getLsbD 3 then some (bits64 (l.dbl 2) 15 8) else none

/-- A Sluice descriptor keeps the table. -/
def Lane.sluiceLegal (l : Lane) : Bool :=
  let c := l.dbl 2
  1 ≤ l.len && l.len < 2 ^ 32 && bits64 c 1 0 ≤ 2 && bits64 c 7 4 == 0 && bits64 c 19 16 ≤ 9 && bits64 c 23 20 == 0
    && bits64 c 31 30 == 0 && bits64 c 39 38 == 0 && bits64 c 47 46 == 0 && bits64 c 63 54 == 0
    && (l.desc.drop 4).all fun x => x == 0

/-- A Spout descriptor keeps the table. -/
def Lane.spoutLegal (l : Lane) : Bool :=
  let c := l.dbl 2
  let w := bits64 (l.dbl 3) 15 0
  let h := bits64 (l.dbl 3) 31 16
  (l.dbl 0).toNat % 64 == 0 && l.slotsz % 64 == 0 && 4096 ≤ l.slotsz && l.slotsz ≤ 2 ^ 28 && 1 ≤ l.nslot && l.nslot ≤ 256
    && bits64 (l.dbl 1) 63 48 == 0 && bits64 c 3 1 == 0 && bits64 c 7 4 ≤ 9 && bits64 c 15 14 == 0 && bits64 c 23 22 == 0
    && bits64 c 31 30 == 0 && bits64 c 39 38 == 0 && bits64 c 47 41 == 0 && bits64 c 63 56 == 0
    && 2 ≤ w && 2 ≤ h && (l.av1 || (w % 2 == 0 && h % 2 == 0)) && bits64 (l.dbl 3) 63 32 == 0
    && (l.desc.drop 4).all fun x => x == 0

/-- A port is used by a lane, a copy slot, the rill array or a queued matrix token of the tile (R292). -/
def State.portUsed (s : State) (t vp : Nat) : Bool :=
  let d := s.die (tileDie t)
  let tl := s.tile t
  (d.sluice.any fun x => x.2.tile == t && x.2.sluicePorts.contains vp) || (d.spout.any fun x => x.2.tile == t && x.2.spoutPorts.contains vp)
    || (d.slots.any fun x => x.2.tile == t && ((x.2.dk && x.2.vp == vp) || (x.2.fe && x.2.fvp == vp)))
    || (tl.rill.run && (tl.rill.ivp == vp || tl.rill.ovp == vp))
    || tl.mx.q.any fun m => m.readsPort == some vp || (m.op == 4 && m.vp == vp)

/-- The status of a binding (R292). -/
def State.laneStatus (s : State) (spout : Bool) (n : Nat) (l : Lane) : Nat :=
  let tl := s.tile l.tile
  let ps := l.ports spout
  if !(if spout then l.spoutLegal else l.sluiceLegal) then 1
  else if l.region == 0 || (s.lane? (tileDie l.tile) spout n).isSome then 2
  else if !decide ps.Nodup || ps.any fun p => !(if spout then tl.isOut p else tl.isIn p) || tl.bound p || s.portUsed l.tile p then 3
  else 0

/-- A suspended lane of the caller's region goes on (R292, R295). -/
def State.resumeLane (s : State) (t : Nat) (spout : Bool) (n : Nat) : State × Nat :=
  match s.lane? (tileDie t) spout n with
  | some l =>
    if l.region != (s.tile t).region then (s, 2)
    else if l.st = 2 then (s.setLane (tileDie t) spout n { l with st := 1, cause := 0, fva := 0 }, 0)
    else (s, 5)
  | none => (s, 5)

/-- SLBIND and SPBIND (R292): releases at DIE scope. -/
def laneBind (i : Instr) (spout : Bool) (d a : Reg) (n : BitVec 4) (s : State) : Out :=
  runWord i s fun c =>
    let t := s.cur.toNat
    let va := c.r a
    if s.outstanding t then s.hold t c .again
    else if va = 0 then
      let r := s.resumeLane t spout n.toNat
      r.1.setCtx t (c.w d (BitVec.ofNat 64 r.2)).next
    else if va.toNat % 64 ≠ 0 then s.trap c 2 0 va
    else s.readOwn t c va 64 fun bs =>
      let l : Lane := { region := (s.tile t).region, tile := t, asid := c.asid, desc := doublesOf 8 bs }
      let st := s.laneStatus spout n.toNat l
      (if st = 0 then s.setLane (tileDie t) spout n.toNat l else s).setCtx t (c.w d (BitVec.ofNat 64 st)).next

/-- SLBIND. -/
def execSlbind (d a : Reg) (n : BitVec 4) (s : State) : Out := laneBind (.slbind d a n) false d a n s
/-- SPBIND. -/
def execSpbind (d a : Reg) (n : BitVec 4) (s : State) : Out := laneBind (.spbind d a n) true d a n s

/-! ### Sluice lanes -/

/-- The lane's region stands placed (R295). -/
def State.laneRuns (s : State) (l : Lane) : Bool := match s.region? l.region with
  | some r => r.st == .running
  | none => false

/-- Send a fire token to a queue, where it waits at its source (R253, R290). -/
def State.laneFire (s : State) (d : Nat) (l : Lane) (spout : Bool) (n v : Nat) : State :=
  match l.fireq spout with
  | some q =>
    let x : Tok := ⟨mkHdr 0 1 0 0, false, lanesOf fun j => if j = 0 then BitVec.ofNat 32 v else 0⟩
    s.setDie d { s.die d with fwait := (s.die d).fwait ++ [⟨q, x, none, l.region, some (spout, n), l.tile⟩] }
  | none => s

/-- Inject the next token that a Sluice lane owes; a latched pre-emption request holds the next picture's SOT back (R338). Behind the last token of a picture
its fire token is sent, and an ending lane is free (R272, R290, R293). -/
def State.laneInject (s : State) (d n : Nat) (l : Lane) : State :=
  match l.outq with
  | [] => s
  | (vp, x) :: rest =>
    let sot := x.isMarker && x.index == 0x10
    let eot := x.isMarker && x.index == 2 && !(rest.any fun y => y.2.isMarker && y.2.index == 2)
    if s.laneRuns l && s.canInject l.tile vp && !(sot && !l.mid && s.latched l.tile) then
      let s := s.inject l.tile vp x
      let l := { l with outq := rest, mid := sot || (l.mid && !eot), inLeaf := x.kind == 5 || (l.inLeaf && !(x.isMarker && x.index == 0)) }
      if !rest.isEmpty then s.setLane d false n l
      else
        let s := if l.fire then s.laneFire d l false n (l.pics - 1) else s
        if l.st = 3 then s.freeLane d false n else s.setLane d false n { l with fire := false }
    else s

/-! The bitstream is read ahead of what is parsed, as engine accesses (R295, R142): the answers come in the order of the requests. -/

/-- The agent of the read of byte `off` on. -/
def sluiceAgent (d n off : Nat) : Agent := .lane d false n off
/-- The holder of a lane's translations (R368). -/
def laneHolder (d n : Nat) (spout : Bool) : Holder := .engine d ((if spout then 48 else 32) + n)

/-- The oldest read of a Sluice lane that is on its way. -/
def State.laneRead? (s : State) (d n : Nat) : Option Req := s.reqs.find? fun q => q.agent.isLane d false n && q.op == .read

/-- The next read that a Sluice lane issues: its address and its bytes, up to the end of a sector and of the buffer. -/
def Lane.nextRead (l : Lane) : W64 × Nat :=
  let va := l.dbl 0 + BitVec.ofNat 64 l.asked
  (va, min (64 - va.toNat % 64) (l.len - l.asked))

/-- Issue the next read; its age counts in cycles of the island of the lane's tile (log 96). -/
def State.laneAsk (s : State) (d n : Nat) (l : Lane) (need : Nat) : State :=
  let x := l.nextRead
  if need ≤ l.asked then s
  else match engTranslate s (laneHolder d n false) l.asid x.1 .load true with
    | (_, .error _) => s
    | (s, .ok e) =>
      let q : Req := ⟨0, sluiceAgent d n l.asked, .read, e.phys x.1, x.2, e.kind, [], 0, none, false, false, x.1, l.asid, .issued, false,
        false, s.cycles (islandOf l.tile), 0, false, false, 0⟩
      let s := if ringed s l.asid x.1 then
          (s.addReq { q with st := .performed, failed := true, dat := List.replicate x.2 0 }).countWork l.tile l.region 3 1
        else s.addReq q
      s.setLane d false n { l with asked := l.asked + x.2 }

/-- A Sluice lane takes the oldest answer, or asks for what it has not read of the bytes below `need`. A read into a ring is dropped and
counted (R150). An access that faults is LANE_FAULT's. -/
def State.laneFetch (s : State) (d n : Nat) (l : Lane) (need : Nat) : State :=
  match s.laneRead? d n with
  | some q =>
    if q.st == .performed then
      (s.delReq q.id).setLane d false n { l with
        answered := l.answered + q.n, bad := l.bad ++ if q.failed then [(l.answered, l.answered + q.n)] else [] }
    else s.laneAsk d n l need
  | none => s.laneAsk d n l need

/-- One step of a Sluice lane that parses the bytes below `need`: what it owes goes first, then what it has not read. Bytes that were lost, or
met an error, are a syntax error's (R295): `err` says that the step is one. -/
def laneStep (d n need : Nat) (err : Bool) (s : State) (f : Lane → State) : State :=
  match s.lane? d false n with
  | none => s
  | some l =>
    if !l.outq.isEmpty then s.laneInject d n l
    else if l.st = 1 ∧ s.laneRuns l then
      (if need ≤ l.answered then (if !err && l.bad.any fun b => b.1 < need then s else f l) else s.laneFetch d n l need)
    else s

/-- The same marker on some of the four streams. -/
def Lane.mark (l : Lane) (code : Nat) (ix : List Nat) : List (Nat × Tok) := ix.map fun i => (l.port false i, mkMarker code 0 false)

/-- Chroma leaves are asked for (R292). -/
def Lane.chroma (l : Lane) : Bool := (l.dbl 2).getLsbD 2
/-- The codec: 0 AVC, 1 HEVC, 2 AV1. -/
def Lane.codec (l : Lane) : Nat := bits64 (l.dbl 2) 1 0
/-- The planes of the leaves that it emits (R272). -/
def Lane.planes (l : Lane) : List Nat := if l.chroma then [0, 1, 2] else [0]

/-- A sequence header that a Sluice lane of a codec supports (R271). -/
def seqSupported (h : SeqHead) (codec : Nat) : Bool :=
  h.is420 && match h.profile with
    | .avcHigh => codec == 0 && h.depth == 8 && !h.fields
    | .hevcMain => codec == 1 && h.depth == 8
    | .hevcMain10 => codec == 1 && 8 ≤ h.depth && h.depth ≤ 10
    | .av1Main => codec == 2 && (h.depth == 8 || h.depth == 10) && !h.largeScale
    | .other => false

/-- Rows of a picture. -/
def picRows (h : PicHead) : Nat := (4 * h.h4 + 2 ^ h.rowLg - 1) / 2 ^ h.rowLg

/-- The reference slots at the start of a picture (R273): AVC and HEVC free those whose pictures leave, AV1 names all seven. -/
def Lane.startSlots (l : Lane) (h : PicHead) : List (Option W32) :=
  (List.range 7).map fun i =>
    if l.codec = 2 then (h.refs.getD i none) else if h.gone.contains i then none else l.dpb.getD i none

/-- The slots once the picture has entered the buffer: it takes the lowest free one (R273). -/
def Lane.endSlots (l : Lane) (h : PicHead) : List (Option W32) :=
  if l.codec = 2 || !h.keep then l.dpb
  else match (List.range 7).find? fun i => (l.dpb.getD i none).isNone with
    | some i => l.dpb.set i (some h.order)
    | none => l.dpb

/-- The lane may begin a picture (R272, R338). -/
def State.laneMore (s : State) (l : Lane) : Bool := !l.open_ && l.off < l.len && !(l.nfr != 0 && l.nfr ≤ l.pics) && !s.latched l.tile

/-- SLUICE_PICTURE_START (R271, R272, R338): under a supported header, SOT on all four streams; a latched pre-emption request holds it
back. -/
def execSluicePictureStart (d : Nat) (p : PicStart) (s : State) : Out :=
  let h := p.head
  .next (laneStep d p.lane h.used false s fun l =>
    if !s.laneMore l || h.used < l.off || l.len < h.used || !seqSupported h.seq l.codec then s
    else s.setLane d false p.lane { l with
      off := h.used, open_ := true, leaves := 0, rows := 0, errs := 0, seen := [], head := some h, dpb := l.startSlots h
      outq := l.mark 0x10 [0, 1, 2, 3] })

/-! #### Leaves (R272 to R275) -/

/-- INT16 saturation: the value's low 16 bits, and whether it was out of range. -/
def sat16i (x : Int) : BitVec 16 × Bool := (BitVec.ofInt 16 (max (-32768) (min 32767 x)), x < -32768 || 32767 < x)

/-- The level at a raster position. -/
def blockAt (b : Block) (i : Nat) : Int := b.lv.getD i 0
/-- The coding block has a non-zero coefficient in the plane: cbf (R273). -/
def blockCoded (b : Block) : Bool := (List.range (b.w * b.h)).any fun i => blockAt b i != 0
/-- Levels saturated (R274). -/
def blockSats (b : Block) : Nat := ((List.range (b.w * b.h)).filter fun i => (sat16i (blockAt b i)).2).length

/-- Lists of at most `k` elements, in order; structural on a bound of their number. -/
def chunks {α : Type} (k : Nat) : Nat → List α → List (List α)
  | 0, _ => []
  | n + 1, l => if l.isEmpty then [] else l.take k :: chunks k n (l.drop k)

/-- The coefficient tokens of a coding block (R274): 4 × 4 blocks as they are, or the non-zero levels as CT16 words, 16 to a token. -/
def blockToks (b : Block) (mode : Nat) : List Tok :=
  let v (i : Nat) : BitVec 16 := (sat16i (blockAt b i)).1
  if !blockCoded b then []
  else if b.small then
    (List.range (b.h / 4)).flatMap fun by_ => (List.range (b.w / 4)).map fun bx =>
      ⟨mkHdr mode 0xFFFF 0 0, false, lanesOf fun i => (v ((4 * by_ + i / 4) * b.w + 4 * bx + i % 4)).setWidth 32⟩
  else
    let ws : List W32 := ((List.range (b.w * b.h)).filter fun i => blockAt b i != 0).map fun i => BitVec.ofNat 16 i ++ v i
    (chunks 16 (ws.length + 1) ws).map fun c => ⟨mkHdr mode (2 ^ c.length - 1) 1 0, false, lanesOf fun i => c.getD i 0⟩

/-- The words of a leaf token (R273). -/
def leafWords (x4 y4 lw lh plane mode : Nat) (cbf : Bool) (r0 r1 qp n : Nat) : W32 × W32 :=
  (BitVec.ofNat 32 (x4 % 4096 * 2 ^ 20 + y4 % 4096 * 2 ^ 8 + lw % 8 * 2 ^ 5 + lh % 8 * 2 ^ 2 + plane % 4),
    BitVec.ofNat 32 (mode % 64 * 2 ^ 26 + b1 cbf * 2 ^ 25 + r0 % 8 * 2 ^ 22 + r1 % 8 * 2 ^ 19 + qp % 64 * 2 ^ 13 + n % 8192))

/-- Emit a leaf (R272): its leaf token, its motion token, its coefficient tokens and EOB. -/
def Lane.emit (l : Lane) (w : W32 × W32) (mode : Nat) (mask : BitVec 16) (mv : Lanes) (cs : List Tok) : Lane :=
  { l with
    leaves := l.leaves + 1
    outq := l.outq ++ [(l.port false 0, ⟨mkHdr mode 3 5 0, false, lanesOf fun i => if i = 0 then w.1 else if i = 1 then w.2 else 0⟩),
      (l.port false 2, ⟨mkHdr mode mask.toNat 0 0, false, mv⟩)] ++ cs.map (fun x => (l.port false 1, x)) ++ l.mark 0 [1] }

/-- Emit a damaged leaf (R273, R277). -/
def Lane.emitDamaged (l : Lane) (x4 y4 lw lh plane : Nat) : Lane :=
  l.emit (leafWords x4 y4 lw lh plane 63 false 7 7 0 l.leaves) 63 0 (lanesOf fun _ => 0) []

/-- The reference slot of a vector, where its picture stands in one (R273). -/
def Lane.slotOf (l : Lane) (v : Vect) : Option Nat := v.slot.bind fun i => if i < 7 ∧ (l.dpb.getD i none).isSome then some i else none

/-- The motion of a leaf (R273, R275): mode code, reference fields, the motion token's mask and lanes, and the components saturated. -/
structure Motion where
  mode : Nat
  r0 : Nat := 7
  r1 : Nat := 7
  mask : BitVec 16 := 0
  mv : Lanes := lanesOf fun _ => 0
  sats : Nat := 0
  deriving DecidableEq, Repr

/-- A vector as a motion lane: each component scaled to 1/16 luma pel and saturated, and how many were (R275). -/
def mvLane (scale : Int) (x y : Int) : W32 × Nat :=
  let a := sat16i (scale * x)
  let b := sat16i (scale * y)
  (b.1 ++ a.1, b1 a.2 + b1 b.2)

/-- The directional code of a direction (R273): HEVC's angular number. -/
def dirCode : IntraDir → Nat
  | .vertical => 26
  | .horizontal => 10
  | .downLeft => 34
  | .downRight => 18
  | .verticalRight => 22
  | .horizontalDown => 14
  | .verticalLeft => 30
  | .horizontalUp => 6

/-- The mode code of an intra mode of a codec (R273): HEVC's planar and DC change places, AV1's angle_delta is ignored. -/
def intraCode (codec : Nat) : IntraMode → Option Nat
  | .avcDc => if codec = 0 then some 0 else none
  | .avcPlane => if codec = 0 then some 1 else none
  | .avcDir d => if codec = 0 then some (dirCode d) else none
  | .hevc n => if codec = 1 ∧ n ≤ 34 then some (if n = 0 then 1 else if n = 1 then 0 else n) else none
  | .av1Dc | .av1Cfl => if codec = 2 then some 0 else none
  | .av1Smooth | .av1SmoothV | .av1SmoothH | .av1Paeth => if codec = 2 then some 1 else none
  | .av1Dir d _ => if codec = 2 then some (dirCode d) else none

/-- Whether an inter leaf of a codec is of mode 43 (R273); `two` says that it has two references. -/
def interSkip (codec : Nat) (two : Bool) : InterMode → Option Bool
  | .avc sk => if codec = 0 then some sk else none
  | .hevc => if codec = 1 then some false else none
  | .hevcMerge res => if codec = 1 then some (!res) else none
  | .av1 sm sk => if codec = 2 then some (sm || (sk && !two)) else none

/-- The motion of a prediction: none where it is none of R273, `some none` where a reference has no slot. -/
def Lane.motion (l : Lane) (p : Pred) : Option (Option Motion) :=
  let k : Int := if l.codec = 2 then 2 else 4
  let one (mode : Nat) (list1 : Bool) (v : Vect) : Option Motion := (l.slotOf v).map fun r =>
    let m := mvLane k v.x v.y
    { mode := mode, r0 := if list1 then 7 else r, r1 := if list1 then r else 7, mask := 5
      mv := lanesOf fun i => if i = 0 then m.1 else if i = 2 then BitVec.ofNat 32 r else 0, sats := m.2 }
  match p with
  | .intra c => (intraCode l.codec c).map fun c => some { mode := c }
  | .copy x y =>
    let m := mvLane 16 x y
    if l.codec = 2 then some (some { mode := 44, mask := 5, mv := lanesOf fun i => if i = 0 then m.1 else if i = 2 then 7 else 0, sats := m.2 }) else none
  | .inter how (some a) none => (interSkip l.codec false how).map fun sk => one (if sk then 43 else 40) false a
  | .inter how none (some b) => if l.codec = 2 then none else (interSkip l.codec false how).map fun sk => one (if sk then 43 else 41) true b
  | .inter how (some a) (some b) => (interSkip l.codec true how).map fun sk => (match l.slotOf a, l.slotOf b with
    | some r, some q =>
      let m := mvLane k a.x a.y
      let o := mvLane k b.x b.y
      some { mode := if sk then 43 else 42, r0 := r, r1 := q, mask := if sk then 5 else 7
             mv := lanesOf fun i => if i = 0 then m.1 else if i = 1 ∧ !sk then o.1 else if i = 2 then BitVec.ofNat 32 r else 0
             sats := m.2 + if sk then 0 else o.2 }
    | _, _ => none)
  | .inter _ none none => none

/-- The leaves of one place in every plane that is asked for (R272 to R275): with the values saturated and the damaged leaves. -/
def Lane.leaf (l : Lane) (x : LeafData) (m : Option Motion) : Lane × Nat × Nat :=
  l.planes.foldl (fun (acc : Lane × Nat × Nat) plane =>
    let (l, sats, dmg) := acc
    match m with
    | none => (l.emitDamaged x.x4 x.y4 x.lw x.lh plane, sats, dmg + 1)
    | some m =>
      let b := x.blocks.getD plane ⟨0, 0, false, []⟩
      (l.emit (leafWords x.x4 x.y4 x.lw x.lh plane m.mode (blockCoded b) m.r0 m.r1 (if l.codec = 2 then x.qp / 4 else x.qp) l.leaves) m.mode m.mask m.mv
        (if x.last then blockToks b m.mode else []), sats + m.sats + (if x.last then blockSats b else 0), dmg)) (l, 0, 0)

/-- A lane's counters, each saturating (R296), and what of them the present cycle has counted. -/
def Lane.tally (l : Lane) (c3 c2 c1 c0 : Nat) : Lane :=
  { l with c3 := sat16 l.c3 c3, c2 := sat16 l.c2 c2, c1 := sat16 l.c1 c1, c0 := sat16 l.c0 c0, now := l.now.add c3 c2 c1 c0 }
/-- The counters after a clear (R296): a count made in the same cycle survives. -/
def Lane.cleared (l : Lane) : Lane := { l with c3 := l.now.c3, c2 := l.now.c2, c1 := l.now.c1, c0 := l.now.c0 }

/-- Count events of a lane in its counters and in double 11 of its tile (R296, R401). -/
def State.laneCount (s : State) (d n : Nat) (spout : Bool) (l : Lane) (c3 c2 c1 c0 : Nat) : State :=
  (s.setLane d spout n (l.tally c3 c2 c1 c0)).countWork l.tile l.region 11 (c3 + c2 + c1 + c0)

/-- Cells of the picture in the 16 × 16 square in column `q.1` and row `q.2` (R277). -/
def squareCells (h : PicHead) (q : Nat × Nat) : Nat := min 4 (h.w4 - 4 * q.1) * min 4 (h.h4 - 4 * q.2)
/-- The key of a square. -/
def squareKey (q : Nat × Nat) : Nat := q.2 * 65536 + q.1
/-- The whole square has been parsed, or covered with a damaged leaf. -/
def Lane.parsed (l : Lane) (h : PicHead) (q : Nat × Nat) : Bool := squareCells h q ≤ SMap.getD l.seen (squareKey q) 0

/-- The squares that a leaf touches, and the cells of the picture that it has in each. -/
def leafSquares (h : PicHead) (x : LeafData) : List ((Nat × Nat) × Nat) :=
  let span (o lg lim i : Nat) : Nat := min (min (o + 2 ^ lg) (4 * i + 4)) lim - max o (4 * i)
  let upon (o lg : Nat) : List Nat := (List.range ((o + 2 ^ lg + 3) / 4 - o / 4)).map fun i => o / 4 + i
  (upon x.y4 x.lh).flatMap fun j => (upon x.x4 x.lw).map fun i => ((i, j), span x.x4 x.lw h.w4 i * span x.y4 x.lh h.h4 j)

/-- A leaf's cells are parsed. -/
def Lane.see (l : Lane) (h : PicHead) (x : LeafData) : Lane :=
  { l with seen := (leafSquares h x).foldl (fun m y => SMap.upd m (squareKey y.1) 0 fun k => k + y.2) l.seen }

/-- SLUICE_LEAF (R272 to R275): a leaf of the picture at a place not parsed before, as the bitstream gives it, and EOR where it ends a row. -/
def execSluiceLeaf (d n : Nat) (x : LeafData) (s : State) : Out :=
  .next (laneStep d n x.used false s fun l =>
    match l.head, l.motion x.pred with
    | some h, some m =>
      if !l.open_ || x.used < l.off || l.len < x.used || (x.rowEnd && picRows h ≤ l.rows) || l.parsed h (x.x4 / 4, x.y4 / 4) then s
      else
        let (l', sats, dmg) := (l.see h x).leaf x m
        s.laneCount d n false { l' with
          off := x.used
          rows := l.rows + b1 x.rowEnd
          outq := l'.outq ++ if x.rowEnd then l.mark 1 [0, 1, 2] else [] } 0 dmg sats 0
    | _, _ => s)

/-- The side tokens of a picture (R276): its header, and the film grain parameters of AV1 in 64 bytes to a token. -/
def Lane.sideToks (l : Lane) (h : PicHead) : List Tok :=
  let lane (i : Nat) : W32 :=
    if i = 0 then BitVec.ofNat 32 l.pics
    else if i = 1 then BitVec.ofNat 32 h.typ
    else if i = 2 then BitVec.ofNat 32 (h.h4 % 65536 * 65536 + h.w4 % 65536)
    else if i = 3 then h.order
    else if i < 11 then (l.dpb.getD (i - 4) none).getD 0xFFFFFFFF
    else if i = 11 then BitVec.ofNat 32 h.seq.depth
    else if i = 12 then BitVec.ofNat 32 l.errs
    else if i = 13 then BitVec.ofNat 32 h.qp
    else 0
  ⟨mkHdr 1 0x3FFF 0 0, false, lanesOf lane⟩ :: if l.codec = 2 then
    (chunks 64 (h.grain.length + 1) h.grain).map fun c =>
      ⟨mkHdr 2 (2 ^ ((c.length + 3) / 4) - 1) 0 0, false, lanesOf fun i => BitVec.ofNat 32 (leNat ((c.drop (4 * i)).take 4))⟩ else []

/-- Every square of the picture has been parsed or covered (R277). -/
def Lane.whole (l : Lane) (h : PicHead) : Bool :=
  (List.range ((h.h4 + 3) / 4)).all fun y => (List.range ((h.w4 + 3) / 4)).all fun x => l.parsed h (x, y)

/-- SLUICE_PICTURE_END (R272, R276, R277): once every row has ended, and no square is left that was neither parsed nor covered, the side tokens, then EOT on all four streams. -/
def execSluicePictureEnd (d n used : Nat) (s : State) : Out :=
  .next (laneStep d n used false s fun l =>
    match l.head with
    | none => s
    | some h =>
      if !l.open_ || used < l.off || l.len < used || l.rows < picRows h || !l.whole h then s
      else s.setLane d false n { l with
        off := used
        open_ := false
        pics := l.pics + 1
        fire := true
        dpb := l.endSlots h
        outq := (l.sideToks h).map (fun y => (l.port false 3, y)) ++ l.mark 2 [0, 1, 2, 3] })

/-- Where a stream of pictures ends: after nfr pictures, or once the whole buffer has been read. -/
def State.streamNeed (s : State) (d n : Nat) : Nat := match s.lane? d false n with
  | some l => if l.nfr != 0 && l.nfr ≤ l.pics then 0 else l.len
  | none => 0

/-- SLUICE_STREAM_END (R272): after the last picture of the buffer, or after nfr pictures, EOS on all four streams. -/
def execSluiceStreamEnd (d n : Nat) (s : State) : Out :=
  .next (laneStep d n (s.streamNeed d n) false s fun l =>
    if l.open_ then s else s.setLane d false n { l with st := 3, outq := l.mark 3 [0, 1, 2, 3] })

/-- The squares of a damaged area that lie in the picture, in raster order and once each (R277). -/
def damagedArea (h : PicHead) (area : List (Nat × Nat)) : List (Nat × Nat) :=
  (((area.filter fun q => 4 * q.1 < h.w4 && 4 * q.2 < h.h4).map squareKey).foldl insRising []).map fun k => (k % 65536, k / 65536)

/-- The squares that a syntax error loses (R277): of those that the step names, the ones not parsed. -/
def Lane.lost (l : Lane) (h : PicHead) (area : List (Nat × Nat)) : List (Nat × Nat) := (damagedArea h area).filter fun q => !l.parsed h q

/-- Cover squares with damaged leaves (R277), in every plane that is asked for. -/
def Lane.cover (l : Lane) (qs : List (Nat × Nat)) : Lane :=
  qs.foldl (fun l q => l.planes.foldl (fun l plane => l.emitDamaged (4 * q.1) (4 * q.2) 2 2 plane) l) l

/-- Cover an area up to row `row`, in which the parse resumes: every row before it ends with EOR (R272, R277). -/
def Lane.coverTo (l : Lane) (h : PicHead) (area : List (Nat × Nat)) (row : Nat) : Lane :=
  let qs := l.lost h area
  let l := { l with seen := qs.foldl (fun m q => SMap.put m (squareKey q) 16) l.seen }
  let rowOf (q : Nat × Nat) : Nat := 16 * q.2 / 2 ^ h.rowLg
  let first := l.rows
  let l := (List.range (row - l.rows)).foldl (fun (m : Lane) i =>
    let m := m.cover (qs.filter fun q => if i = 0 then rowOf q ≤ l.rows else rowOf q = l.rows + i)
    { m with rows := m.rows + 1, outq := m.outq ++ m.mark 1 [0, 1, 2] }) l
  l.cover (qs.filter fun q => row ≤ rowOf q || row ≤ first)

/-- SLUICE_SYNTAX_ERROR (R277): the error is counted, in a picture the area not parsed is covered with damaged leaves, and the parse goes on at
byte `used`, there in the row that `area` gives. -/
def execSluiceSyntaxError (d n used : Nat) (area : LostArea) (s : State) : Out :=
  .next (laneStep d n used true s fun l =>
    let good := l.bad.filter fun b => used < b.2
    if used < l.off || l.len < used then s
    else match l.open_, l.head with
      | true, some h =>
        if picRows h < area.row then s
        else s.laneCount d n false { l.coverTo h area.squares area.row with off := used, errs := l.errs + 1, bad := good } 1
          ((l.lost h area.squares).length * l.planes.length) 0 0
      | _, _ => s.laneCount d n false { l with off := used, bad := good } 1 0 0 0)

/-- SLUICE_UNSUPPORTED_SKIP (R271, R276): a picture under an unsupported sequence header. -/
def execSluiceUnsupportedSkip (d n : Nat) (p : PicSkip) (s : State) : Out :=
  .next (laneStep d n p.used false s fun l =>
    if !s.laneMore l || p.used < l.off || l.len < p.used || seqSupported p.seq l.codec then s
    else
      let x : Tok := ⟨mkHdr 3 1 0 0, false, lanesOf fun i => if i = 0 then BitVec.ofNat 32 l.pics else 0⟩
      s.laneCount d n false { l with
        off := p.used
        pics := l.pics + 1
        fire := true
        outq := l.mark 0x10 [0, 1, 2, 3] ++ [(l.port false 3, x)] ++ l.mark 2 [0, 1, 2, 3] } 0 0 0 1)

/-- The address of the next access of a lane, where one is due: a Sluice lane's next read, a Spout lane's next write. -/
def Lane.nextAccess (l : Lane) (spout : Bool) : Option W64 :=
  if spout then l.out.head?.map (·.1) else if l.asked < l.len then some l.nextRead.1 else none

/-- What stops an access of a lane (R295): cause 1, a page, or 2, a permission; a write to a device page is one of those. -/
def State.laneCause (s : State) (d n : Nat) (spout : Bool) (l : Lane) (va : W64) : Option Nat :=
  match (engTranslate s (laneHolder d n spout) l.asid va (if spout then .store else .load) true).2 with
  | .error k => some (if k = 4 then 2 else 1)
  | .ok e => if spout && e.kind == .device then some 2 else none

/-- A fault of a lane's next access, which is at `va`, suspends it, and a fault token goes up the tree (R295); `perm` says which of the two
causes it is. -/
def laneFault (d n : Nat) (spout perm : Bool) (va : W64) (s : State) : State :=
  match s.lane? d spout n with
  | none => s
  | some l =>
    if l.st != 1 || !s.laneRuns l then s
    else if l.nextAccess spout = some va && s.laneCause d n spout l va = some (1 + b1 perm) then
      (s.setLane d spout n { l with st := 2, cause := 1 + b1 perm, fva := va }).report (causeWord false 0 0x32) va 0 l.tile l.region
    else s

/-- LANE_FAULT (R295). -/
def execLaneFault (d n : Nat) (spout perm : Bool) (va : W64) (s : State) : Out := .next (laneFault d n spout perm va s)

/-- A stream whose SOT has been injected and whose EOT has not (R293). -/
def Lane.segOpen (l : Lane) (i : Nat) : Bool :=
  let has (code : Nat) : Bool := l.outq.any fun x => x.1 == l.port false i && x.2.isMarker && x.2.index == code
  !has 0x10 && (l.open_ || has 2)

/-- SLREL (R293): a release at DIE scope. -/
def execSlrel (d : Reg) (n : BitVec 4) (s : State) : Out :=
  runWord (.slrel d n) s fun c =>
    let t := s.cur.toNat
    let e := tileDie t
    if s.outstanding t then s.hold t c .again
    else match s.lane? e false n.toNat with
      | none => s.setCtx t (c.w d 1).next
      | some l =>
        if l.region != (s.tile t).region then s.setCtx t (c.w d 2).next
        else if l.st = 3 then s.setCtx t (c.w d 0).next
        else
          let out := (if l.inLeaf then l.mark 0 [1] else []) ++ l.mark 2 ((List.range 4).filter l.segOpen) ++ l.mark 3 [0, 1, 2, 3]
          let s := { s with reqs := s.reqs.filter fun (q : Req) => !(q.agent.isLane e false n.toNat && q.op == HomeOp.read) }
          (s.setLane e false n.toNat { l with st := 3, open_ := false, fire := false, outq := out }).setCtx t (c.w d 0).next

/-! ### Spout lanes -/

/-- The head at port `i` of a Spout lane. -/
def State.spHead (s : State) (l : Lane) (i : Nat) : Option Tok := ((s.tile l.tile).buf (vKey (l.port true i))).toks.head?
/-- Consume it. -/
def State.spPop (s : State) (l : Lane) (i : Nat) : State := (s.updTile l.tile fun tl => tl.pop (vKey (l.port true i))).moved l.tile
/-- The head at port `i` is this marker. -/
def State.spMark (s : State) (l : Lane) (i code : Nat) : Bool := match s.spHead l i with
  | some x => x.isMarker && x.index == code
  | none => false

/-- A token that a port of the lane has no use for (R287): L takes leaves, C data and sparse tokens and EOB, M data, S data; SOT, EOT and
EOS are for all. -/
def spFiller (i : Nat) (x : Tok) : Bool :=
  if x.isMarker then !([2, 3, 0x10].contains x.index || (i == 1 && x.index == 0))
  else match i with
    | 0 => x.kind != 5
    | 1 => x.kind != 0 && x.kind != 1
    | _ => x.kind != 0

/-- A port whose head is only consumed: EOR, a token of another kind, which is counted as skipped, or a side token, of which the picture
header is kept (R287). Any other marker that the port has no use for goes as EOR does, uncounted (log 101). -/
def State.spConsume (s : State) (d n : Nat) (l : Lane) : Option State :=
  match (List.range 4).find? fun i => match s.spHead l i with
    | some x => spFiller i x || (i == 3 && x.kind == 0)
    | none => false with
  | none => none
  | some i =>
    match s.spHead l i with
    | none => none
    | some x =>
      let s := s.spPop l i
      if x.isMarker then some s
      else if i = 3 ∧ x.kind = 0 then some (s.setLane d true n { l with side := if x.index = 1 then some x else l.side })
      else some (s.laneCount d n true l 0 0 0 1)

/-- The writes of a Spout lane that are on their way. -/
def State.spWriting (s : State) (d n : Nat) : Bool := s.engWriting (Agent.isLane d true n)

/-- The next write of a picture's slot goes out (R295); one that falls into a ring is dropped and counted (R150). One that faults waits for
LANE_FAULT. -/
def State.spSend (s : State) (d n : Nat) (l : Lane) (va : W64) (bs : List Byte) : State :=
  if (s.laneCause d n true l va).isSome then s
  else
    let r := s.engSend (.lane d true n l.out.length) (laneHolder d n true) l.asid va bs l.tile
    (r.1.countWork l.tile l.region 3 r.2).setLane d true n { l with out := l.out.drop 1 }

/-- Every write of the slot is performed (R290): the picture is complete, and its fire token is sent. -/
def State.spDone (s : State) (d n : Nat) (l : Lane) : State :=
  (s.laneFire d l true n (l.pics % l.nslot)).setLane d true n { l with fin := false, pics := l.pics + 1 }

/-- One step of a Spout lane that has its template: the writes that it owes go first, then tokens that are only consumed (R287). -/
def spStep (d n : Nat) (s : State) (f : Lane → State) : State :=
  match s.lane? d true n with
  | none => s
  | some l =>
    if l.st != 1 || !s.laneRuns l || (s.tile l.tile).frozen || (l.tpl.isNone && l.nextTpl.isNone) then s
    else match l.out with
      | (va, bs) :: _ => s.spSend d n l va bs
      | [] =>
        if l.fin then (if s.spWriting d n then s else s.spDone d n l)
        else match s.spConsume d n l with
          | some s' => s'
          | none => f l

/-- SPOUT_PICTURE_START (R287, R294): SOT on each port; a template loaded since takes effect. -/
def execSpoutPictureStart (d n : Nat) (s : State) : Out :=
  .next (spStep d n s fun l =>
    if !l.open_ && (List.range 4).all fun i => s.spMark l i 0x10 then
      ((List.range 4).foldl (fun (s : State) i => s.spPop l i) s).setLane d true n { l with
        open_ := true, toks := [], blocks := [], pos := 0, fill := 0, side := none, nextTpl := none
        tpl := match l.nextTpl with
          | some x => some x
          | none => l.tpl }
    else s)

/-! #### What a Spout codes (R271, R288) -/

/-- The type of the picture (R276): lane 1 of its header. -/
def Lane.typ (l : Lane) : Nat := match l.side with
  | some y => (y.lanes.at 1).toNat
  | none => 0
/-- Its base qp: lane 13. -/
def Lane.baseQp (l : Lane) : Nat := match l.side with
  | some y => (y.lanes.at 13).toNat
  | none => 0
/-- The picture's size in cells (R292). -/
def Lane.w4 (l : Lane) : Nat := bits64 (l.dbl 3) 15 0
/-- Its height. -/
def Lane.h4 (l : Lane) : Nat := bits64 (l.dbl 3) 31 16
/-- log2 of the smallest block in cells (R271). -/
def Lane.minLg (l : Lane) : Nat := if l.av1 then 0 else 1

/-- Bits of a number below 16 spread to the even places. -/
def spread4 (x : Nat) : Nat := x % 2 + 4 * (x / 2 % 2) + 16 * (x / 4 % 2) + 64 * (x / 8 % 2)
/-- The even bits of a number below 256. -/
def gather4 (k : Nat) : Nat := k % 2 + 2 * (k / 4 % 2) + 4 * (k / 16 % 2) + 8 * (k / 64 % 2)

/-- CTBs or superblocks of 64 × 64 in a row. -/
def Lane.ctbs (l : Lane) : Nat := (l.w4 + 15) / 16
/-- The place of a cell in coding order: the CTB or superblock in raster order, and inside it the quadtree's order. -/
def Lane.order (l : Lane) (x y : Nat) : Nat := (y / 16 * l.ctbs + x / 16) * 256 + spread4 (x % 16) + 2 * spread4 (y % 16)
/-- The cell at a place in coding order. -/
def Lane.cellAt (l : Lane) (k : Nat) : Nat × Nat :=
  (k / 256 % l.ctbs * 16 + gather4 (k % 256), k / 256 / l.ctbs * 16 + gather4 (k % 256 / 2))
/-- The end of the picture in coding order. -/
def Lane.endPos (l : Lane) : Nat := (l.h4 + 15) / 16 * l.ctbs * 256

/-- A block of 2^lg cells a side lies where R271 allows one. -/
def Lane.blockLegal (l : Lane) (x y lg : Nat) : Bool :=
  l.minLg ≤ lg && lg ≤ 4 && x % 2 ^ lg == 0 && y % 2 ^ lg == 0 && x + 2 ^ lg ≤ l.w4 && y + 2 ^ lg ≤ l.h4

/-- The largest legal blocks from place `k` to place `hi` (R288), in coding order: coded as skip with a zero vector and slot 0, or in an
intra picture as DC with no residual. Structural on a bound of the places. -/
def Lane.fillBlocks (l : Lane) : Nat → Nat → Nat → List CodedBlock
  | 0, _, _ => []
  | fuel + 1, k, hi =>
    if hi ≤ k then []
    else
      let (x, y) := l.cellAt k
      match [4, 3, 2, 1, 0].find? fun lg => k % 4 ^ lg == 0 && k + 4 ^ lg ≤ hi && l.blockLegal x y lg with
      | some lg => ⟨x, y, lg, if l.typ = 0 then 0 else 43, 0, 0, 0, []⟩ :: l.fillBlocks fuel (k + 4 ^ lg) hi
      | none => l.fillBlocks fuel (k + 1) hi

/-- Fill from the end of the last block to place `k`, and go on at place `e` behind it: the lane, and the fill blocks of every CTB or
superblock that is thereby finished (R288). -/
def Lane.advance (l : Lane) (k e : Nat) : Lane × Nat :=
  let bs := l.fillBlocks (k - l.pos) l.pos k
  let (now, due) := bs.partition fun b => l.order b.x4 b.y4 / 256 < e / 256
  let turned := l.pos / 256 < e / 256
  ({ l with blocks := l.blocks ++ bs, pos := e, fill := due.length + if turned then 0 else l.fill }, now.length + if turned then l.fill else 0)

/-- The nearest multiple, ties to even. -/
def nearest (m x : Int) : Int :=
  let q := x / m
  let r := 2 * (x - q * m)
  (if r < m then q else if m < r then q + 1 else if q % 2 = 0 then q else q + 1) * m

/-- The directional code that AV1 can express and that is nearest, ties to the lower (R288); other codes as they are. Codes 0 and 1, which
are no directions, are none of the candidates (log 101). -/
def av1Mode (c : Nat) : Nat :=
  if c < 2 ∨ 34 < c then c
  else [10, 14, 18, 22, 26, 30, 34].foldl (fun b x => if (if c < x then x - c else c - x) < (if c < b then b - c else c - b) then x else b) 6

/-- The levels of a leaf's coefficient tokens, by position in its block of `n` cells a side, and those dropped (R288): a coordinate outside the
block counts whatever its value, a zero of a dense token in a larger block is no level (log 13). -/
def spLevels (n : Nat) (xs : List Tok) : List (Nat × Int) × Nat :=
  xs.foldl (fun (acc : List (Nat × Int) × Nat) x =>
    ((List.range 16).filter fun i => x.mask.getLsbD i).foldl (fun (acc : List (Nat × Int) × Nat) i =>
      let w := x.lanes.at i
      let v := sextNat 16 (w.toNat % 65536)
      let p := if x.kind = 0 then i else w.toNat / 65536
      if x.kind = 0 ∧ n ≠ 1 then (if v = 0 then acc else (acc.1, acc.2 + 1))
      else if 16 * n * n ≤ p then (acc.1, acc.2 + 1)
      else if v = 0 then acc
      else (acc.1 ++ [(p, v)], acc.2)) acc) ([], 0)

/-- What becomes of a leaf with its motion token (R288): the block coded and what it counts in rnd, or none where it is dropped. A
picture of type 2 is coded as one of type 1 is (log 101). -/
def Lane.codes (l : Lane) (a m : Tok) : Option (CodedBlock × Nat) :=
  let w0 := a.lanes.at 0
  let mode := bits (a.lanes.at 1) 31 26
  let x := bits w0 31 20
  let y := bits w0 19 8
  let lg := bits w0 7 5
  let inter := mode == 40 || mode == 43
  let slot := (m.lanes.at 2).toNat
  if bits w0 1 0 != 0 || lg != bits w0 4 2 || !l.blockLegal x y lg || l.order x y < l.pos then none
  else if !(mode ≤ 34 || (inter && l.typ != 0 && slot < 7)) then none
  else
    let g : Int := if l.av1 then 2 else 4
    let v (o : Nat) : Int := if m.mask.getLsbD 0 then sextNat 16 ((m.lanes.at 0).toNat / 2 ^ o % 65536) else 0
    let (lv, drops) := spLevels (2 ^ lg) l.toks
    let rnd := inter && (nearest g (v 0) != v 0 || nearest g (v 16) != v 16)
    some (⟨x, y, lg, if l.av1 then av1Mode mode else mode, if inter then slot else 7, if inter then nearest g (v 0) else 0,
      if inter then nearest g (v 16) else 0, lv⟩, drops + b1 rnd + b1 (l.av1 && av1Mode mode != mode))

/-- A leaf is coded or dropped (R288): what it leaves uncovered before it is filled. -/
def State.spLeaf (s : State) (d n : Nat) (l : Lane) (a m : Tok) : State :=
  match l.codes a m with
  | none => s.laneCount d n true { l with toks := [] } 1 0 0 0
  | some (b, rnd) =>
    let k := l.order b.x4 b.y4
    let (l', fil) := l.advance k (k + 4 ^ b.lw)
    s.laneCount d n true { l' with toks := [], blocks := l'.blocks ++ [b] } 0 fil rnd 0

/-- SPOUT_LEAF (R287, R288): the coefficient tokens of a leaf one by one, and with their EOB the leaf and its motion token, once the
picture's header has come or can come no more. `whole` says which of the two this step takes. -/
def execSpoutLeaf (d n : Nat) (whole : Bool) (s : State) : Out :=
  .next (spStep d n s fun l =>
    if !l.open_ then s
    else match s.spHead l 1 with
      | none => s
      | some x =>
        if whole != x.isMarker then s
        else if !x.isMarker then (s.spPop l 1).setLane d true n { l with toks := l.toks ++ [x] }
        else match s.spHead l 0, s.spHead l 2 with
          | some a, some m =>
            if x.index == 0 && a.kind == 5 && m.kind == 0 && (l.side.isSome || s.spMark l 3 2) then
              (((s.spPop l 0).spPop l 1).spPop l 2).spLeaf d n l a m
            else s
          | _, _ => s)

/-- Bits of a byte, most significant first. -/
def msbBits (bs : List Byte) : List Bool := bs.flatMap fun b => (List.range 8).map fun i => b.getLsbD (7 - i)
/-- Bytes of bits, most significant first, filled with zero bits; structural on a bound of the bytes. -/
def bytesMsb : Nat → List Bool → List Byte
  | 0, _ => []
  | n + 1, l =>
    if l.isEmpty then []
    else BitVec.ofNat 8 ((List.range 8).foldl (fun a i => 2 * a + b1 (l.getD i false)) 0) :: bytesMsb n (l.drop 8)

/-- Double 0 of a template: seqlen, piclen, picbits, npatch (R290). -/
def tplHead (t : List Byte) : W64 := imgDouble t 0
/-- seqlen -/
def tplSeq (t : List Byte) : Nat := bits64 (tplHead t) 15 0
/-- piclen -/
def tplPic (t : List Byte) : Nat := bits64 (tplHead t) 31 16
/-- picbits -/
def tplBits (t : List Byte) : Nat := bits64 (tplHead t) 47 32
/-- npatch -/
def tplPatches (t : List Byte) : Nat := bits64 (tplHead t) 51 48

/-- The template keeps R290. -/
def tplLegal (t : List Byte) : Bool :=
  bits64 (tplHead t) 63 52 == 0 && tplPatches t ≤ 8 && 1 ≤ tplBits t && tplBits t ≤ 8 * tplPic t && 72 + tplSeq t + tplPic t ≤ 4096
    && (List.range 8).all fun k =>
      let p := imgDouble t (8 + 8 * k)
      if k < tplPatches t then
        bits64 p 23 21 == 0 && bits64 p 63 28 == 0 && 1 ≤ bits64 p 20 16 && bits64 p 27 24 ≤ 13 && bits64 p 15 0 + bits64 p 20 16 ≤ 8 * tplPic t
      else p == 0

/-- The picture part's bits with the patches written (R290). -/
def patched (t : List Byte) (side : Option Tok) : List Bool :=
  let bits0 := msbBits ((t.drop (72 + tplSeq t)).take (tplPic t))
  ((List.range (tplPatches t)).foldl (fun (l : List Bool) k =>
    let p := imgDouble t (8 + 8 * k)
    let w := bits64 p 20 16
    let v : W32 := match side with
      | some x => x.lanes.at (bits64 p 27 24)
      | none => 0
    (List.range w).foldl (fun (l : List Bool) i => l.set (bits64 p 15 0 + i) (v.getLsbD (w - 1 - i))) l) bits0).take (tplBits t)

/-- Emulation prevention (R290): a byte 3 goes between two zero bytes and a byte below 4. -/
def emulate : Nat → List Byte → List Byte
  | _, [] => []
  | z, b :: l =>
    if 2 ≤ z ∧ b.toNat ≤ 3 then 3 :: b :: emulate (if b = 0 then 1 else 0) l
    else b :: emulate (if b = 0 then z + 1 else 0) l

/-- A size as an 8-byte LEB128 value. -/
def leb128 (n : Nat) : List Byte := (List.range 8).map fun i => BitVec.ofNat 8 (n / 128 ^ i % 128 + if i < 7 then 128 else 0)

/-- The bytes of a picture's slot behind its length (R290); `coded` are the bits of the slice or tile data. HEVC's slice data end with a stop
bit and zeros to the byte, rbsp_slice_segment_trailing_bits. -/
def pictureBytes (l : Lane) (t : List Byte) (n : Nat) (coded : List Bool) : List Byte :=
  let seq := if n = 0 ∨ l.typ = 0 then (t.drop 72).take (tplSeq t) else []
  let head := patched t l.side
  if l.av1 then
    let pic := bytesMsb (tplPic t) head ++ bytesMsb (coded.length / 8 + 1) coded
    seq ++ [0x32] ++ leb128 pic.length ++ pic
  else
    let body := bytesMsb (tplPic t + coded.length / 8 + 2) (head ++ coded ++ [true])
    seq ++ body.take 6 ++ emulate 0 (body.drop 6)

/-- Bytes at an address, cut at sector boundaries; structural on a bound of the pieces. -/
def slotPieces : Nat → W64 → List Byte → List (W64 × List Byte)
  | 0, _, _ => []
  | fuel + 1, va, bs =>
    if bs.isEmpty then []
    else
      let k := 64 - va.toNat % 64
      (va, bs.take k) :: slotPieces fuel (va + BitVec.ofNat 64 k) (bs.drop k)

/-- A picture whose EOTs have come (R287, R288, R290): what is uncovered is filled, and the writes of its slot are due, or the picture is
dropped for overflow. -/
def State.spComplete (s : State) (d n : Nat) (l : Lane) (t : List Byte) (merged skipped : List Nat) : State :=
  let (l, fil) := l.advance l.endPos l.endPos
  let va := l.dbl 0 + BitVec.ofNat 64 (l.pics % l.nslot * l.slotsz)
  let bs := pictureBytes l t l.pics (Config.codedBits s.free l.av1 l.typ l.baseQp l.w4 l.h4 l.blocks merged skipped)
  let big := l.slotsz < 8 + bs.length
  let out := if big then leBytes 8 0 else leBytes 8 bs.length ++ bs
  (s.draw 1).laneCount d n true { l with open_ := false, fin := true, out := slotPieces (out.length / 64 + 1) va out, blocks := [] }
    0 fil 0 (b1 big)

/-- SPOUT_PICTURE_COMPLETE (R287, R288, R290): EOT on all four ports; the Spout chooses which blocks it codes by merge or skip. -/
def execSpoutPictureComplete (d n : Nat) (merged skipped : List Nat) (s : State) : Out :=
  .next (spStep d n s fun l =>
    match l.tpl with
    | none => s
    | some t =>
      if !l.open_ || !((List.range 4).all fun i => s.spMark l i 2) then s
      else ((List.range 4).foldl (fun (s : State) i => s.spPop l i) s).spComplete d n l t merged skipped)

/-- SPOUT_END (R287): EOS on all four ports ends the lane, its last write having been performed. -/
def execSpoutEnd (d n : Nat) (s : State) : Out :=
  .next (spStep d n s fun l =>
    if !l.open_ && (List.range 4).all fun i => s.spMark l i 3 then
      ((List.range 4).foldl (fun (s : State) i => s.spPop l i) s).freeLane d true n
    else s)

/-- SPHDR (R294): a release at DIE scope. -/
def execSphdr (d a : Reg) (n : BitVec 4) (s : State) : Out :=
  runWord (.sphdr d a n) s fun c =>
    let t := s.cur.toNat
    let va := c.r a
    if s.outstanding t then s.hold t c .again
    else if va.toNat % 64 ≠ 0 then s.trap c 2 0 va
    else s.readOwn t c va 72 fun h =>
      if !tplLegal (h ++ List.replicate 4096 0) then s.setCtx t (c.w d 1).next
      else s.readOwn t c va (72 + tplSeq h + tplPic h) fun bs =>
        match s.lane? (tileDie t) true n.toNat with
        | some l =>
          if l.region != (s.tile t).region then s.setCtx t (c.w d 2).next
          else (s.setLane (tileDie t) true n.toNat { l with nextTpl := some bs }).setCtx t (c.w d 0).next
        | none => s.setCtx t (c.w d 2).next

/-! ### Status and WARPSET -/

/-- The lane word (R296). Of a Sluice lane it shows the offset of the first unread byte (R295): reads go in order, and where one faults it is
the first of that read (log 52). -/
def Lane.word (l : Lane) (spout : Bool) : W64 := packBits [(40, l.st), (37, l.cause), (0, if spout then l.pics else l.asked)]

/-- SLSTAT and SPSTAT (R296). -/
def laneStat (i : Instr) (spout : Bool) (d a : Reg) (n : BitVec 4) (s : State) : Out :=
  runWord i s fun c =>
    let t := s.cur.toNat
    let e := tileDie t
    let sel := bits64 (c.r a) 1 0
    match s.lane? e spout n.toNat with
    | none => s.setCtx t (c.w d 0).next
    | some l =>
      if !(c.lvl || l.region == (s.tile t).region) then s.setCtx t (c.w d 0).next
      else
        let v : W64 := if sel = 0 then l.word spout else if sel = 3 then l.fva else l.c3 ++ l.c2 ++ l.c1 ++ l.c0
        (if sel = 2 then s.setLane e spout n.toNat l.cleared else s).setCtx t (c.w d v).next

/-- SLSTAT. -/
def execSlstat (d a : Reg) (n : BitVec 4) (s : State) : Out := laneStat (.slstat d a n) false d a n s
/-- SPSTAT. -/
def execSpstat (d a : Reg) (n : BitVec 4) (s : State) : Out := laneStat (.spstat d a n) true d a n s

/-- WARPSET (R286, R297). -/
def execWarpset (d a : Reg) (s : State) : Out :=
  runWord (.warpset d a) s fun c =>
    let t := s.cur.toNat
    let v := c.r a
    if bits64 v 63 48 ≠ 0 ∨ bits64 v 15 12 ≠ 0 then s.trap c 6 8 v
    else (s.updTile t fun tl => { tl with warp := v }).setCtx t (c.w d (s.tile t).warp).next

end Sys2Proof.Machine
end

