-- ==== Sys2Proof/Machine/Cascade.lean ====
section
/-! DEFINITION. The Cascade instructions (R298 to R326). -/

namespace Sys2Proof.Machine

open Sys2Proof

/-- The domain of the region of tile `t`: its number, itself, and the die that serves the tile (R300). -/
def State.casc (s : State) (t : Nat) : Option (Nat × Domain × Nat) :=
  match s.regionOf t with
  | some (_, r) => match r.domain with
    | some n => (s.dom? n).map fun d => (n, d, d.serving (tileDie t))
    | none => none
  | none => none

/-- The word completes and writes `v`. -/
def State.finish (s : State) (t : Nat) (c : Ctx) (d : Reg) (v : W64) : State := s.setCtx t (c.w d v).next

/-- The domain of a number as tile `t` sees it: that of a word that waits under the membership it issued under (R328). -/
def State.cascOf (s : State) (t n : Nat) : Option (Nat × Domain × Nat) := (s.dom? n).map fun d => (n, d, d.serving (tileDie t))

/-- WPUSH into a domain (R319): refused where no slot is free, held for its release, and waiting until its pip is visible. -/
def State.pushPip (s : State) (t : Nat) (c : Ctx) (d : Reg) (la : Nat) (sc : BitVec 2) (n : Nat) (dm : Domain) (e : Nat) : State :=
  let rec_ := pushRec n (pipOfBytes ((s.tile t).seBytes la 32))
  if !s.cascTakes n dm e then (s.countTile t 12 1).finish t c d 1
  else if !s.released t sc.toNat then s.hold t c (.release n)
  else
    let (s, id) := ((s.updTile t fun x => x.seqAccess la).effects t).accept n e rec_ t 0 true
    if s.unsettled id then s.hold t c (.push id) else s.finish t c d 0

/-- WPUSH (R319): a release; it completes when its pip is visible. -/
def execWpush (d a : Reg) (sc : BitVec 2) (s : State) : Out :=
  runWord (.wpush d a sc) s fun c =>
    let t := s.cur.toNat
    match c.wait with
    | .push id => if s.unsettled id then s else s.finish t c d 0
    | .told v => s.finish t c d v
    | _ =>
      let la := c.r a
      match checkLocal s t la 32 32 with
      | some code => s.trap c code 0 la
      | none =>
        match (match c.wait with
          | .release n => s.cascOf t n
          | _ => s.casc t) with
        | none => s.finish t c d 2
        | some (n, dm, e) => s.pushPip t c d la.toNat sc n dm e

/-- The visible pips of die `e` that R305 lets it pop. -/
def Domain.poppable (d : Domain) (e : Nat) : List Pip :=
  d.pips.filter fun p => p.visibleAt e && d.basin p ≤ (d.at e).f + d.dlt

/-- Those of the lowest basin. -/
def Domain.lowestPoppable (d : Domain) (e : Nat) : List Pip :=
  let l := d.poppable e
  let m := l.foldl (fun m p => min m (d.basin p)) 65536
  l.filter fun p => d.basin p == m

/-- A visible pip of die `e` is held back by the bound of R305 (R309). -/
def Domain.bounded (d : Domain) (e : Nat) : Bool := d.pips.any fun p => p.visibleAt e

/-- Ask the master for a round (R309). -/
def State.askRound (s : State) (n : Nat) : State :=
  match s.dom? n with
  | some d => s.setDom n { d with asked := true }
  | none => s

/-- The lowest hold index of a context that is free (R313). -/
def Ctx.freeHold (c : Ctx) : Nat := ((List.range 4).find? fun i => (SMap.get? c.holds i).isNone).getD 0

/-- Hand pip `p` of domain `n` to the context of tile `t` (R313, R320): it is held, counted and written to SE local address `la`. -/
def State.handPip (s : State) (n e t : Nat) (c : Ctx) (d : Reg) (la : Nat) (p : Pip) : State :=
  match s.dom? n with
  | none => s
  | some dm =>
    let h := c.freeHold
    let w0 := setField p.word0 11 10 h
    let p' := { p.setWord0 w0 with at_ := .held e, tile := t }
    let s1 := s.setDom n ((dm.setPip p').upd e fun x => x.tally 0 1 0 0)
    let s2 := match p.at_ with
      | .ring _ => s1.compact n e
      | _ => s1
    let s3 := (s2.updTile t fun x => (x.seqAccess la).seWrite la (pipBytes p'.w)).progress t
    s3.finish t { c with holds := SMap.put c.holds h p.id } d (BitVec.ofNat 64 h)

/-- The pip that die `e` hands out (R305): one of the lowest basin that it may pop. One whose ring access faults or is lost is dropped and the
next one is taken (R303); `fuel` bounds them. -/
def State.choosePip (n e : Nat) : Nat → State → State × Option Pip
  | 0, s => (s, none)
  | fuel + 1, s => match s.dom? n with
    | none => (s, none)
    | some dm =>
      let l := dm.lowestPoppable e
      match l[(Config.freeWord s.free).toNat % l.length]? with
      | none => (s, none)
      | some p =>
        let s := s.draw 1
        if p.at_ == .ring e then
          let i := dm.ringIx e p.id
          if s.ringLost || (s.ringSlot dm e i).isNone then State.choosePip n e fuel ((((s.draw 1).ringFault n e i p)).compact n e)
          else (s.draw 1, some p)
        else (s, some p)

/-- WPOP and WTRY in a domain (R305, R313, R320). -/
def State.popFrom (s : State) (t : Nat) (c : Ctx) (tries : Bool) (d : Reg) (la n : Nat) (dm : Domain) (e : Nat) : State :=
  if dm.term then s.finish t c d 5
  else if !tries && s.interrupted t c then s.finish t c d 6
  else match State.choosePip n e (dm.pips.length + 1) s with
    | (s, some p) => s.handPip n e t c d la p
    | (s, none) =>
      let s := if (s.dom? n).any fun m => m.bounded e then s.askRound n else s
      if tries then s.finish t c d 4 else s.hold t c (.pop n)

/-- WPOP and WTRY (R305, R313, R320): one that waits goes on under the membership it issued under (R328), and completes with status 5 once
termination is announced (R312) or the domain has ceased to exist (log 86). -/
def popWord (i : Instr) (tries : Bool) (d a : Reg) (sc : BitVec 2) (s : State) : Out :=
  runWord i s fun c =>
    let t := s.cur.toNat
    let la := c.r a
    match c.wait with
    | .told v => s.finish t c d v
    | .pop m => match s.cascOf t m with
      | none => s.finish t c d 5
      | some (n, dm, e) => s.popFrom t c tries d la.toNat n dm e
    | _ => match checkLocal s t la 32 32 with
      | some code => s.trap c code 0 la
      | none =>
        if 4 ≤ c.holds.length then s.trap c 6 4 (sc.setWidth 64)
        else match s.casc t with
          | none => s.finish t c d 7
          | some (n, dm, e) => s.popFrom t c tries d la.toNat n dm e

/-- WPOP. -/
def execWpop (d a : Reg) (sc : BitVec 2) (s : State) : Out := popWord (.wpop d a sc) false d a sc s
/-- WTRY. -/
def execWtry (d a : Reg) (sc : BitVec 2) (s : State) : Out := popWord (.wtry d a sc) true d a sc s

/-- The hold index in a register (R321). -/
def holdIx (v : W64) : Nat := bits64 v 1 0

/-- Retire a held pip (R321): R counts it. -/
def State.retirePip (s : State) (n id : Nat) : State :=
  match s.dom? n with
  | none => s
  | some d =>
    match d.pip? id with
    | some p => match p.at_ with
      | .held e => s.setDom n ((d.delPip id).upd e fun x => { x with r := x.r + 1 })
      | _ => s
    | none => s

/-- WDONE and WDONE.F (R315, R321): a release; the pip is one of the domain that it was popped in. -/
def doneWord (i : Instr) (fails : Bool) (d b : Reg) (sc : BitVec 2) (s : State) : Out :=
  runWord i s fun c =>
    let t := s.cur.toNat
    let h := holdIx (c.r b)
    match (SMap.get? c.holds h).bind fun id => (s.domOf id).map fun x => (id, x.1) with
    | some (id, n) =>
      if !s.released t sc.toNat then s.hold t c .again
      else (if fails then s.failPip n id else s.retirePip n id).finish t { c with holds := SMap.del c.holds h } d 0
    | none => s.finish t c d 1

/-- WDONE. -/
def execWdone (d b : Reg) (sc : BitVec 2) (s : State) : Out := doneWord (.wdone d b sc) false d b sc s
/-- WDONE.F. -/
def execWdoneF (d b : Reg) (sc : BitVec 2) (s : State) : Out := doneWord (.wdoneF d b sc) true d b sc s

/-- WPROMO (R316, R322): a lowering below T_d goes through LOW before the word completes. -/
def execWpromo (d a b : Reg) (s : State) : Out :=
  runWord (.wpromo d a b) s fun c =>
    let t := s.cur.toNat
    match c.wait with
    | .promo id old => if s.unsettled id then s else s.finish t c d old
    | _ =>
      match (SMap.get? c.holds (holdIx (c.r b))).bind fun id => (s.domOf id).map fun x => (id, x) with
      | some (id, n, dm) =>
        match dm.pip? id with
        | some p => match p.at_ with
          | .held e =>
            let p' := p.setWord0 (setField p.word0 63 48 (bits64 (c.r a) 15 0))
            let dm' := dm.setPip p'
            if dm.basin p' < dm.basin p ∧ dm.basin p' < (dm.at e).t then
              (s.setDom n { dm' with lows := dm'.lows ++ [(id, e)] }).hold t c (.promo id p.word0)
            else (s.setDom n dm').finish t c d p.word0
          | _ => s.finish t c d allOnes
        | none => s.finish t c d allOnes
      | none => s.finish t c d allOnes

/-- The word of WFLOOR (R323). -/
def Domain.floorWord (d : Domain) (e : Nat) : W64 := packBits [(16, d.low e), (0, (d.at e).f % 65536)]

/-- WFLOOR (R323). -/
def execWfloor (d : Reg) (s : State) : Out :=
  runWord (.wfloor d) s fun c =>
    let t := s.cur.toNat
    match s.casc t with
    | some (_, dm, e) => s.finish t c d (dm.floorWord e)
    | none => s.finish t c d allOnes

/-- A round is in progress (R307). -/
def Domain.inRound (d : Domain) : Bool := match d.st with
  | .rest => false
  | .lowering _ _ back => back
  | .collecting => true
  | .spreading => true

/-- WFLOOR.R (R309, R323): it asks for a round and waits until that round has ended. -/
def execWfloorR (d : Reg) (s : State) : Out :=
  runWord (.wfloorR d) s fun c =>
    let t := s.cur.toNat
    match c.wait with
    | .told v => s.finish t c d v
    | .round m k => match s.cascOf t m with
      | some (_, dm, e) => if dm.rounds < k then s else s.finish t c d (dm.floorWord e)
      | none => s.finish t c d allOnes
    | _ => match s.casc t with
      | some (n, dm, _) => (s.askRound n).hold t c (.round n (dm.rounds + (if dm.inRound then 2 else 1)))
      | none => s.finish t c d allOnes

/-! ### Membership (R300, R301, R324, R328) -/

/-- The field checks of a domain descriptor (R301). A package that is not in the list breaks it (log 22). -/
def domLegal (pkg : Nat) (bs : List Byte) : Bool :=
  let ctl := imgDouble bs 0
  let lg := bits64 ctl 45 40
  let npk := bits64 ctl 35 32
  let pk := (List.range 16).map fun i => leNat ((bs.drop (24 + 2 * i)).take 2)
  bits64 ctl 63 46 == 0 && bits64 ctl 39 36 == 0 && bits64 ctl 31 29 == 0 && bits64 ctl 23 22 == 0 && bits64 ctl 15 12 == 0
    && bits64 ctl 7 4 == 0 && (lg == 0 || (12 ≤ lg && lg ≤ 30))
    && (if lg = 0 then imgDouble bs 8 == 0 else (imgDouble bs 8).toNat % 2 ^ lg == 0)
    && imgDouble bs 16 == 0 && imgDouble bs 56 == 0
    && (if npk = 0 then pk.all (· == 0) else (pk.take (npk + 1)).contains pkg)

/-- The domain that a descriptor describes, as a region of die `die` of package `pkg` creates it (R300, R301, R304). -/
def newDomain (pkg die : Nat) (asid : BitVec 16) (bs : List Byte) : Domain :=
  let ctl := imgDouble bs 0
  let npk := bits64 ctl 35 32
  let pkgs := if npk = 0 then [pkg] else (List.range (npk + 1)).map fun i => leNat ((bs.drop (24 + 2 * i)).take 2)
  let mask := bits64 ctl 27 24
  let ds := (List.range 4).filter fun e => if mask = 0 then e == die else mask.testBit e
  { desc := doublesOf 8 bs
    asid := asid
    pkgs := pkgs
    here := pkgs.idxOf pkg
    dies := (List.range pkgs.length).flatMap fun p => ds.map fun e => 4 * p + e
    master := ds.headD 0 }

/-- A region joins a domain (R324, R328); a status. One that is in a domain is refused, and one that was in one, `old`, as the word issued. -/
def State.joinDomain (s : State) (t h : Nat) (r : Region) (old : Option Nat) (asid : BitVec 16) (bs : List Byte) : State × Nat :=
  let n := bits64 (imgDouble bs 0) 3 0
  if !domLegal s.hub.pkg.toNat bs then (s, 1)
  else if r.domain.isSome || old.isSome then (s, 2)
  else
    let s' := s.setRegion h { r with domain := some n }
    match s.dom? n with
    | some d => if d.desc != doublesOf 8 bs then (s, 3) else (s'.setDom n { d with members := d.members ++ [h] }, 0)
    | none => (s'.setDom n { newDomain s.hub.pkg.toNat (tileDie t) asid bs with members := [h] }, 0)

/-- The domain of the region of tile `t`. -/
def State.memberOf (s : State) (t : Nat) : Option Nat := (s.regionOf t).bind fun x => x.2.domain

/-- WDOM unit 0 (R324): one that waits for its descriptor goes on under the membership it issued under (R328). -/
def execWdomJoin (d a : Reg) (s : State) : Out :=
  runWord (.wdomJoin d a) s fun c =>
    let t := s.cur.toNat
    let va := c.r a
    let old := if c.wait = .idle then s.memberOf t else c.dom0
    if va.toNat % 64 ≠ 0 then s.trap c 2 0 va
    else s.readOwn t { c with dom0 := old } va 64 fun bs =>
      match s.regionOf t with
      | some (h, r) =>
        let (s, st) := s.joinDomain t h r old c.asid bs
        s.finish t c d (BitVec.ofNat 64 st)
      | none => s.finish t c d 2

/-- WDOM unit 1 (R324): refused while the region is in no domain, or holds pips. -/
def execWdomLeave (d : Reg) (s : State) : Out :=
  runWord (.wdomLeave d) s fun c =>
    let t := s.cur.toNat
    match s.regionOf t with
    | some (h, r) => match r.domain with
      | some n =>
        if (s.regionCtxs r).any fun x => !x.2.holds.isEmpty then s.finish t c d 2
        else ((s.setRegion h { r with domain := none }).leaveDomain n h).finish t c d 0
      | none => s.finish t c d 2
    | none => s.finish t c d 2

/-- WDOM unit 2 (R324). -/
def execWdomQuery (d : Reg) (s : State) : Out :=
  runWord (.wdomQuery d) s fun c =>
    let t := s.cur.toNat
    match s.casc t with
    | some (n, _, _) => s.finish t c d (BitVec.ofNat 64 n)
    | none => s.finish t c d allOnes

/-- The die word (R325). -/
def Domain.dieWord (d : Domain) (n e : Nat) : W64 :=
  packBits [(62, if d.term then 2 else 1), (58, n), (54, d.bsh), (48, d.dlt), (34, d.chip e), (16, min 65535 (d.spilled e)),
    (0, (d.at e).f % 65536)]

/-- The counters word (R325). -/
def DomDie.counters (x : DomDie) : W64 := packBits [(48, x.psh.toNat), (32, x.pop.toNat), (16, x.rpl.toNat), (0, x.drp.toNat)]

/-- WSTAT (R325): counts of the present cycle survive a clear in it. -/
def execWstat (d a : Reg) (s : State) : Out :=
  runWord (.wstat d a) s fun c =>
    let t := s.cur.toNat
    match s.casc t with
    | none => s.finish t c d 0
    | some (n, dm, e) =>
      let x := dm.at e
      match bits64 (c.r a) 2 0 with
      | 0 => s.finish t c d (dm.dieWord n e)
      | 1 => s.finish t c d x.counters
      | 2 => (s.setDom n (dm.setAt e { x with psh := x.now.c3, pop := x.now.c2, rpl := x.now.c1, drp := x.now.c0 })).finish t c d x.counters
      | 3 => s.finish t c d x.last
      | 4 => s.finish t c d (x.p.extractLsb' 0 32 ++ x.r.extractLsb' 0 32)
      | _ => s.finish t c d 0

/-- WDRAIN in a domain (R326). -/
def State.drainFrom (s : State) (t : Nat) (c : Ctx) (d : Reg) (n : Nat) (dm : Domain) : State :=
  if dm.term then s.finish t c d 0
  else if s.interrupted t c then s.finish t c d 6
  else s.hold t c (.drain n)

/-- WDRAIN (R326): one that waits goes on under the membership it issued under (R328), and completes once termination is announced (R312)
or the domain has ceased to exist (log 86). -/
def execWdrain (d : Reg) (sc : BitVec 2) (s : State) : Out :=
  runWord (.wdrain d sc) s fun c =>
    let t := s.cur.toNat
    match c.wait with
    | .told v => s.finish t c d v
    | .drain m => match s.dom? m with
      | none => s.finish t c d 0
      | some dm => s.drainFrom t c d m dm
    | _ => match s.casc t with
      | none => s.finish t c d 7
      | some (n, dm, _) => s.drainFrom t c d n dm

end Sys2Proof.Machine
end

