-- ==== Sys2Proof/Machine/Floor.lean ====
section
/-! DEFINITION. The Cascade's own steps: lowerings and rounds of the floor (R304 to R309), balancing (R308, R310), termination (R311,
R312), and the spill rings (R302). Dies of a domain are numbered 4 p + d over its package list. -/

namespace Sys2Proof.Machine

open Sys2Proof

/-- A step of domain `n`. -/
def domStep (n : Nat) (s : State) (f : Domain → State) : State :=
  match s.dom? n with
  | some d => f d
  | none => s

/-- Send SETF of the floor to every die of the domain (R306, R307). -/
def Domain.sendSetf (d : Domain) : Domain :=
  d.dies.foldl (fun d e => d.upd e fun x => { x with setf := some d.floor }) d

/-- The master handles the LOW message that came first (R306). -/
def floorLow (n : Nat) (s : State) : State :=
  domStep n s fun d =>
    match d.lows with
    | [] => s
    | (id, e) :: rest =>
      let go (back : Bool) : State :=
        let b := match d.pip? id with
          | some p => d.basin p
          | none => 65536
        let d := { d with lows := rest, pend := if back then min d.pend b else d.pend }
        if b < d.floor then s.setDom n ({ d with floor := b, st := .lowering id e back }).sendSetf
        else s.setDom n { d with acks := d.acks ++ [(id, e)] }
      match d.st with
      | .rest => go false
      | .collecting => go true
      | _ => s

/-- FLOOR_LOW_MESSAGE (R306). -/
def execFloorLowMessage (n : Nat) (s : State) : Out := .next (floorLow n s)

/-- A die applies SETF (R306). -/
def setfApply (n e : Nat) (s : State) : State :=
  domStep n s fun d =>
    match (d.at e).setf with
    | some v => s.setDom n (d.upd e fun x => { x with f := v, t := v, setf := none })
    | none => s

/-- SETF_APPLY (R306, R307). -/
def execSetfApply (n e : Nat) (s : State) : Out := .next (setfApply n e s)

/-- Every die of the domain has applied the SETF: a lowering is acknowledged, a round ends (R306, R307). -/
def setfApplied (n : Nat) (s : State) : State :=
  domStep n s fun d =>
    if d.dies.any fun e => (d.at e).setf.isSome then s
    else match d.st with
      | .lowering id e back => s.setDom n { d with st := if back then .collecting else .rest, acks := d.acks ++ [(id, e)] }
      | .spreading => s.setDom n { d with st := .rest, rounds := d.rounds + 1 }
      | _ => s

/-- SETF_APPLIED (R306, R307). -/
def execSetfApplied (n : Nat) (s : State) : Out := .next (setfApplied n s)

/-- An acknowledgement reaches die `e` (R306): the pip becomes visible; a promoted pip is held and stays so (R316). -/
def lowAck (n e : Nat) (s : State) : State :=
  domStep n s fun d =>
    match d.acks.find? fun x => x.2 == e with
    | none => s
    | some (id, _) =>
      let s := s.setDom n { d with acks := d.acks.erase (id, e) }
      match d.pip? id with
      | some p => if p.at_ == .pending e then s.visible n e id else s
      | none => s

/-- LOW_ACK (R306). -/
def execLowAck (n e : Nat) (s : State) : Out := .next (lowAck n e s)

/-- The cycle count by which the master counts (R309). -/
def State.masterNow (s : State) (d : Domain) : W64 := s.cycles (cascIsland d.master)

/-- The master opens a round: asked for, or 1,024 cycles after the last one while some pip is visible (R307, R309). -/
def roundStart (n : Nat) (s : State) : State :=
  domStep n s fun d =>
    let now := s.masterNow d
    let vis := d.pips.any fun p => d.dies.any fun e => p.visibleAt e
    if d.st == .rest && (d.asked || (vis && d.lastRound.toNat + 1024 ≤ now.toNat)) then
      let d := { d with st := .collecting, asked := false, pend := 65536, got := 65536, lastRound := now }
      s.setDom n (d.dies.foldl (fun d e => d.upd e fun x => { x with query := true, reply := none }) d)
    else s

/-- FLOOR_ROUND_START (R307, R309). -/
def execFloorRoundStart (n : Nat) (s : State) : Out := .next (roundStart n s)

/-- QUERY reaches die `e` (R307): its push threshold goes to the top and it replies m_d. -/
def floorQuery (n e : Nat) (s : State) : State :=
  domStep n s fun d =>
    if (d.at e).query then s.setDom n (d.upd e fun x => { x with query := false, t := 65536, reply := some (d.low e) }) else s

/-- FLOOR_QUERY (R307). -/
def execFloorQuery (n e : Nat) (s : State) : Out := .next (floorQuery n e s)

/-- A reply reaches the master (R307): with the last of them the floor rises and SETF goes out. -/
def floorReply (n e : Nat) (s : State) : State :=
  domStep n s fun d =>
    match d.st, (d.at e).reply with
    | .collecting, some v =>
      let d := { (d.upd e fun x => { x with reply := none }) with got := min d.got v }
      if d.dies.any fun e => (d.at e).query || (d.at e).reply.isSome then s.setDom n d
      else s.setDom n ({ d with floor := max d.floor (min d.got d.pend), st := .spreading }).sendSetf
    | _, _ => s

/-- FLOOR_REPLY (R307). -/
def execFloorReply (n e : Nat) (s : State) : Out := .next (floorReply n e s)

/-! ### Balancing -/

/-- Contexts that die `e` serves in the domain and that wait in a word of a kind (R310, R312). -/
def State.domWaiters (s : State) (d : Domain) (e : Nat) (f : Wait → Bool) : Nat :=
  if e / 4 ≠ d.here then 0
  else (s.ctxs.filter fun x => !x.2.halted && f x.2.wait && d.serving (tileDie x.1) == e).length

/-- The dies that die `e` asks for work, in its order (R310): those of its package first, from itself upward, then the others. -/
def Domain.askOrder (d : Domain) (e : Nat) : List Nat :=
  let own := d.dies.filter fun x => x / 4 == e / 4 && x != e
  (own.filter fun x => e < x) ++ (own.filter fun x => x < e) ++ d.dies.filter fun x => x / 4 != e / 4

/-- Die `e` asks die `o` for work (R310): a WPOP waits there, nothing is poppable, every die before `o` has answered with nothing,
and 256 cycles have gone by. For a die of another package the wait is that package's to say. -/
def balanceRequest (n e o : Nat) (s : State) : State :=
  domStep n s fun d =>
    let x := d.at e
    let now := s.cycles (cascIsland e)
    let due := match x.askedAt with
      | none => true
      | some a => a.toNat + 256 ≤ now.toNat
    let waits := e / 4 ≠ d.here || s.domWaiters d e (· == .pop n) ≠ 0
    let done := if (d.askOrder e).all fun y => x.askedAll.contains y then [] else x.askedAll
    if due && waits && x.asks.isEmpty && (d.poppable e).isEmpty && (d.askOrder e).find? (fun y => !done.contains y) == some o then
      s.setDom n (d.upd e fun x => { x with asks := [o], askedAt := some now, askedAll := done })
    else s

/-- BALANCE_REQUEST (R310). -/
def execBalanceRequest (n e o : Nat) (s : State) : Out := .next (balanceRequest n e o s)

/-- The pips in order of rising basin. -/
def Domain.byBasin (d : Domain) (ps : List Pip) : List Pip := ps.mergeSort fun p q => d.basin p ≤ d.basin q

/-- One pip leaves die `o` for die `e` (R308, R311); one that the ring cannot give is dropped (R303). -/
def State.sendPip (s : State) (n o e : Nat) (p : Pip) : State :=
  match s.dom? n with
  | none => s
  | some d =>
    if p.at_ == .ring o && (s.ringLost || (s.ringSlot d o (d.ringIx o p.id)).isNone) then
      (((s.draw 1).ringFault n o (d.ringIx o p.id) p)).compact n o
    else
      let s := s.setDom n ((d.setPip { p with at_ := .moving o e, src := some o }).upd o fun x => { x with r := x.r + 1 })
      if p.at_ == .ring o then (s.draw 1).compact n o else s

/-- Die `o` answers die `e` (R310): half its surplus, 32 pips at most, the lowest basins first. -/
def balanceAnswer (n e o : Nat) (s : State) : State :=
  domStep n s fun d =>
    if !(d.at e).asks.contains o then s
    else
      let sur := (d.poppable o).length - s.domWaiters d o (· == .pop n)
      let can := d.byBasin ((d.poppable o).filter fun p => bits64 p.word0 12 12 == 0)
      let out := can.take (min 32 ((sur + 1) / 2))
      let d := d.upd e fun x => { x with
        asks := x.asks.filter fun y => y != o
        askedAll := if out.isEmpty then x.askedAll ++ [o] else [] }
      out.foldl (fun s p => s.sendPip n o e p) (s.setDom n d)

/-- BALANCE_ANSWER (R310). -/
def execBalanceAnswer (n e o : Nat) (s : State) : Out := .next (balanceAnswer n e o s)

/-- The `ix`-th pip on its way between dies arrives (R308): inserted as a push, its home the receiving die; it waits while the die
cannot take it (R302). -/
def pipMoveArrive (n ix : Nat) (s : State) : State :=
  domStep n s fun d =>
    let moving := d.pips.filterMap fun p => match p.at_ with
      | .moving _ b => some (p, b)
      | _ => none
    match moving[ix]? with
    | none => s
    | some (p, b) =>
      if b / 4 = d.here && !s.cascTakes n d b then s
      else
        let d := d.setPip { p.setWord0 (setField p.word0 3 2 (b % 4)) with at_ := .pending b }
        (s.setDom n { d with term := false, pass1 := false }).insertPip n b p.id

/-- PIP_MOVE_ARRIVE (R308). -/
def execPipMoveArrive (n ix : Nat) (s : State) : Out := .next (pipMoveArrive n ix s)

/-- The report that a moved pip is visible reaches the die that still counts it (R308). -/
def execMoveVisibleReport (n ix : Nat) (s : State) : Out :=
  .next (domStep n s fun d => s.setDom n { d with reports := d.reports.eraseIdx ix })

/-! ### Termination -/

/-- A copy slot of die `e` that belongs to a member region and pushes pips is firing or holds fire tokens (R311). -/
def State.domCopies (s : State) (d : Domain) (e : Nat) : Bool :=
  e / 4 == d.here && (s.die (e % 4)).slots.any fun (i, c) =>
    d.members.contains c.region && c.pip && (c.fir.isSome || !(s.fireq (e % 4) c.fq).isEmpty
      || (s.die (e % 4)).fwait.any fun w => w.slot == some i)

/-- Die `e` is idle for the domain (R311). -/
def State.domIdle (s : State) (d : Domain) (e : Nat) : Bool :=
  !(d.pips.any fun p => p.at_ == .pending e || p.visibleAt e || p.at_ == .held e || p.src == some e)
    && !(d.reports.any fun r => r.1 == e) && !s.domCopies d e

/-- Every die of the domain reports a WPOP or a WDRAIN waiting (R312). What a die of another package reports is a free value (log 86). -/
def State.domWaits (s : State) (n : Nat) (d : Domain) : Bool := d.dies.all fun e =>
  if e / 4 = d.here then s.domWaiters d e (fun w => w == .pop n || w == .drain n) != 0 else (Config.freeWord s.free).getLsbD (e % 64)

/-- One pass of the detection (R312): the second one finds the domain terminated where no count has moved. -/
def terminationPass (n : Nat) (s : State) : State :=
  domStep n s fun d =>
    let idle := d.dies.all fun e => s.domIdle d e
    if d.term then s
    else if d.pass1 then
      let same := d.dies.all fun e => (d.at e).idle1 == some ((d.at e).p, (d.at e).r)
      let s := s.setDom n { d with pass1 := false, term := idle && same }
      if idle && same then s.announce n false else s
    else
      let now := s.masterNow d
      let due := match d.lastTerm with
        | none => true
        | some a => a.toNat + 1024 ≤ now.toNat
      if !(due && idle) then s
      else if !s.domWaits n d then s.draw 1
      else
        let sp := (d.dies.map fun e => (d.at e).p).foldl (· + ·) 0
        let sr := (d.dies.map fun e => (d.at e).r).foldl (· + ·) 0
        let d := d.dies.foldl (fun d e => d.upd e fun x => { x with idle1 := some (x.p, x.r) }) d
        (s.draw 1).setDom n { d with lastTerm := some now, pass1 := sp == sr }

/-- TERMINATION_PASS (R312). -/
def execTerminationPass (n : Nat) (s : State) : Out := .next (terminationPass n s)

/-! ### The spill rings -/

/-- One spill or refill of die `e` (R302): a pip above the window goes to the ring; the lowest of the ring returns where
the window covers it. `lost` says that the access is lost or meets an uncorrectable error (R303). -/
def spillRefill (n e : Nat) (lost : Bool) (s : State) : State :=
  domStep n s fun d =>
    let top := (d.at e).f + 63
    let high := match d.highest e with
      | some p => d.ringFree e && top < d.basin p
      | none => false
    if high then s.spillPip n e lost
    else match d.lowest e with
      | some q => if d.basin q ≤ top then s.refillPip n e lost else s
      | none => s

/-- SPILL_REFILL (R302, R303). -/
def execSpillRefill (n : Nat) (a : RingAccess) (s : State) : Out := .next (spillRefill n a.die a.lost s)

end Sys2Proof.Machine
end

