-- ==== Sys2Proof/Machine/Groups.lean ====
section
/-! DEFINITION. Groups and their barriers (R336, R350 to R352), segments (R337, R353), PARK (R354), contracts as a context reads them
(R355), and when a region is parked or awaiting (R347). -/

namespace Sys2Proof.Machine

open Sys2Proof

/-! ### Groups -/

/-- The members of group `k` of a region, with their tiles, in position order (R336, R84). -/
def State.members (s : State) (r : Region) (k : BitVec 3) : List (Nat × Ctx) :=
  (s.regionCtxs r).filter fun x => x.2.group == some k && !x.2.halted

/-- The open episode of group `k` has had its first arrival, and every current member has arrived (R351). -/
def State.allArrived (s : State) (r : Region) (k : BitVec 3) : Bool :=
  r.gArr.contains k.toNat && (s.members r k).all fun x => x.2.pendingMember || x.2.arrivedAt

/-- The open episode of group `k` completes (R336, R351): who arrived goes on, and pending members become current. -/
def State.episodeEnds (s : State) (h : Nat) (k : BitVec 3) : State :=
  match s.region? h with
  | none => s
  | some r =>
    if !s.allArrived r k then s
    else
      let s := (s.members r k).foldl (fun (s : State) (x : Nat × Ctx) => s.setCtx x.1 { x.2 with
        wait := if x.2.wait = .arrived then .episode else x.2.wait
        arrivedAt := false
        pendingMember := false }) s
      s.setRegion h { r with gArr := r.gArr.filter fun j => j != k.toNat }

/-- GBAR_EPISODE_COMPLETE (R351): every current member has arrived. -/
def execGbarEpisodeComplete (h : Nat) (k : BitVec 3) (s : State) : Out := .next (s.episodeEnds h k)

/-- The context of tile `t` leaves its group, and where every remaining current member has arrived the episode completes (R350, R374). -/
def State.leaveGroup (s : State) (t : Nat) (c : Ctx) : State :=
  match c.group, s.regionOf t with
  | some k, some (h, _) => (s.setCtx t { c with group := none, pendingMember := false, arrivedAt := false }).episodeEnds h k
  | _, _ => s

/-- GJOIN (R336, R350). -/
def execGjoin (d a : Reg) (s : State) : Out :=
  runWord (.gjoin d a) s fun c =>
    let t := s.cur.toNat
    match c.group, s.regionOf t with
    | none, some (_, r) =>
      let k : BitVec 3 := (c.r a).setWidth 3
      s.finish t { c with group := some k, pendingMember := r.gArr.contains k.toNat, arrivedAt := false } d 0
    | _, _ => s.finish t c d 1

/-- GLEAVE (R350). -/
def execGleave (d : Reg) (s : State) : Out :=
  runWord (.gleave d) s fun c =>
    let t := s.cur.toNat
    match c.group with
    | none => s.finish t c d 1
    | some _ => (s.finish t c d 0).leaveGroup t (c.w d 0).next

/-- The context arrives at its group's barrier (R351): from the first arrival on, later members are pending. -/
def State.arrive (s : State) (t : Nat) (c : Ctx) (k : BitVec 3) : State :=
  match s.regionOf t with
  | none => s
  | some (h, r) => (s.setRegion h { r with gArr := insRising r.gArr k.toNat }).setCtx t { c with arrivedAt := true, wait := .arrived }

/-- GBAR (R351): completion and withdrawal are one decision. -/
def execGbar (d : Reg) (sc : BitVec 2) (s : State) : Out :=
  runWord (.gbar d sc) s fun c =>
    let t := s.cur.toNat
    match c.group, s.regionOf t with
    | some k, some (h, r) =>
      match c.wait with
      | .episode => s.finish t c d 0
      | .arrived =>
        if !s.interrupted t c then s
        else if s.allArrived r k then (s.episodeEnds h k).finish t { c with arrivedAt := false } d 0
        else s.finish t { c with arrivedAt := false } d 6
      | _ =>
        if s.interrupted t c then s.finish t c d 6
        else if !s.released t sc.toNat then s.hold t c .again
        else if c.pendingMember then s.hold t c .later
        else s.arrive t c k
    | _, _ => s.finish t c d 1

/-- GSIZE (R352). -/
def execGsize (d : Reg) (s : State) : Out :=
  runWord (.gsize d) s fun c =>
    let t := s.cur.toNat
    match c.group, s.regionOf t with
    | some k, some (_, r) =>
      let ms := s.members r k
      let below := (ms.takeWhile fun x => x.1 != t).length
      s.finish t c d (packBits [(8, below), (0, ms.length)])
    | _, _ => s.finish t c d allOnes

/-! ### Segments and PARK -/

/-- SEGEND (R337, R353). -/
def execSegend (d : Reg) (s : State) : Out :=
  runWord (.segend d) s fun c =>
    let t := s.cur.toNat
    s.finish t { c with segOpen := false } d (flag (s.latched t))

/-- A port that PARK may name (R354). -/
def State.parkable (s : State) (t vp : Nat) : Bool :=
  let tl := s.tile t
  tl.isOut vp && !tl.bound vp && !tl.rillReads vp && !tl.matrixReads vp && !s.feeds t vp && !s.spoutReads t vp

/-- The mask of the named ports that hold a head. -/
def State.heads (s : State) (t : Nat) (m : W64) : W64 :=
  BitVec.ofNat 64 (((List.range 64).map fun vp =>
    if m.getLsbD vp && !((s.tile t).buf (vKey vp)).toks.isEmpty then 2 ^ vp else 0).sum)

/-- PARK (R354): an interruption writes 0 (R342). Its ports are looked at as it issues; once it waits, a head or an interruption alone ends it
(R172, R349, log 104). -/
def execPark (d a : Reg) (s : State) : Out :=
  runWord (.park d a) s fun c =>
    let t := s.cur.toNat
    let m := c.r a
    if m = 0 then s.finish t c d 0
    else if c.wait != .park && (List.range 64).any fun vp => m.getLsbD vp && !s.parkable t vp then s.refusedPort c 0
    else if s.interrupted t c then s.finish t c d 0
    else
      let hs := s.heads t m
      if hs = 0 then s.hold t c .park else s.finish t c d hs

/-! ### Contracts -/

/-- CTRACT (R355). -/
def execCtract (d : Reg) (sel : BitVec 2) (s : State) : Out :=
  runWord (.ctract d sel) s fun c =>
    let t := s.cur.toNat
    match s.regionOf t with
    | none => s.finish t c d 0
    | some (h, r) =>
      match r.contract with
      | none => s.finish t c d 0
      | some k =>
        match sel.toNat with
        | 0 => s.finish t c d (packBits [(63, 1), (62, b1 k.frames), (48, r.island), (32, k.ovr.toNat)])
        | 1 => s.finish t c d (packBits [(32, k.p), (0, k.b)])
        | 2 => s.finish t c d (packBits [(32, k.num.toNat), (0, k.left)])
        | _ => (s.setRegion h { r with contract := some { k with left := 0 } }).finish t c d (BitVec.ofNat 64 k.left)

/-! ### Parked and awaiting -/

/-- The context waits in WPOP, WDRAIN or PARK (R347). -/
def Ctx.parks (c : Ctx) : Bool := match c.wait with
  | .pop _ | .drain _ | .told _ | .park => true
  | _ => false

/-- The contexts of a region that have not halted. -/
def State.live (s : State) (r : Region) : List (Nat × Ctx) := (s.regionCtxs r).filter fun x => !x.2.halted

/-- The region is parked (R347). -/
def State.parked (s : State) (r : Region) : Bool := (s.live r).all fun x => x.2.parks

/-- A request belongs to region `h`. -/
def State.ownsReq (s : State) (h : Nat) (q : Req) : Bool := s.reqRegion q == h

/-- A context waits at the monitor level for an answer from a root core or the host (R362). -/
def Ctx.asks (c : Ctx) : Bool := !c.halted && (c.awaiting || c.wait == .answer)

/-- The region is awaiting (R347, R362). -/
def State.awaits (s : State) (h : Nat) (r : Region) : Bool :=
  (s.reqs.any fun q => isRemote q.pa && q.unanswered && s.ownsReq h q)
    || (s.regionCtxs r).any (fun x => x.2.asks)
    || s.dies.any fun (_, d) => (d.slots.any fun (_, c) => c.region == h && c.st == 3)
      || (d.sluice.any fun (_, l) => l.region == h && l.st == 2) || d.spout.any fun (_, l) => l.region == h && l.st == 2

end Sys2Proof.Machine
end

