-- ==== Sys2Proof/Machine/System.lean ====
section
/-! DEFINITION. System instructions (R370, R374), asynchronous traps (R357), the fault tree and the root cores (R11, R362 to R364, R375),
invalidations (R369), and errors of the configuration store (R365). -/

namespace Sys2Proof.Machine

open Sys2Proof

/-! ### Reads under an address space, outside any context -/

/-- One byte at a virtual address that the tables let an agent read: mapped, readable, no device page, no spill ring. -/
def State.vByte (s : State) (asid : BitVec 16) (va : W64) : Option Byte :=
  match walkTables s asid va with
  | some e => if e.r && e.kind != .device && !ringed s asid va then some (s.seen.get (e.phys va)) else none
  | none => none

/-- The bytes of one page part. -/
def State.vPart (s : State) (asid : BitVec 16) (va : W64) (n : Nat) : Option (List Byte) :=
  match walkTables s asid va with
  | some e => if e.r && e.kind != .device && !ringed s asid va then some (s.seen.bytes (e.phys va) n) else none
  | none => none

/-- The `n` bytes at a virtual address, or none where some page refuses. -/
def State.vBytes (s : State) (asid : BitVec 16) (va : W64) (n : Nat) : Option (List Byte) :=
  (pageStarts va n).foldl (fun acc p => match acc with
    | some bs => (s.vPart asid p (partLen va n p)).map fun x => bs ++ x
    | none => none) (some [])

/-- Write bytes at a virtual address, page by page: only writable normal pages take them; the number of page parts not written. -/
def State.vWrite (s : State) (asid : BitVec 16) (va : W64) (bs : List Byte) : State × Nat :=
  (pageStarts va bs.length).foldl (fun (acc : State × Nat) p =>
    let (s, n) := acc
    let part := (bs.drop (p - va).toNat).take (partLen va bs.length p)
    match walkTables s asid p with
    | some e =>
      if e.w && !e.cow && e.kind == .normal && !ringed s asid p then (s.store (e.phys p) part, n) else (s, n + 1)
    | none => (s, n + 1)) (s, 0)

/-! ### TRAP, SYSC, HALT, ERET -/

/-- TRAP (R374): at the image level cause 0x10 (R357), once every earlier word has completed; at the monitor level a report. -/
def execTrap (a : Reg) (s : State) : Out :=
  runWord (.trap a) s fun c =>
    let t := s.cur.toNat
    if c.lvl then
      (s.token ⟨causeWord false 0 0x10, c.r a, c.pc, t, (s.tile t).region, startStage c t, false, c.asid⟩).setCtx t c.next
    else if s.loadsOut t ≠ 0 then s.hold t c .again
    else s.raise t c 0x10 0 (c.r a) (c.pc + 4)

/-- SYSC (R370): at the image level a trap of cause 0x11 that asks the package root; at the monitor level the same request without a
trap. -/
def execSysc (d a : Reg) (s : State) : Out :=
  runWord (.sysc d a) s fun c =>
    let t := s.cur.toNat
    match c.wait with
    | .answer => s
    | .answered v => s.finish t c d v
    | _ =>
      if s.outstanding t then s.hold t c .again
      else
        let s := { s with rootq := s.rootq ++ [((0, RootReq.sysc t (s.tile t).region d (c.r a)) : Nat × RootReq)] }
        if c.lvl then s.hold t c .answer
        else s.setCtx t { c.takeTrap (causeWord false 0 0x11) (c.r a) (c.pc + 4) with awaiting := true }

/-- HALT (R374): it waits for the posted stores, leaves the group and stops for good. -/
def execHalt (s : State) : Out :=
  runWord .halt s fun c =>
    let t := s.cur.toNat
    if s.storesOut t ≠ 0 then s.hold t c .again
    else
      let c' := { c.next with halted := true }
      (s.setCtx t c').leaveGroup t c'

/-- Cause words that a die root settles by an abort (R362). -/
def aborting (code : Nat) : Bool := [1, 2, 4, 5, 6, 8, 0x34].contains code

/-- The header of a region's fault record (R364). -/
def faultHeader (s : State) (f : FaultTok) (n : W32) : List Byte :=
  leBytes 8 (f.cause.toNat + (s.hub.pkg.toNat * 1024 + f.tile) * 2 ^ 32) ++ leBytes 8 f.tval.toNat ++ leBytes 8 f.epc.toNat
    ++ leBytes 8 (s.cycles (islandOf f.tile)).toNat ++ leBytes 8 n.toNat ++ List.replicate 24 0

/-- The token that an SE would send on out port `o`: a queued result, the oldest token of a FIFO, or the token at I0. -/
def Tile.seWaits (t : Tile) (site o : Nat) : Option Tok :=
  let e := t.se site
  let mode := t.seMode site
  if o = 0 then
    if mode = 2 ∨ mode = 3 then e.fifo.head? else if e.outq.isEmpty then t.seHead site 0 else e.outq.head?
  else if mode = 5 ∧ e.outq.isEmpty then t.seHead site 0 else none

/-- blk (R171): out port `o` of a site has no free slot for what would leave there. At a VE that is a firing all of whose heads
stand ready (R153), or a marker that waits at the end of st6 (R154). -/
def State.siteStuck (s : State) (t site o : Nat) : Bool :=
  let tl := s.tile t
  if isVe site then
    match (tl.ve site).pipe with
    | f :: _ => match (if o = 0 then f.o0 else f.o1) with
      | x :: _ => f.started && !s.outCan t site o x
      | [] => false
    | [] => match tl.veCfg site with
      | some c => match tl.presented c site with
        | some ((_, r, code) :: ps) =>
          (ps.all fun x => x.2.1 == r && x.2.2 == code) && writes c o && !s.outCan t site o (probe c o (tl.siteEp site))
        | _ => false
      | none => false
  else match tl.seWaits site o with
    | some x => !s.canSend t site (4 + o) x
    | none => false

/-- One double of a QWC snapshot (R171). -/
def siteSnapshot (s : State) (t site : Nat) : W64 :=
  let tl := s.tile t
  let lnk := (List.range 8).map fun k => (20 + 4 * k, min 15 (tl.buf (lKey site k)).toks.length)
  let fill := if isVe site then (List.range 4).map fun k => (3 * k, min 7 (tl.buf (qKey site k)).toks.length)
    else [(0, min 8191 (tl.se site).fifo.length)]
  packBits (lnk ++ [(18, b1 (s.siteStuck t site 0)), (19, b1 (s.siteStuck t site 1))] ++ fill)

/-- The snapshot of a region: one block of 64 doubles per tile (R171, R364). -/
def snapshot (s : State) (r : Region) : List Byte :=
  r.tiles.flatMap fun t => (List.range 64).flatMap fun i => leBytes 8 (siteSnapshot s t i).toNat

/-- The bytes of a region's fault record (R364): its header, and behind that of a QWC fault the snapshot. -/
def recordBytes (s : State) (r : Region) (f : FaultTok) (n : W32) : List Byte :=
  faultHeader s f n ++ if f.cause.toNat % 256 = 0x20 then snapshot s r else []

/-- Write a record in 64-byte writes (R131, R364), the `i`th on: each that its page refuses, or that is lost or meets an uncorrectable error
(`lost`), is not made and counted. Structural on a bound of their number. -/
def State.recordWrites (asid : BitVec 16) (lost : List Nat) : Nat → Nat → W64 → List Byte → State × Nat → State × Nat
  | 0, _, _, _, x => x
  | k + 1, i, va, bs, (s, n) =>
    if bs.isEmpty then (s, n)
    else State.recordWrites asid lost k (i + 1) (va + 64) (bs.drop 64)
      (if lost.contains i then (s, n + 1)
       else let r := s.vWrite asid va (bs.take 64); (r.1, n + r.2))

/-- Write a region's fault record (R364): the writes that could not be made are counted in double 15 of the package root's block. -/
def State.faultRecord (s : State) (f : FaultTok) (lost : List Nat) : State :=
  match s.region? f.region with
  | none => s
  | some r =>
    let n := sat32 r.nfaults 1
    let s := s.setRegion f.region { r with nfaults := n }
    let bs := recordBytes s r f n
    let x := State.recordWrites r.asid lost (bs.length / 64 + 1) 0 r.recVa bs (s, 0)
    x.1.count (ctrTile (rootTile 0) 15) x.2

/-- The token goes on from the root core of die `d` (R11): to the package root, or from there to the host. -/
def FaultTok.onward (f : FaultTok) (d : Nat) : FaultTok := { f with stage := if d = 0 then 2 else 1 }

/-- The page of a fault token is homed at a host (R362): it maps host memory, or nothing maps it, so that the host has to (log 89). -/
def State.hostHomed (s : State) (f : FaultTok) : Bool := match walkTables s f.asid f.tval with
  | some e => isHost (e.phys f.tval)
  | none => true

/-- What a die root settles alone (R362): a suspension or a ring fault on a page that no host homes. -/
def State.settledHere (s : State) (f : FaultTok) : Bool :=
  let code := f.cause.toNat % 256
  f.stage == 0 && 0x31 ≤ code && code ≤ 0x33 && !s.hostHomed f

/-- A root core has settled a fault token (R362): a cause of its own aborts the region; a suspension on a page that no host homes ends here;
every other goes on up the tree. -/
def State.settleFault (s : State) (d : Nat) (f : FaultTok) : State :=
  if aborting (f.cause.toNat % 256) && f.asks then s.condemn f
  else if s.settledHere f then { s with ftoks := s.ftoks ++ [{ f with stage := 4 }] }
  else { s with ftoks := s.ftoks ++ [f.onward d] }

/-- The request that a root core serves is a SYSC. -/
def State.servesSysc (s : State) (d : Nat) : Bool := match SMap.get? s.roots d with
  | some (.sysc ..) => true
  | _ => false

/-- ERET (R360); on a root core it ends the request (R375). An answer releases what the root core has written, so that its arrival is an
acquire of it (R370). -/
def execEret (s : State) : Out :=
  runWord .eret s fun c =>
    let t := s.cur.toNat
    if c.isRoot && s.servesSysc (tileDie t) && s.outstanding t then s.hold t c .again
    else if c.isRoot then
      let d := tileDie t
      let s1 := (s.setCtx t { c with mloop := [], ret := c.ret + 1, ord := none, wait := .idle }).endRoot d
      match SMap.get? s.roots d with
      | some (.sysc u h r _) => { s1 with rootq := s1.rootq ++ [((0, RootReq.answer u h r (c.r 1)) : Nat × RootReq)] }
      | some (.fault f) => s1.settleFault d f
      | _ => s1
    else s.setCtx t c.returnFromTrap

/-! ### Asynchronous traps -/

/-- The asynchronous trap raised first is taken between words, at the image level only (R357, R361). -/
def asyncTrap (t : Nat) (s : State) : State :=
  match s.ctxAt t with
  | none => s
  | some c =>
    let between := match c.wait with
      | .idle => true
      | .fetch _ => true
      | _ => false
    match c.pend with
    | p :: ps =>
      if c.halted || c.lvl || !between || c.ord.isSome then s
      else s.setCtx t { c.takeTrap (causeWord true 0 p.code.toNat) p.tval c.pc with pend := ps, awaiting := true, src := p.src }
    | [] => s

/-- ASYNC_TRAP (R357). -/
def execAsyncTrap (t : TileId) (s : State) : Out := .next (asyncTrap t.toNat s)

/-! ### The fault tree and the root cores -/

/-- A root core takes requests: an image is loaded and its csr.tvec is written (R375). -/
def State.rootReady (s : State) (d : Nat) : Bool :=
  match s.ctxAt (rootTile d) with
  | some c => c.isRoot && !c.halted && c.tvset
  | none => false

/-- Codes of faults that await the host's reply (R362). -/
def hostCode (code : Nat) : Bool := [3, 7, 0x10, 0x20, 0x21, 0x22, 0x23].contains code

/-- A token reaches the host (R362): each fault that its reply settles is held by the region, and of suspensions the first; one whose only
outcome is an abort, which root cores without an image have passed on (R375), aborts the region here. -/
def State.hostFault (s : State) (f : FaultTok) : State :=
  match s.region? f.region with
  | none => s
  | some r =>
    if !f.asks then s
    else if aborting f.code then s.abort f.region f.cause.toNat
    else if hostCode f.code || (0x31 ≤ f.code && f.code ≤ 0x33 && !r.faults.any fun g => 0x30 ≤ g.code) then
      s.setRegion f.region { r with faults := r.faults ++ [f] }
    else s

/-- A fault token takes one stage of the tree (R11, R362, R375): a root core that takes no request passes it on; the fault record is
written before the token leaves the package root (R364), and before what a root core has decided is carried out. -/
def faultRoute (ix : Nat) (lost : List Nat) (s : State) : State :=
  match s.ftoks[ix]? with
  | none => s
  | some f =>
    let s := { s with ftoks := s.ftoks.eraseIdx ix }
    let at_ (d : Nat) : State :=
      if s.rootReady d then { s with rootq := s.rootq ++ [(d, .fault f)] }
      else { s with ftoks := s.ftoks ++ [f.onward d] }
    match f.stage with
    | 0 => at_ (tileDie f.tile)
    | 1 => at_ 0
    | 3 => (s.faultRecord f lost).abort f.region f.cause.toNat
    | 4 => s.faultRecord f lost
    | _ => (s.faultRecord f lost).hostFault f

/-- FAULT_TOKEN_ROUTE (R362). -/
def execFaultTokenRoute (hop : TokHop) (s : State) : Out := .next (faultRoute hop.ix hop.lost s)

/-- The request of a die's root core that came first. -/
def State.nextRequest (s : State) (d : Nat) : Option RootReq :=
  (s.rootq.find? fun x => x.1 == d && (match x.2 with
    | .answer .. => false
    | _ => true)).map (·.2)

/-- A root core enters at csr.tvec for a request (R375); its fetch observes no store from here on (R114, log 72). -/
def State.enterRoot (s : State) (d : Nat) (q : RootReq) (cause : BitVec 16) (tval : W64) (asid : BitVec 16) : State :=
  { (s.updCtx (rootTile d) fun c => { c with pc := c.tvec, tcause := cause, tval := tval, asid := asid, lvl := true, mloop := [], ord := none, wait := .idle, mem0 := s.mem }) with
    roots := SMap.put s.roots d q }

/-- Take an entry out of the queue of the root cores. -/
def State.unqueue (s : State) (x : Nat × RootReq) : State := { s with rootq := s.rootq.erase x }
/-- Put an entry into it. -/
def State.enqueue (s : State) (d : Nat) (q : RootReq) : State := { s with rootq := s.rootq ++ [(d, q)] }

/-- A root core takes a request (R370, R375): an argument block that it cannot read is answered without entering. -/
def State.takeRequest (s : State) (d : Nat) : RootReq → State
  | .sysc t h r arg =>
    if arg.toNat % 64 ≠ 0 ∨ (s.vBytes (s.asidOf t) arg 64).isNone then s.enqueue 0 (.answer t h r 0xFFFFFFFFFFFFFFFC)
    else s.enterRoot d (.sysc t h r arg) (causeWord false 0 0x11) arg (s.asidOf t)
  | .fault f => s.enterRoot d (.fault f) f.cause f.tval f.asid
  | .answer .. => s

/-- The next request of a root core, which takes one at a time (R375). -/
def rootRequest (d : Nat) (s : State) : State :=
  if (SMap.get? s.roots d).isSome || !s.rootReady d then s
  else match s.nextRequest d with
    | none => s
    | some q => (s.unqueue (d, q)).takeRequest d q

/-- ROOT_REQUEST (R375). -/
def execRootRequest (d : Nat) (s : State) : Out := .next (rootRequest d s)

/-- The answer of a SYSC reaches its context (R370): the monitor microprogram's ERET resumes it with the result, and csr.ret counts that ERET
alone (log 81); a SYSC of the monitor level completes. -/
def State.deliverAnswer (s : State) (t h : Nat) (d : Reg) (v : W64) : State :=
  match s.ctxAt t with
  | none => s
  | some c =>
    if (s.tile t).region ≠ h ∨ c.halted then s
    else if c.wait = .answer then s.finish t c d v
    else if c.awaiting && c.tcause == causeWord false 0 0x11 then s.setCtx t (c.w d v).returnFromTrap
    else s

/-- An entry of the queue that answers a SYSC of tile `t`: given by the package root, or all ones where it takes no request (R375). -/
def State.answersFor (s : State) (t : Nat) (x : Nat × RootReq) : Bool := match x.2 with
  | .answer u _ _ _ => u == t
  | .sysc u _ _ _ => u == t && !s.rootReady 0
  | .fault _ => false

/-- Deliver the answer that an entry stands for. -/
def State.answerOf (s : State) : RootReq → State
  | .answer u h r v => s.deliverAnswer u h r v
  | .sysc u h r _ => s.deliverAnswer u h r allOnes
  | .fault _ => s

/-- The answer that stands ready for a SYSC of tile `t`. -/
def syscAnswer (t : Nat) (s : State) : State :=
  match s.rootq.find? (s.answersFor t) with
  | some x => (s.unqueue x).answerOf x.2
  | none => s

/-- SYSC_ANSWER (R370). -/
def execSyscAnswer (t : TileId) (s : State) : Out := .next (syscAnswer t.toNat s)

/-! ### Invalidations -/

/-- The holders of the package that hold or use translations. -/
def State.holders (s : State) : List Nat :=
  s.tiles.map (·.1) ++ (List.range 4).map rootTile ++ (List.range 4).map holderCopy ++ (List.range 4).map holderWalk
    ++ s.dies.flatMap fun (d, x) => x.etlb.map fun (i, _) => holderEngine d i

/-- The translation that an invalidation removes. -/
def Inval.hits (v : Inval) (e : TlbEnt) : Bool :=
  (match v.asid with
    | some a => a == e.asid
    | none => true) && e.va < v.hi && v.lo < e.va + e.size && v.lo < v.hi

/-- An ASID that an invalidation names. -/
def Inval.names (v : Inval) (a : BitVec 16) : Bool := match v.asid with
  | some b => a == b
  | none => true

/-- The entries of a holder. -/
def State.holderTlb (s : State) (h : Nat) : List TlbEnt :=
  if h < 1024 then s.tlbOf h
  else if h < 1028 then (s.die (h - 1024)).ctlb
  else if 2048 ≤ h then SMap.getD (s.die ((h - 2048) / 64)).etlb ((h - 2048) % 64) []
  else []

/-- The holder drops what an invalidation names (R369). -/
def State.holderDrop (s : State) (h : Nat) (v : Inval) : State :=
  let keep (l : List TlbEnt) : List TlbEnt := l.filter fun e => !v.hits e
  if h < 1024 then s.setTlb h (keep (s.tlbOf h))
  else if h < 1028 then
    let d := h - 1024
    s.setDie d { s.die d with ctlb := keep (s.die d).ctlb }
  else if h < 2048 then
    let d := h - 1028
    s.setDie d { s.die d with wcache := (s.die d).wcache.map fun x => (x.1, x.2.filter fun y => !v.names y.1) }
  else
    let d := (h - 2048) / 64
    let i := (h - 2048) % 64
    s.setDie d { s.die d with etlb := SMap.upd (s.die d).etlb i [] keep }

/-- A context of tile `t` is in the middle of a WOCLR whose range a dropped entry translated: its number (R145, R369). -/
def State.clearing (s : State) (t : Nat) (dropped : List TlbEnt) : List Nat := match s.ctxAt t with
  | some c => match c.wait with
    | .sectors id pa _ _ _ _ => if dropped.any fun e => e.asid == c.asid && e.pa ≤ pa && pa < e.pa + e.size then [id] else []
    | _ => []
  | none => []

/-- A request on its way has drained (R369) where its home is outside the package: its outgoing port has accepted it (log 102). -/
def Req.onWay (q : Req) : Bool := q.st == .issued && (outPort q.pa).isNone

/-- The accesses of a holder that stand translated under dropped entries and have not drained (R369): requests on their way, barrier updates
of the copy engines, and a WOCLR under way. -/
def State.undrained (s : State) (h : Nat) (dropped : List TlbEnt) : List Nat :=
  ((s.reqs.filter fun q => q.onWay && agentHolder s q.agent == h && dropped.any fun e => e.covers q.asid q.va).map fun q => q.id)
    ++ ((s.bars.filter fun b => (outPort b.pa).isNone && holderCopy b.die == h && dropped.any fun e => e.covers b.asid b.va).map fun b => b.id)
    ++ if h < 1024 then s.clearing h dropped else []

/-- An access that an invalidation waits for has not drained. -/
def State.onItsWay (s : State) (i : Nat) : Bool :=
  (s.reqs.any fun q => q.id == i && q.onWay) || (s.bars.any fun b => b.id == i) || s.ctxs.any fun x => match x.2.wait with
    | .sectors id _ len _ done stop => id == i && !stop && done < len
    | _ => false

/-- A holder receives an invalidation (R369): it drops the entries, the walks of the ASID become stale, and it waits for the accesses
translated before that are still on their way. -/
def invalReceive (id h : Nat) (s : State) : State :=
  match s.invals.find? fun v => v.id == id with
  | none => s
  | some v =>
    if !v.todo.contains h then s
    else
      let dropped := (s.holderTlb h).filter v.hits
      let waits := s.undrained h dropped
      let v' := { v with todo := v.todo.filter fun x => x != h, wait := SMap.put v.wait h waits }
      let s := s.holderDrop h v
      { s with
        invals := s.invals.map fun x => if x.id = id then v' else x
        walks := s.walks.map fun w => if (w.tile = h ∨ holderWalk (tileDie w.tile) = h) ∧ v.names w.asid = true then { w with stale := true } else w }

/-- INVALIDATION_RECEIVE (R369). -/
def execInvalidationReceive (id h : Nat) (s : State) : Out := .next (invalReceive id h s)

/-- A holder acknowledges once those accesses have drained (R369). -/
def invalAck (id h : Nat) (s : State) : State :=
  match s.invals.find? fun v => v.id == id with
  | none => s
  | some v =>
    let busy := (SMap.getD v.wait h []).any s.onItsWay
    if v.todo.contains h || busy then s
    else { s with invals := s.invals.map fun x => if x.id = id then { v with acks := v.acks.filter fun y => y != h } else x }

/-- INVALIDATION_ACK (R369). -/
def execInvalidationAck (id h : Nat) (s : State) : Out := .next (invalAck id h s)

/-- The waiting half of INVR and INVA: every holder has acknowledged. -/
def State.invalDone (s : State) (t : Nat) (c : Ctx) (id : Nat) : State :=
  match s.invals.find? fun v => v.id == id with
  | some v => if v.acks.isEmpty then ({ s with invals := s.invals.filter fun v => v.id != id }).setCtx t c.next else s
  | none => s.setCtx t c.next

/-- Send an invalidation to every holder, after a release at SYS (R369). -/
def State.invalidate (s : State) (t : Nat) (c : Ctx) (asid : Option (BitVec 16)) (lo hi : Nat) : State :=
  if s.outstanding t then s.hold t c .again
  else
    let hs := s.holders
    ({ s with invals := s.invals ++ [({ id := s.nextId, asid := asid, lo := lo, hi := hi, todo := hs, acks := hs, wait := [] } : Inval)], nextId := s.nextId + 1 }).hold t c (.flush s.nextId)

/-- INVR (R369, R374). -/
def execInvr (a b : Reg) (s : State) : Out :=
  runWord (.invr a b) s fun c =>
    let t := s.cur.toNat
    match c.wait with
    | .flush id => s.invalDone t c id
    | _ =>
      let base := c.r a
      let g := c.r b
      if bits64 base 11 0 ≠ 0 then s.trap c 2 0 base
      else if bits64 g 47 45 ≠ 0 then s.trap c 6 8 g
      else s.invalidate t c (some (g.extractLsb' 48 16)) base.toNat (min (base.toNat + 4096 * bits64 g 44 0) (2 ^ 57))

/-- INVA (R369, R374). -/
def execInva (a : Reg) (s : State) : Out :=
  runWord (.inva a) s fun c =>
    let t := s.cur.toNat
    match c.wait with
    | .flush id => s.invalDone t c id
    | _ =>
      let g := c.r a
      s.invalidate t c (if g.getLsbD 16 then none else some (g.setWidth 16)) 0 (2 ^ 57)

/-! ### The configuration store -/

/-- What an error strikes is there (R365). -/
def Tile.struck (t : Tile) : EccWhere → Bool
  | .plane sh _ => if sh then t.shadow.isSome else (t.plane t.epoch).isSome
  | .rill i => (t.rill.at i).valid

/-- An error of the configuration store (R365): a single bit is corrected and counted; an uncorrectable one freezes the region while
the tile reads the image again. -/
def eccError (t : Nat) (w : EccWhere) (correctable : Bool) (s : State) : State :=
  if correctable then s.countTile t 0 1
  else match s.regionOf t with
    | none => s
    | some (h, r) =>
      if (s.tile t).reload.isSome || !(s.tile t).struck w then s
      else
        let s := r.tiles.foldl (fun (s : State) u => s.freezeTile u true) (s.setRegion h { r with frozen := true })
        s.updTile t fun x => { x with reload := some w }

/-- CONFIG_STORE_ECC_ERROR (R365). -/
def execConfigStoreEccError (t : TileId) (w : EccWhere) (correctable : Bool) (s : State) : Out := .next (eccError t.toNat w correctable s)

/-- The image at its recorded address, where its signature is right and equals the recorded one (R365): `w` is the word of its
length, `at_` the offset of its signature. -/
def State.reread (s : State) (asid : BitVec 16) (va : W64) (at_ : Nat) (sig : W64) : Option (List Byte) :=
  match s.vBytes asid va 64 with
  | none => none
  | some h => match s.vBytes asid va (imgWord h 1).toNat with
    | some bs => if crc64 (blankBytes bs at_ 8) = imgDouble bs at_ ∧ imgDouble bs at_ = sig then some bs else none
    | none => none

/-- The fault token of a root core's request. -/
def RootReq.token? : RootReq → Option FaultTok
  | .fault f => some f
  | _ => none

/-- The faults of the region that froze it or a tile of it and await their settlement: on their way, at a root core or at the host (R356,
R362). -/
def State.openFaults (s : State) (h : Nat) (r : Region) : List FaultTok :=
  (s.ftoks ++ (s.rootq.filterMap fun x => x.2.token?) ++ (s.roots.filterMap fun x => x.2.token?) ++ r.faults).filter fun f =>
    f.region == h && f.asks && (f.code < 0x30 || f.code == 0x34)

/-- A fault of the region awaits its settlement. -/
def State.faultOpen (s : State) (h : Nat) (r : Region) : Bool := !(s.openFaults h r).isEmpty

/-- The region stays frozen as a whole (R362, R365): for a fault that freezes all of it, or while a tile of it reads a damaged plane or slot
again. -/
def State.allFrozen (s : State) (h : Nat) (r : Region) : Bool :=
  ((s.openFaults h r).any fun f => 0x10 ≤ f.code) || r.tiles.any fun u => (s.tile u).reload.isSome

/-- Tile `u` of the region stays frozen: with all of it, or for a fault of its own (R362). -/
def State.staysFrozen (s : State) (h : Nat) (r : Region) (u : Nat) : Bool := s.allFrozen h r || (s.openFaults h r).any fun f => f.tile == u

/-- Take the region out of the freeze, but for what its other faults and its reloads keep frozen (R362, R365). -/
def State.unfreeze (s : State) (h : Nat) (r : Region) : State :=
  r.tiles.foldl (fun (s' : State) u => s'.freezeTile u (s.staysFrozen h r u)) (s.setRegion h { r with frozen := s.allFrozen h r })

/-- The end of a reload (R365): a right image is written back and the region goes on; otherwise cause 0x23 is raised. -/
def reloadDone (t : Nat) (s : State) : State :=
  match (s.tile t).reload, s.regionOf t with
  | some w, some (h, r) =>
    let tl := s.tile t
    let fails (what slot site : Nat) : State :=
      (s.setTile t { tl with reload := none }).unitFault h r t 0x23 (packBits [(60, what), (56, slot), (0, site)])
    let good (tl' : Tile) : State :=
      let n := tl.rill.infl.length + (if tl.rill.half.isSome then 1 else 0)
      let s := s.setTile t { tl' with reload := none, rill := { tl'.rill with infl := [], half := none } }
      let s := (s.rillDrop t n).countTile t 1 1
      s.unfreeze h r
    match w with
    | .plane sh site =>
      match (if sh then tl.shadow else tl.plane tl.epoch) with
      | none => fails 1 0 site
      | some p => match s.reread r.asid p.addr 28 p.sig with
        | some bs =>
          let p' := planeOf bs p.addr p.asid
          good (if sh then (if (tl.plane (!tl.epoch)).isSome then tl.setPlane (!tl.epoch) (some p') else { tl with loading := some p' })
            else tl.setPlane tl.epoch (some p'))
        | none => fails 1 0 site
    | .rill i =>
      let sl := tl.rill.at i
      let first := ((List.range 4).find? fun j => (tl.rill.span j).contains i).getD i
      match s.reread r.asid sl.addr 24 sl.sig with
      | some bs =>
        let ns := (graphStatus bs tl.rill first).2
        good { tl with rill := tl.rill.load bs ns first sl.addr sl.asid }
      | none => fails 2 i 0
  | _, _ => s

/-- CONFIG_STORE_RELOAD_DONE (R365). -/
def execConfigStoreReloadDone (t : TileId) (s : State) : Out := .next (reloadDone t.toNat s)

/-- COUNTER_CLEAR_STORE (R366). -/
def execCounterClearStore (pa : Nat) (s : State) : Out := .next (s.clearCounter pa)

end Sys2Proof.Machine
end

