-- ==== Sys2Proof/Machine/SaveImage.lean ====
section
/-! DEFINITION. The fabric image of a save (R372), written by CFGSAVE (R176) and read by CFGREST (R373), and the save and the restore
of a region (R337, R339, R371, R373). -/

namespace Sys2Proof.Machine

open Sys2Proof

/-! ### Boundaries -/

/-- The tile is at a segment boundary as far as its fabric goes (R337): no firing is under way, and every in stream has emitted the EOT of its
segment, or has ended. -/
def Tile.bounded (t : Tile) : Bool :=
  (t.ves.all fun x => x.2.pipe.isEmpty) && t.ports.all fun x => x.2.out || x.2.ended || (x.2.seg && x.2.eotOut && (!x.2.xe8 || t.decoded x.1))

/-- The region is at a segment boundary (R337). -/
def State.atBoundary (s : State) (h : Nat) (r : Region) : Bool :=
  ((s.live r).all fun x => !x.2.segOpen) && (r.tiles.all fun t => (s.tile t).bounded)
    && !(s.dies.any fun x => x.2.sluice.any fun y => y.2.region == h && y.2.mid)

/-! ### The image (R372) -/

/-- Pad to a multiple of 64 bytes. -/
def pad64 (bs : List Byte) : List Byte := bs ++ List.replicate ((64 - bs.length % 64) % 64) 0
/-- Pad to `n` bytes. -/
def padTo (n : Nat) (bs : List Byte) : List Byte := bs ++ List.replicate (n - bs.length) 0
/-- Doubles as bytes. -/
def dbls (l : List Nat) : List Byte := l.flatMap fun x => leBytes 8 x
/-- Lanes as bytes. -/
def laneBytes (l : Lanes) : List Byte := (List.range 16).flatMap fun i => leBytes 4 (l.at i).toNat
/-- Lanes from bytes. -/
def lanesAt (bs : List Byte) (o : Nat) : Lanes := lanesOf fun i => BitVec.ofNat 32 (leNat ((bs.drop (o + 4 * i)).take 4))

/-- Tokens of a buffer. -/
def Tile.count (t : Tile) (k : Nat) : Nat := (t.buf k).toks.length
/-- The buffers in the order of the image: by site, queues and links, then the region ports. -/
def bufOrder : List Nat :=
  ((List.range 64).flatMap fun s => ((List.range 4).map fun k => qKey s k) ++ (List.range 8).map fun l => lKey s l)
    ++ (List.range 64).map vKey

/-- The occupancy map. -/
def occPart (t : Tile) : List Byte :=
  padTo 1600 (((List.range 64).flatMap fun s =>
    dbls [((List.range 4).map fun k => (2 ^ t.count (qKey s k) - 1) * 2 ^ (4 * k)).sum,
          ((List.range 4).map fun l => (2 ^ t.count (lKey s l) - 1) * 2 ^ (16 * l)).sum,
          ((List.range 4).map fun l => (2 ^ t.count (lKey s (4 + l)) - 1) * 2 ^ (16 * l)).sum])
    ++ dbls ((List.range 4).map fun q => ((List.range 16).map fun i => (2 ^ t.count (vKey (16 * q + i)) - 1) * 2 ^ (4 * i)).sum))

/-- The rill part. -/
def rillPart (r : Rill) : List Byte :=
  padTo 128 (dbls ([r.ctl.toNat, r.map1.toNat, r.map2.toNat, r.countWord.toNat] ++ (List.range 4).map (fun i => (r.at i).sig.toNat)
    ++ (List.range 4).map fun i => (r.at i).addr.toNat))

/-- The banks that a save carries: those not all +0 or damaged. -/
def savedBanks (x : Matrix) : List Nat :=
  (List.range 32).filter fun n => x.dmg.getLsbD n || (SMap.getD x.ac n []).any fun y => y.2 != 0

/-- The matrix part. -/
def matrixPart (x : Matrix) : List Byte :=
  padTo 64 (dbls ((List.range 4).map (fun m => (x.macroWord m).toNat) ++ [x.nodeWord.toNat, ((savedBanks x).map fun n => 2 ^ n).sum]))
    ++ (savedBanks x).flatMap fun n => (List.range 2048).flatMap fun i => leBytes 4 (SMap.getD (SMap.getD x.ac n []) i 0).toNat

/-- The VEs of either plane. -/
def savedVes (t : Tile) : List Nat :=
  let has (p : Option Plane) (s : Nat) : Bool := match p with
    | some p => p.mask.getLsbD s
    | none => false
  (List.range 64).filter fun s => isVe s && (has t.p0 s || has t.p1 s || has t.loading s)

/-- The type of the ACC stage on an accumulator in the plane of a site (R201). -/
def saveAccType (v : Option VeCfg) (k : Nat) : Nat := match v.bind fun v => v.st.find? fun w => bits w 31 26 == 0x27 && bits w 0 0 == k with
  | some w => bits w 14 12
  | none => 0

/-- The state of a VE; what follows the pair token's lanes is the kind and vc of each of their elements (log 16). -/
def vePart (v : Ve) (cfg : Option VeCfg) : List Byte :=
  let tch (i : Nat) : Nat := (v.touched.getD i 0).toNat
  let last (o : Option (BitVec 16)) : Nat := (o.getD 0).toNat
  let pl (f : W32 × W32 → W32) : List Byte := (List.range 16).flatMap fun i => leBytes 4 (match v.pairs[i]? with
    | some p => (f p).toNat
    | none => 0)
  padTo 704 (laneBytes v.acc0 ++ laneBytes v.acc1 ++ ((List.range 6).flatMap fun i => laneBytes (v.st.getD i (lanesOf fun _ => 0)))
    ++ dbls [tch 0 + tch 1 * 2 ^ 16 + tch 2 * 2 ^ 32 + tch 3 * 2 ^ 48, tch 4 + tch 5 * 2 ^ 16 + v.flags.toNat * 2 ^ 32,
             saveAccType cfg 0 + saveAccType cfg 1 * 256,
             v.pairs.length + b1 v.lastA.isSome * 32 + b1 v.lastB.isSome * 64 + b1 v.skipA * 128 + b1 v.skipB * 256
               + last v.lastA * 2 ^ 16 + last v.lastB * 2 ^ 32]
    ++ pl Prod.fst ++ pl Prod.snd ++ padTo 16 v.pairHdrA ++ padTo 16 v.pairHdrB)

/-- The SE banks that a save carries: those claimed in FIFO, spill-ring or warp-store mode, and those of the live mask. -/
def savedSe (t : Tile) (live : Nat) : List Nat :=
  (List.range 128).filter fun b => !t.seAvailable (8192 * b) || live.testBit b

/-- The sites in FIFO or spill-ring mode. -/
def fifoSites (t : Tile) : List Nat := (List.range 64).filter fun i => !isVe i && (t.seMode i == 2 || t.seMode i == 3)

/-- Where entry `i` of a FIFO stands: 9 units to a token (R156). -/
def fifoAt (t : Tile) (site i : Nat) : Nat := seBase site + seLo (t.seWord site) + 72 * i

/-- An entry of a FIFO in its bank: the token, its epoch word marking it as held, and the oldest as such (log 16). -/
def entryBytes (x : Tok) (oldest : Bool) : List Byte :=
  leBytes 4 x.hdr.toNat ++ leBytes 4 (b1 x.ep + 2 + 4 * b1 oldest) ++ laneBytes x.lanes

/-- The tile with the tokens of its FIFOs in their banks (R156, R372). -/
def Tile.flushed (t : Tile) : Tile :=
  (fifoSites t).foldl (fun (t : Tile) site =>
    let e := t.se site
    let cap := t.fifoCap site
    (List.range cap).foldl (fun (t : Tile) i =>
      let k := (i + cap - e.first) % max 1 cap
      t.seWrite (fifoAt t site i) (match e.fifo[k]? with
        | some x => entryBytes x (k == 0)
        | none => List.replicate 72 0)) t) t

/-- A FIFO as its bank holds it: its oldest entry, and its tokens. -/
def fifoOf (t : Tile) (site : Nat) : Nat × List Tok :=
  let cap := t.fifoCap site
  let mark (i : Nat) : Nat := leNat (t.seBytes (fifoAt t site i + 4) 4)
  let first := ((List.range cap).find? fun i => mark i / 4 % 2 == 1).getD 0
  (first, (((List.range cap).map fun k => (first + k) % max 1 cap).takeWhile fun i => mark i / 2 % 2 == 1).map fun i =>
    tokOfBytes (t.seBytes (fifoAt t site i) 72))

/-- The tile with its FIFOs as their banks hold them. -/
def Tile.refilled (t : Tile) : Tile :=
  (fifoSites t).foldl (fun (t : Tile) site => t.setSe site { t.se site with first := (fifoOf t site).1, fifo := (fifoOf t site).2 }) t

/-- The rings of the active plane, with head and tail. -/
def ringKeys (t : Tile) : List Nat := match t.plane t.epoch with
  | some p => p.rings.map (·.1)
  | none => []

/-- Head and tail of a ring of the active plane. -/
def Tile.ringEnds (t : Tile) (k : Nat) : Nat × Nat := t.ringHt (k / 8) (k % 8) t.epoch

/-- The bindings of a save: the ports bound by STRM. -/
def bindPart (t : Tile) : List Byte :=
  (t.ports.filter fun x => x.2.cmd.isNone && !x.2.ended).flatMap fun (vp, b) =>
    dbls ([vp + b1 b.out * 2 ^ 8 + b1 b.sotOut * 2 ^ 16 + b1 b.eotOut * 2 ^ 17] ++ (List.range 4).map (fun i => (b.desc.getD i 0).toNat) ++ [b.done])

/-- The tokens of a save. -/
def tokenPart (t : Tile) : List Byte := bufOrder.flatMap fun k => (t.buf k).toks.flatMap tokBytes

/-- Identity of a plane: address and signature, or zeros. -/
def planeId (p : Option Plane) : List Nat := match p with
  | some p => [p.addr.toNat, p.sig.toNat]
  | none => [0, 0]

/-- The parts behind the header. -/
def saveBody (t : Tile) (live : Nat) : List Byte :=
  occPart t ++ rillPart t.rill ++ matrixPart t.mx ++ ((savedVes t).flatMap fun s => vePart (t.ve s) (t.veCfg s))
    ++ ((savedSe t live).flatMap fun b => t.flushed.seBytes (8192 * b) 8192)
    ++ pad64 ((ringKeys t).flatMap fun k => dbls [(t.ringEnds k).1, (t.ringEnds k).2])
    ++ pad64 (bindPart t) ++ pad64 (tokenPart t)

/-- The header. -/
def saveHeader (t : Tile) (cap live n : Nat) : List Byte :=
  padTo 128 (dbls ([0x14B534156, cap, live % 2 ^ 64, live / 2 ^ 64, n] ++ planeId (t.plane t.epoch) ++ planeId t.shadow
    ++ [(t.flipped.map fun s => 2 ^ s).sum, b1 t.swapping + 2 * b1 t.strict + 4 * b1 t.loading.isSome, t.stray.toNat, t.dropped.toNat]))

/-- The image of a tile. -/
def saveBytes (t : Tile) (cap live : Nat) : List Byte :=
  let body := saveBody t live
  saveHeader t cap live (128 + body.length) ++ body

/-- What is kept beside an image: with the area it was written to, and what the image says. -/
def Tile.keep (t : Tile) (asid : BitVec 16) (va : W64) (bs : List Byte) : Kept :=
  ⟨asid, va, crc64 bs, t.epoch, t.ses, (t.ves.filter fun x => x.2.eos).map (·.1), t.held, t.banks, t.xe8, t.ports, t.inq⟩

/-- Keep it, in place of an older one of the same area. -/
def State.keepBeside (s : State) (k : Kept) : State :=
  { s with kept := (s.kept.filter fun x => !(x.asid == k.asid && x.va == k.va)) ++ [k] }

/-! ### Reading an image back (R373) -/

/-- A reader of an image: the bytes not yet read. -/
def takeBytes (n : Nat) (bs : List Byte) : List Byte × List Byte := (bs.take n, bs.drop n)

/-- The state of a VE from its 704 bytes. -/
def veOfBytes (bs : List Byte) (eos : Bool) : Ve :=
  let d (o : Nat) : W64 := imgDouble bs o
  let x := d 536
  let h (v : W64) (lo : Nat) : BitVec 16 := BitVec.ofNat 16 (bits64 v (lo + 15) lo)
  { acc0 := lanesAt bs 0
    acc1 := lanesAt bs 64
    st := (List.range 6).map fun i => lanesAt bs (128 + 64 * i)
    touched := [h (d 512) 0, h (d 512) 16, h (d 512) 32, h (d 512) 48, h (d 520) 0, h (d 520) 16]
    flags := BitVec.ofNat 6 (bits64 (d 520) 37 32)
    lastA := if x.getLsbD 5 then some (h x 16) else none
    lastB := if x.getLsbD 6 then some (h x 32) else none
    skipA := x.getLsbD 7
    skipB := x.getLsbD 8
    pairs := (List.range (bits64 x 4 0)).map fun i => ((lanesAt bs 544).at i, (lanesAt bs 608).at i)
    pairHdrA := (bs.drop 672).take (bits64 x 4 0)
    pairHdrB := (bs.drop 688).take (bits64 x 4 0)
    eos := eos }

/-- The bank owners of a tile that only its planes and its semaphores of old describe: every bank that an SE word claims is the fabric's (R157). -/
def Tile.claimed (t : Tile) : SMap Nat :=
  (List.range 64).foldl (fun (m : SMap Nat) i =>
    if isVe i then m else (seBanks (t.seWord i)).foldl (fun (m : SMap Nat) b => SMap.put m (seBase i / 8192 + b) 1) m) []

/-- The epoch of sites that have not swapped, as the first token of an image and the swap map show it. -/
def epochOf (bufs : SMap Buf) (flipped : List Nat) : Bool :=
  match bufOrder.findSome? fun k => (SMap.getD bufs k {}).toks.head?.map fun x => (k, x) with
  | some (k, x) => x.ep != (if k < 256 then flipped.contains (k / 4) else k < 768 && flipped.contains ((k - 256) / 8))
  | none => false

/-- A plane as a restored status word gives it (R207): invalid, with the bad mark, format and shapes of the word. -/
def planeOfWord (w : W64) (bad lo : Nat) : MPlane :=
  { bad := w.getLsbD bad, fmt := bits64 w (lo + 6) (lo + 4), k := bits64 w (lo + 3) (lo + 2), n := bits64 w (lo + 1) lo }

/-- The matrix node of a restore (R207, R229): planes and row buffer are invalid, and the status words hold what was saved. -/
def matrixOfBytes (bs : List Byte) (x : Matrix) : Matrix :=
  let d (i : Nat) : W64 := imgDouble bs (8 * i)
  let banks := (List.range 32).filter fun n => (d 5).getLsbD n
  let node := d 4
  let h (lo : Nat) : BitVec 16 := BitVec.ofNat 16 (bits64 node (lo + 15) lo)
  { x with
    act := (List.range 4).map fun m => planeOfWord (d m) 16 8
    ld := (List.range 4).map fun m => planeOfWord (d m) 17 0
    rb := {}, q := []
    dmg := BitVec.ofNat 32 (((List.range 4).map fun m => bits64 (d m) 39 32 * 2 ^ (8 * m)).sum)
    ac := ((List.range banks.length).zip banks).map fun b =>
      (b.2, (List.range 2048).filterMap fun i =>
        let w : W32 := BitVec.ofNat 32 (leNat ((bs.drop (64 + 8192 * b.1 + 4 * i)).take 4))
        if w = 0 then none else some (i, w))
    cinv := h 48, crr := h 32, cdmg := h 16
    spec := node.getLsbD 7, clip := node.getLsbD 6, skip := node.getLsbD 5, lerr := node.getLsbD 4, short := node.getLsbD 3, lost := true }

/-- Bytes of the matrix part: its header and the banks it names. -/
def matrixLen (bs : List Byte) : Nat := 64 + 8192 * ((List.range 32).filter fun n => (imgDouble bs 40).getLsbD n).length

/-- The rill array of a restore (R248). -/
def rillOfBytes (bs : List Byte) (r : Rill) (asid : BitVec 16) : Rill :=
  let d (i : Nat) : W64 := imgDouble bs (8 * i)
  let h (lo : Nat) : BitVec 16 := BitVec.ofNat 16 (bits64 (d 3) (lo + 15) lo)
  { r with
    nodes := [], half := none, infl := [], closing := false, lost := true
    ctl := d 0 &&& 0xFFFFFFFFFFFFFFFE, map1 := d 1, map2 := d 2
    brc := h 48, sato := h 32, drop := h 16, skip := h 0
    slots := (List.range 4).map fun i => { sig := d (4 + i), addr := d (8 + i), asid := asid } }

/-- Set bits of a bitmap of `n` bits from bit `lo` of the double at `o`. -/
def occAt (bs : List Byte) (o lo n : Nat) : Nat :=
  ((List.range n).filter fun i => (imgDouble bs o).getLsbD (lo + i)).length

/-- Tokens of a buffer by its place in the occupancy map. -/
def occOf (bs : List Byte) (key : Nat) : Nat :=
  if key < 256 then occAt bs (24 * (key / 4)) (4 * (key % 4)) 4
  else if key < 768 then
    let l := (key - 256) % 8
    occAt bs (24 * ((key - 256) / 8) + 8 + 8 * (l / 4)) (16 * (l % 4)) 16
  else occAt bs (1536 + 8 * ((key - 768) / 16)) (4 * ((key - 768) % 16)) 4

/-- The buffers of a restore. -/
def bufsOf (occ toks : List Byte) : SMap Buf :=
  (bufOrder.foldl (fun (acc : SMap Buf × List Byte) k =>
    let n := occOf occ k
    if n = 0 then acc
    else
      let xs := (List.range n).map fun i => tokOfBytes ((acc.2.drop (72 * i)).take 72)
      (SMap.put acc.1 k { toks := xs }, acc.2.drop (72 * n))) ([], toks)).1

/-- A binding of a save image. -/
def bindOf (bs : List Byte) (asid : BitVec 16) : Nat × Strm :=
  let d (i : Nat) : W64 := imgDouble bs (8 * i)
  let n := (d 5).toNat
  (bits64 (d 0) 5 0, { out := (d 0).getLsbD 8, desc := [d 1, d 2, d 3, d 4], asid := asid, issued := n, done := n
                       sotOut := (d 0).getLsbD 16, eotOut := (d 0).getLsbD 17 })

/-- The tile as its image gives it, with its planes already read (R373); `k` is what was kept beside the image (log 16). -/
def restoreTile (t : Tile) (bs : List Byte) (act sh : Option Plane) (k : Option Kept) (asid : BitVec 16) : Tile :=
  let d (i : Nat) : W64 := imgDouble bs (8 * i)
  let fl := (List.range 64).filter fun i => (d 9).getLsbD i
  let ld := (d 10).getLsbD 2
  let body := bs.drop 128
  let (occ, body) := takeBytes 1600 body
  let (ril, body) := takeBytes 128 body
  let (mx, body) := takeBytes (matrixLen body) body
  let ntok := (bufOrder.map (occOf occ)).sum
  let tokLen := (72 * ntok + 63) / 64 * 64
  let bufs := bufsOf occ (body.drop (body.length - tokLen))
  let ep := match k with
    | some k => k.epoch
    | none => epochOf bufs fl
  let t := { t with
    p0 := none, p1 := none, epoch := ep, flipped := fl, swapping := (d 10).getLsbD 0, strict := (d 10).getLsbD 1
    loading := if ld then sh else none, arrived := [], stray := (d 11).setWidth 32, dropped := (d 12).setWidth 32
    windows := [], turns := [], seqBanks := [], reload := none
    inq := match k with
      | some k => k.inq
      | none => []
    bufs := bufs }
  let t := t.setPlane ep act
  let t := if ld && fl.isEmpty then t else t.setPlane (!ep) sh
  let ves := savedVes t
  let (vb, body) := takeBytes (704 * ves.length) body
  let ses := savedSe t ((d 2).toNat + (d 3).toNat * 2 ^ 64)
  let (sb, body) := takeBytes (8192 * ses.length) body
  let rk := ringKeys t
  let (rb, body) := takeBytes ((16 * rk.length + 63) / 64 * 64) body
  let bb := body.take (body.length - tokLen)
  let binds := ((List.range (bb.length / 48)).map fun i => (bb.drop (48 * i)).take 48).filter fun b => b.any fun x => x != 0
  let eos (i : Nat) : Bool := match k with
    | some k => k.eos.contains i
    | none => false
  let t := { t with
    rill := rillOfBytes ril t.rill asid
    mx := matrixOfBytes mx t.mx
    ves := ((List.range ves.length).zip ves).map fun x => (x.2, veOfBytes (vb.drop (704 * x.1)) (eos x.2))
    ringHT := ((List.range rk.length).zip rk).map fun x =>
      (eKey (x.2 / 8) (x.2 % 8) ep, ((imgDouble rb (16 * x.1)).toNat, (imgDouble rb (16 * x.1 + 8)).toNat))
    ports := match k with
      | some k => k.ports.map fun x => (x.1, { x.2 with issued := x.2.done })
      | none => (binds.map fun b => bindOf b asid).foldl (fun m x => SMap.put m x.1 x.2) [] }
  let t := ((List.range ses.length).zip ses).foldl (fun (t : Tile) x => t.seWrite (8192 * x.2) ((sb.drop (8192 * x.1)).take 8192)) t
  match k with
  | some k => { t with ses := k.ses, held := k.held, banks := k.banks, xe8 := k.xe8 }.refilled
  | none => { t with ses := [], held := [], banks := t.claimed, xe8 := [] }.refilled

/-- An image begins as one (R372). -/
def saveLegal (bs : List Byte) : Bool :=
  imgDouble bs 0 == 0x14B534156 && 1856 ≤ (imgDouble bs 32).toNat && (imgDouble bs 32).toNat ≤ (imgDouble bs 8).toNat
    && (imgDouble bs 32).toNat % 64 == 0 && (imgDouble bs 32).toNat < 2 ^ 22

/-! ### CFGSAVE and CFGREST -/

/-- A write that an instruction makes for itself: the pages are checked in order, and only then is anything written, behind the context's
earlier accesses to the same places (R132). -/
def State.writeOwn (s : State) (t : Nat) (c : Ctx) (va : W64) (bs : List Byte) (f : State → State) : State :=
  let part (p : W64) : List Byte := (bs.drop (p - va).toNat).take (partLen va bs.length p)
  let go := (pageStarts va bs.length).foldr (fun p (acc : List (W64 × TlbEnt) → State) => fun es =>
    s.withPage t c p .store (checkAccess s t c.asid p 1 .store true) fun e => acc (es ++ [(p, e)]))
    fun es =>
      if es.any fun x => s.blocked { mkReq s t .write x.2 x.1 (part x.1).length with id := s.nextId } then s.hold t c .again
      else f (es.foldl (fun (s : State) (x : W64 × TlbEnt) => (s.engWrite x.2 x.1 (part x.1)).1.countTile t 3 (s.lostSectors (x.2.phys x.1) (part x.1).length)) s)
  go []

/-- The tile stands at a segment boundary (R176, R337): that of its region. -/
def State.boundary (s : State) (t : Nat) : Bool := match s.regionOf t with
  | some (h, r) => s.atBoundary h r
  | none => (s.tile t).bounded

/-- CFGSAVE (R176, R372). -/
def execCfgsave (d a : Reg) (s : State) : Out :=
  runWord (.cfgsave d a) s fun c =>
    let t := s.cur.toNat
    let va := c.r a
    if va.toNat % 4096 ≠ 0 then s.finish t c d 7
    else if !s.boundary t then s.finish t c d 8
    else s.readOwn t c va 32 fun hd =>
      let cap := (imgDouble hd 8).toNat
      let bs := saveBytes (s.tile t) cap ((imgDouble hd 16).toNat + (imgDouble hd 24).toNat * 2 ^ 64)
      if cap < bs.length then s.finish t c d 7
      else s.writeOwn t c va bs fun s => (s.keepBeside ((s.tile t).keep c.asid va bs)).finish t c d 0

/-- A plane by its recorded identity, read by the context itself: none where there is none; the flag says whether its signature is the
recorded one (R373). -/
def State.ownPlane (s : State) (t : Nat) (c : Ctx) (addr sig : W64) (f : Option Plane × Bool → State) : State :=
  if addr = 0 ∧ sig = 0 then f (none, true)
  else s.readOwn t c addr 64 fun h =>
    let n := (imgWord h 1).toNat
    if n < 64 ∨ 16384 < n then f (none, false)
    else s.readOwn t c addr n fun bs =>
      if crc64 (blankBytes bs 28 8) = imgDouble bs 28 ∧ imgDouble bs 28 = sig then f (some (planeOf bs addr c.asid), true) else f (none, false)

/-- What stands beside an image: that of its area, or of the area it was copied from; none where it is no image that was written. -/
def State.keptAt (s : State) (asid : BitVec 16) (va : W64) (bs : List Byte) : Option Kept :=
  let ks := s.kept.filter fun k => k.asid == asid && k.sum == crc64 bs
  match ks.find? fun k => k.va == va with
  | some k => some k
  | none => ks.getLast?

/-- The configuration-store fault of a restore (R364, R373): a recorded signature does not match. -/
def State.restoreFault (s : State) (t : Nat) : State :=
  match s.regionOf t with
  | some (h, r) => s.unitFault h r t 0x23 (packBits [(60, 3)])
  | none => s

/-- CFGREST (R176, R373). What g(d) takes beside a signature fault the spec does not say: a free value. -/
def execCfgrest (d a : Reg) (s : State) : Out :=
  runWord (.cfgrest d a) s fun c =>
    let t := s.cur.toNat
    let va := c.r a
    if va.toNat % 4096 ≠ 0 then s.finish t c d 7
    else if !s.boundary t then s.finish t c d 8
    else s.readOwn t c va 128 fun hd =>
      if !saveLegal hd then s.finish t c d 7
      else s.readOwn t c va (imgDouble hd 32).toNat fun bs =>
        s.ownPlane t c (imgDouble bs 40) (imgDouble bs 48) fun act =>
          s.ownPlane t c (imgDouble bs 56) (imgDouble bs 64) fun sh =>
            if !act.2 || !sh.2 then ((s.finish t c d (Config.freeWord s.free)).draw 1).restoreFault t
            else (s.updTile t fun tl => restoreTile tl bs act.1 sh.1 (s.keptAt c.asid va bs) c.asid).finish t c d 0

/-! ### Saving a region (R339, R371) -/

/-- A word that opens a segment (R337). -/
def opensSegment : Instr → Bool
  | .pws .. | .pwv .. | .mki .. | .strm .. | .mtok .. => true
  | _ => false

/-- The region has run to its end (R16): every context has halted and every sink bound to it has received EOS. A stream that STRM bound is
bound no longer once it has ended (R170); a sink that BIND bound completes at its EOS (R335). A frozen region, or one with a fault that awaits its
settlement, goes to no end of its own (R356, R362). -/
def State.finished (s : State) (h : Nat) (r : Region) : Bool :=
  r.st == .running && !r.frozen && !s.faultOpen h r && (s.live r).isEmpty
    && (r.tiles.all fun t => (s.tile t).ports.all fun x => !x.2.out || x.2.eosIn || (x.2.ended && x.2.cmd.isNone))
    && s.dies.all fun x => x.2.spout.all fun y => y.2.region != h

/-- The context stands between words at the image level (R87, R339, R341: at the monitor level it is not saved until its ERET): also where it stalls before a segment-opening word while its segment is
closed (R338). One that waits inside such a word has opened its segment. -/
def Ctx.between (c : Ctx) : Bool :=
  c.halted || (!c.lvl && c.ord.isNone && c.pend.isEmpty && match c.wait with
    | .idle => true
    | .fetch _ => true
    | .again => !c.segOpen && (match decode c.word with
      | .ok i => opensSegment i
      | .error _ => false)
    | _ => false)

/-- A read of an LD that a save withdraws (R339): deferred at a write-once home, or stalled under R143. -/
def State.withdrawable (s : State) (q : Req) : Bool :=
  q.op == .read && !q.acked && (q.st == .deferred || (q.st == .issued && (q.stalled || s.channelStalled q)))

/-- Requests of the context of tile `t`. -/
def State.ctxReqs (s : State) (t : Nat) : List Req := s.reqs.filter fun q => q.agent == .ctx t

/-- No matrix queue of the tile holds a token, and no rill array a vector (R229, R248, R339). -/
def Tile.arraysIdle (t : Tile) : Bool := t.mx.q.isEmpty && t.rill.infl.isEmpty && t.rill.half.isNone

/-- Every request of the context of tile `t` has been answered but the reads that a save withdraws; those that a word makes for itself hold the
context inside it (R339, R402). -/
def State.ctxAnswered (s : State) (t : Nat) : Bool := (s.ctxReqs t).all s.withdrawable && s.reqs.all fun q => q.agent != .own t

/-- The save point (R339); a region that has run to its end is retired instead (R21). -/
def State.savePoint (s : State) (h : Nat) (r : Region) : Bool :=
  r.st == .running && r.latched && !r.frozen && !s.finished h r && s.atBoundary h r && ((s.regionCtxs r).all fun x => x.2.between)
    && r.tiles.all fun t => (s.tile t).arraysIdle && s.ctxAnswered t

/-- The kind of the LD that issued a read (R38, R371). -/
def Req.kindCode (q : Req) : Nat := match q.n with
  | 1 => if q.signed then 0 else 4
  | 2 => if q.signed then 1 else 5
  | 4 => if q.signed then 2 else 6
  | _ => 3

/-- Bytes of an LD of a kind. -/
def kindBytes (k : Nat) : Nat := if k = 3 then 8 else 2 ^ (k % 4)

/-- The sequencer block of a tile (R371). -/
def seqBlock (s : State) (t : Nat) (c : Ctx) : List Byte :=
  let w := (s.ctxReqs t).filter s.withdrawable
  padTo 2688 (padTo 0x280 (padTo 0x160 (dbls (((List.range 31).map fun i => (c.r (BitVec.ofNat 5 (i + 1))).toNat)
    ++ [c.pc.toNat, c.ldep.toNat, c.l0.cnt.toNat, c.l0.beg.toNat, c.l0.last.toNat, c.l1.cnt.toNat, c.l1.beg.toNat, c.l1.last.toNat,
        c.asid.toNat, c.qwc.toNat, c.wdog.toNat, (s.tile t).warp.toNat,
        (match c.group with
          | some k => k.toNat + 256 + b1 c.pendingMember * 512
          | none => 0)]))
    ++ dbls [w.length, 0, 0, 0]
    ++ w.flatMap fun q => dbls [q.va.toNat, (match q.reg with
        | some d => d.toNat
        | none => 0) + q.kindCode * 256 + q.ordered.toNat * 4096])
    ++ dbls ((List.range 256).map fun i => (SMap.getD c.tags i 0).toNat))

/-- Where the save of each tile begins (log 16): one after another from the save area, each in whole 4 KiB pages, the sequencer block
in a page before its image. -/
def saveAreas (s : State) (r : Region) : SMap Nat :=
  ((((List.range r.tiles.length).zip r.tiles).foldl (fun (acc : SMap Nat × Nat) x =>
    (acc.1 ++ [(x.1, acc.2)], acc.2 + 4096 + ((saveBytes (s.tile x.2) 0 r.live.toNat).length + 4095) / 4096 * 4096)) ([], r.saveVa.toNat))).1

/-- Save one tile (R371). -/
def State.saveTile (s : State) (r : Region) (t va : Nat) : State :=
  let tl := s.tile t
  let n := (saveBytes tl 0 r.live.toNat).length
  let bs := saveBytes tl ((n + 4095) / 4096 * 4096) r.live.toNat
  let img := BitVec.ofNat 64 (va + 4096)
  let s := match s.ctxAt t with
    | some c => (s.vWrite r.asid (BitVec.ofNat 64 va) (seqBlock s t c)).1
    | none => s
  (s.vWrite r.asid img bs).1.keepBeside (tl.keep r.asid img bs)

/-! The order in which regions owed cycles of their contracts have shared tiles (R23, R345, log 63). -/

/-- The region is owed cycles of the present period of its contract (R345). -/
def Region.owed (r : Region) : Bool := r.contract.any fun k => k.began && k.left != 0
/-- The region is owed cycles and has not its tiles (R23, R345). -/
def Region.due (r : Region) : Bool := r.st == .saved && r.owed
/-- It has not been resident in this period. -/
def Region.fresh (r : Region) : Bool := r.contract.any fun k => k.left == k.b
/-- Cycles of its island that are left of the period. -/
def State.remains (s : State) (r : Region) : Nat := match r.contract with
  | some k => k.start.toNat + k.p - (s.cycles r.island).toNat
  | none => 0

/-- Region `h`, which is owed cycles, has a shared tile before region `k`: before one that is owed none, before one that has begun its residence
where it has not, and else where less is left of its period. -/
def State.sooner (s : State) (h : Nat) (a : Region) (k : Nat) (b : Region) : Bool :=
  if !b.owed then true
  else if a.fresh != b.fresh then a.fresh
  else s.remains a < s.remains b || (s.remains a == s.remains b && h < k)

/-- Tile `t` is kept for another region than `h` (R345). -/
def State.keptFor (s : State) (h t : Nat) : Bool := s.regions.any fun (k, x) =>
  k != h && x.due && x.tiles.contains t && match s.region? h with
    | some r => s.sooner k x h r
    | none => true

/-- The tiles of regions that are owed cycles are cleared for them (R23, R345): a region that runs on one of them and comes behind is asked to
give up its tiles. -/
def State.clearFor (s : State) : State :=
  { s with regions := s.regions.map fun (k, x) =>
      (k, if x.st == .running && x.tiles.any (fun t => s.keptFor k t) then { x with latched := true } else x) }

/-- Save a region at its save point (R339, R371): it gives up its tiles and waits to be placed again (R380); its PREEMPT commands
complete. Copy slots, lanes and held pips stay (R22, R261, R295), and its spill rings no sequencer or engine reaches meanwhile (R150). -/
def saveRegion (h : Nat) (s : State) : State :=
  match s.region? h with
  | none => s
  | some r =>
    if !s.savePoint h r then s
    else
      let areas := saveAreas s r
      let saved := areas.foldl (fun (s : State) (x : Nat × Nat) => s.saveTile r (r.tiles.getD x.1 0) x.2) s
      let ctxs := ((List.range r.tiles.length).zip r.tiles).filterMap fun x => (s.ctxAt x.2).map fun c => (x.1, { c with wait := .idle })
      let rings := r.tiles.flatMap fun t => (s.tile t).allRings
      let s := saved.freeTiles r
      let s := s.setRegion h { r with st := .saved, latched := false, waited := none, preCmds := [], sctx := ctxs, areas := areas, rings := rings }
      (r.preCmds.foldl (fun (s : State) (x : Nat × W32) => s.answer x.1 x.2.toNat 0 5 1 h 0) s).clearFor

/-- SAVE_POINT (R339). -/
def execSavePoint (h : Nat) (s : State) : Out := .next (saveRegion h s)

/-! ### Restoring a region (R373) -/

/-- A context from its sequencer block. -/
def Ctx.ofBlock (c : Ctx) (bs : List Byte) : Ctx :=
  let d (o : Nat) : W64 := imgDouble bs o
  let g := d 0x158
  { c with
    g := Vector.ofFn fun (i : Fin 32) => if i.val = 0 then 0 else d (8 * (i.val - 1))
    pc := wordAddr (d 0xF8)
    ldep := (d 0x100).setWidth 2
    l0 := ⟨(d 0x108).setWidth 32, d 0x110, d 0x118⟩
    l1 := ⟨(d 0x120).setWidth 32, d 0x128, d 0x130⟩
    asid := (d 0x138).setWidth 16
    qwc := (d 0x140).setWidth 32
    wdog := (d 0x148).setWidth 32
    group := if g.getLsbD 8 then some (g.setWidth 3) else none
    pendingMember := g.getLsbD 9
    arrivedAt := false
    tags := ((List.range 256).filterMap fun i => if d (0x280 + 8 * i) = 0 then none else some (i, d (0x280 + 8 * i)))
    wait := .idle
    segOpen := false }

/-- The withdrawn reads that a sequencer block records (R371): address and entry. -/
def withdrawnOf (bs : List Byte) : List (W64 × W64) :=
  (List.range (min 16 (imgDouble bs 0x160).toNat)).map fun i => (imgDouble bs (0x180 + 16 * i), imgDouble bs (0x188 + 16 * i))

/-- Issue a withdrawn read again; none where its page maps no longer, or may not be read. -/
def State.reissueOne (s : State) (t : Nat) (c : Ctx) (x : W64 × W64) : Option State :=
  let k := bits64 x.2 11 8
  match walkTables s c.asid x.1 with
  | some e =>
    if !e.r then none
    else some (s.addReq { mkReq s t .read e x.1 (kindBytes k) with
      reg := some (BitVec.ofNat 5 (bits64 x.2 4 0)), signed := k < 3, ordered := BitVec.ofNat 3 (bits64 x.2 14 12) })
  | none => none

/-- Issue again the reads that a save withdrew (R339, R373). The first whose page maps no longer, or may not be read, traps the context as it
goes on; it and the others like it stay due, and are tried again behind the ERET of that trap (log 16). -/
def State.reissue (s : State) (t : Nat) (c : Ctx) : State :=
  let r := c.redo.foldl (fun (acc : State × List (W64 × W64)) x => match acc.1.reissueOne t c x with
    | some s' => (s', acc.2)
    | none => (acc.1, acc.2 ++ [x])) (s, [])
  let c := { c with redo := r.2, wait := .idle }
  match r.2 with
  | [] => r.1.setCtx t c
  | (va, _) :: _ => r.1.raise t c (if (walkTables s c.asid va).isSome then 4 else 3) 0 va c.pc

/-- A plane by its recorded identity under an address space (R373). -/
def State.planeBy (s : State) (asid : BitVec 16) (addr sig : W64) : Option Plane × Bool :=
  if addr = 0 ∧ sig = 0 then (none, true)
  else match s.reread asid addr 28 sig with
    | some bs => (some (planeOf bs addr asid), true)
    | none => (none, false)

/-- Restore one tile of a region: its fabric from its image, its context from its block (R373). -/
def State.restoreOne (s : State) (r : Region) (i t : Nat) : State :=
  let va := BitVec.ofNat 64 (SMap.getD r.areas i 0)
  let img := va + 4096
  let s := match SMap.get? r.sctx i with
    | none => s
    | some c => match s.vBytes r.asid va 2688 with
      | some bs =>
        let c := { c.ofBlock bs with rpos := rposWord r.w r.h i }
        ((s.setCtx t c).updTile t fun x => { x with warp := imgDouble bs 0x150 }).reissue t { c with redo := withdrawnOf bs }
      | none => s.setCtx t c
  match s.vBytes r.asid img 128 with
  | none => s
  | some hd =>
    if !saveLegal hd then s
    else match s.vBytes r.asid img (imgDouble hd 32).toNat with
      | none => s
      | some bs =>
        let act := s.planeBy r.asid (imgDouble bs 40) (imgDouble bs 48)
        let sh := s.planeBy r.asid (imgDouble bs 56) (imgDouble bs 64)
        if act.2 && sh.2 then s.updTile t fun tl => restoreTile tl bs act.1 sh.1 (s.keptAt r.asid img bs) r.asid
        else s.restoreFault t

end Sys2Proof.Machine
end

