-- ==== Sys2Proof/Machine/Hub.lean ====
section
/-! DEFINITION. Work queues (R329, R330, R379), the commands of the conduits (R380, R381), and the placing of regions (R110, R331, R333,
R346, R382). -/

namespace Sys2Proof.Machine

open Sys2Proof

/-! ### Queues and the scanner -/

/-- The queue is served (R379, R387): it is enabled, and negotiation has ended well. -/
def Hub.serves (h : Hub) (q : Nat) : Bool := h.booted && h.ok && (h.queue q).en

/-- A store that a head may not make (R378): dropped and counted in double 15 of hub island 15. -/
def State.refuseStore (s : State) : State := s.count (ctrHub 15 15) 1

/-- A store to the notify word of queue `q` (R329, R378, R379). -/
def notifyStore (q head : Nat) (s : State) : State :=
  if !s.hub.booted then s
  else if (s.hub.queue q).owner ≠ head then s.refuseStore
  else if s.hub.serves q then { s with hub := { s.hub with pvec := insRising s.hub.pvec q } }
  else s

/-- NOTIFY_STORE (R329). -/
def execNotifyStore (q : BitVec 12) (head : BitVec 2) (s : State) : Out := .next (notifyStore q.toNat head.toNat s)

/-- The lowest set bit at or above the start position, wrapping (R330). -/
def Hub.found (h : Hub) : Option Nat := match h.pvec.find? fun q => h.scan ≤ q with
  | some q => some q
  | none => h.pvec.head?

/-- One step of the scanner (R330). -/
def scannerStep (s : State) : State :=
  match s.hub.found with
  | none => s
  | some q =>
    { s with hub := { s.hub with
      pvec := s.hub.pvec.filter fun x => x != q
      fetches := s.hub.fetches ++ [((s.hub.queue q).home, q)]
      scan := (q + 1) % 4096 } }

/-- SCANNER_STEP (R330). -/
def execScannerStep (s : State) : Out := .next (scannerStep s)

/-! ### Commands -/

/-- Double `i` of a command (R380). -/
def Cmd.dbl (c : Cmd) (i : Nat) : W64 := c.d.getD i 0
/-- code -/
def Cmd.code (c : Cmd) : Nat := bits64 (c.dbl 0) 7 0
/-- tag -/
def Cmd.tag (c : Cmd) : Nat := bits64 (c.dbl 0) 63 32
/-- The selector of a PARAM. -/
def Cmd.sel (c : Cmd) : Nat := (c.dbl 1).toNat

/-- Commands refused with status 2 as they stand (R380, R385): a reserved field, a code that is none, a PARAM without a selector of the
table, and every command but PARAM before the journal is set. -/
def Cmd.malformed (c : Cmd) (h : Hub) : Bool :=
  bits64 (c.dbl 0) 31 8 != 0 || c.code == 0 || 9 < c.code || (c.code == 9 && 3 < c.sel) || (!h.jset && c.code != 9)

/-- Write the record of a command (R381): kind 0 accepted, 1 completed, 2 refused. -/
def State.reply (s : State) (c : Cmd) (status kind h : Nat) : State := s.answer c.q c.tag status c.code kind h 0
/-- The region that a command names: of its handle, launched from a queue of the same owner head (R381 status 3). -/
def State.named (s : State) (c : Cmd) : Option (Nat × Region) :=
  let h := (c.dbl 1).toNat
  match s.region? h with
  | some r => if (s.hub.queue r.queue).owner = (s.hub.queue c.q).owner then some (h, r) else none
  | none => none
/-- The handle of the command's region, 0 if there is none (R332): BIND, SEED, CONTRACT, PREEMPT, ABORT and REPLY name one. -/
def State.handleOf (s : State) (c : Cmd) : Nat := match s.named c with
  | some (h, _) => if 2 ≤ c.code ∧ c.code ≤ 7 then h else 0
  | none => 0
/-- Refuse a command. -/
def State.refuse (s : State) (c : Cmd) (status : Nat) : State := s.reply c status 2 (s.handleOf c)

/-- `n` bytes at a physical address as head `head` reads them: of memory, or of the device registers (R366, R377, R378). -/
def State.physRead (s : State) (head pa n : Nat) : List Byte :=
  if inDevice pa then s.devRead head pa n else s.seen.bytes pa n

/-- Read the command at the head of queue `q` for die `die` (R379): its ring slot is at `pa`. -/
def State.takeCmd (s : State) (die q pa : Nat) : State :=
  let qu := s.hub.queue q
  let c : Cmd := ⟨q, qu.prio, s.nextId, doublesOf 8 (s.physRead 0 pa 64)⟩
  let s := { s with
    nextId := s.nextId + 1
    hub := { s.hub with queues := SMap.put s.hub.queues q { qu with fetched := qu.fetched + 1 } } }
  if c.malformed s.hub then s.refuse c 2 else s.setDie die { s.die die with cmds := (s.die die).cmds ++ [c] }

/-- A fetch request is served: no command is left, or the queue is not enabled. -/
def State.endFetch (s : State) (x : Nat × Nat) : State := { s with hub := { s.hub with fetches := s.hub.fetches.erase x } }

/-- QUEUE_FETCH (R379): the conduit of a die reads the next command of the request that came first, wherever R108 populates its slot; at an
address that is not populated (R108) there is nothing to read, and the machine stops. -/
def execQueueFetch (die : Nat) (s : State) : Out :=
  match s.hub.fetches.find? fun x => x.1 == die with
  | none => .next s
  | some x =>
    let qu := s.hub.queue x.2
    if !s.hub.serves x.2 || qu.fetched == qu.posted then .next (s.endFetch x)
    else
      let pa := qu.base.toNat + 64 * (qu.fetched.toNat % 2 ^ qu.lg)
      if populated pa && populated (pa + 63) then .next (s.takeCmd die x.2 pa) else .fault (.unpopulated pa)

/-- The first command of this code at a conduit that no earlier command of its queue stands before. -/
def State.headCmd (s : State) (die : Nat) (f : Cmd → Bool) : Option Cmd :=
  let l := (s.die die).cmds
  ((List.range l.length).zip l).findSome? fun (i, c) => if f c && !((l.take i).any fun x => x.q == c.q) then some c else none

/-- Take a command out of its conduit. -/
def State.dropCmd (s : State) (die : Nat) (c : Cmd) : State := s.setDie die { s.die die with cmds := (s.die die).cmds.erase c }

/-- The frame of a command's step: the next command of the code, without which nothing happens; none leaves the command waiting. A command that
was fetched before a start-up is refused while no journal is set (R385). -/
def cmdStep (die : Nat) (f : Cmd → Bool) (s : State) (g : State → Cmd → Option State) : Out :=
  match s.headCmd die f with
  | none => .next s
  | some c => .next (if c.malformed s.hub then (s.dropCmd die c).refuse c 2 else (g (s.dropCmd die c) c).getD s)

/-- The step of a command that names a region (R381 status 3). -/
def regionStep (die code : Nat) (s : State) (g : State → Cmd → Nat → Region → Option State) : Out :=
  cmdStep die (fun c => c.code == code) s fun s c =>
    match s.named c with
    | none => some (s.refuse c 3)
    | some (h, r) => g s c h r

/-! ### Images and launches (R333, R382) -/

/-- A variant of an image. -/
structure Variant where
  w     : Nat
  h     : Nat
  entry : Nat
  code  : List Byte
  data  : List Byte
  place : Nat                     -- where the data lie, from the code start (R110)
  deriving DecidableEq, Repr

/-- Where the data lie from the code start (R57, R110): as far as in the image, where they stand behind the code there; else at the first
64-byte boundary after it (log 57). -/
def dataPlace (code len data : Nat) : Nat := if code + len ≤ data then data - code else (len + 63) / 64 * 64

/-- The entry of variant `i` (R382): none where it breaks the layout. -/
def variantAt (bs : List Byte) (i : Nat) : Option Variant :=
  let b := 16 + 8 * i
  let w (k : Nat) : Nat := (imgWord bs (b + k)).toNat
  let x := imgWord bs b
  let n := bs.length
  if 1 ≤ bits x 7 0 ∧ bits x 7 0 ≤ 10 ∧ 1 ≤ bits x 15 8 ∧ bits x 15 8 ≤ 10 ∧ bits x 31 16 = 0 ∧ w 1 % 4 = 0 ∧ w 1 < w 3
      ∧ w 2 % 64 = 0 ∧ w 4 % 64 = 0 ∧ w 2 + w 3 ≤ n ∧ w 4 + w 5 ≤ n ∧ w 6 = 0 ∧ w 7 = 0 then
    some ⟨bits x 7 0, bits x 15 8, w 1, (bs.drop (w 2)).take (w 3), (bs.drop (w 4)).take (w 5), dataPlace (w 2) (w 3) (w 4)⟩
  else none

/-- The variants of an image in their order, or none where the image breaks the layout of R382. -/
def variantsOf (bs : List Byte) : Option (List Variant) :=
  let n := (imgWord bs 1).toNat
  if imgWord bs 0 = 0x4B494D47 ∧ 1 ≤ n ∧ n ≤ 64 ∧ 64 + 32 * n ≤ bs.length ∧ ((List.range 13).all fun i => imgWord bs (3 + i) == 0) = true then
    (List.range n).foldr (fun i acc => match variantAt bs i, acc with
      | some v, some vs => some (v :: vs)
      | _, _ => none) (some [])
  else none

/-- The image at an address of an ASID. -/
def State.imageAt (s : State) (asid : BitVec 16) (va : W64) : Option (List Variant) :=
  match s.vBytes asid va 64 with
  | none => none
  | some h =>
    if imgWord h 0 = 0x4B494D47 ∧ 64 ≤ (imgWord h 2).toNat then (s.vBytes asid va (imgWord h 2).toNat).bind variantsOf else none

/-- The region of a LAUNCH command. -/
def Cmd.region (c : Cmd) : Region where
  st := .waiting
  queue := c.q
  tag := BitVec.ofNat 32 c.tag
  lprio := bits64 (c.dbl 2) 54 52
  qprio := c.prio
  ordn := c.ordn
  asid := BitVec.ofNat 16 (bits64 (c.dbl 2) 47 32)
  dies := bits64 (c.dbl 2) 51 48
  image := c.dbl 1
  lp := bits64 (c.dbl 2) 31 0
  recVa := c.dbl 3
  saveVa := c.dbl 4
  live := c.dbl 6 ++ c.dbl 5

/-- A launch: refused where it is malformed or its image is (R380, R382), else accepted under a new handle, and it waits, as a part of its
launch set if it is one (R334, log 53). -/
def launch (set : Option (Nat × Nat)) (s : State) (c : Cmd) : State :=
  let r := { c.region with set := set }
  if bits64 (c.dbl 2) 63 55 ≠ 0 then s.refuse c 2
  else if r.dies = 0 ∨ (s.imageAt r.asid r.image).isNone then s.refuse c 5
  else
    let h := s.nextHandle
    ({ s with nextHandle := h + 1 }.reply c 0 0 h).setRegion h r

/-- LAUNCH (R333, R380, R382). -/
def execLaunch (turn : LaunchTurn) (s : State) : Out := cmdStep turn.die (fun c => c.code == 1) s fun s c => some (launch turn.set s c)

/-! ### Placing -/

/-- Region `a` precedes region `b` in the order of R331. -/
def Region.precedes (a b : Region) : Bool :=
  b.qprio < a.qprio || (a.qprio == b.qprio && (b.lprio < a.lprio || (a.lprio == b.lprio && a.ordn < b.ordn)))

/-- Both regions are parts of one launch set (R334). -/
def Region.withSet (a b : Region) : Bool := a.set.isSome && a.set == b.set

/-- The dies that a region waiting for tiles keeps from region `h` (R331), but for one of its own launch set, which is placed with it (R334). -/
def State.blockedDie (s : State) (h : Nat) (r : Region) (die : Nat) : Bool :=
  s.regions.any fun (k, x) => k != h && x.st != .running && !x.withSet r && x.precedes r && (x.dies >>> die) % 2 == 1

/-- The contracts that a tile bears, other than that of region `h` (R344, R346). -/
def State.borne (s : State) (h t : Nat) : List Contract :=
  s.regions.filterMap fun (k, x) => if k != h && x.tiles.contains t then x.contract else none

/-- L_p is no more than P/16 for every contract on the tile (R346). -/
def State.bears (s : State) (h t lp : Nat) : Bool := (s.borne h t).all fun k => 16 * lp ≤ k.p

/-- A rectangle of free user tiles takes the region (R333, R345, R346). -/
def State.fitsAt (s : State) (h lp w hh die ty tx : Nat) : Bool :=
  (List.range (w * hh)).all fun i =>
    let t := tileNo die (ty + i / w) (tx + i % w)
    (s.tile t).region == 0 && s.bears h t lp && !s.keptFor h t

/-- The place for a rectangle (R333): the lowest die of the list, then the lowest ty, then the lowest tx. -/
def State.fit (s : State) (h lp w hh : Nat) (dies : List Nat) : Option (Nat × Nat × Nat) :=
  dies.findSome? fun die => (List.range (11 - hh)).findSome? fun ty => (List.range (11 - w)).findSome? fun tx =>
    if s.fitsAt h lp w hh die ty tx then some (die, ty, tx) else none

/-- The dies open to a region (R331, R333, R391). -/
def State.openDies (s : State) (h : Nat) (r : Region) : List Nat :=
  if s.hub.ckpt.isSome then [] else (List.range 4).filter fun d => (r.dies >>> d) % 2 == 1 && !s.blockedDie h r d

/-- The bytes of the code and the data section of a variant as they lie in memory (R57, R110). -/
def Variant.bytes (v : Variant) : List Byte :=
  if v.data.isEmpty then v.code else v.code ++ List.replicate (v.place - v.code.length) 0 ++ v.data

/-- The pages of a variant (R110) at a virtual address over frames: a page that holds code is executable, one that holds data is
writable. -/
def Variant.pages (v : Variant) (asid : BitVec 16) (va pa : Nat) : List TlbEnt :=
  (List.range ((v.bytes.length + 4095) / 4096)).map fun i =>
    ⟨asid, va + 4096 * i, 4096, pa + 4096 * i, .normal, false, 4096 * i < v.code.length, !v.data.isEmpty && v.place < 4096 * (i + 1), true⟩

/-- Where the pages of a launch lie (R110): the spec does not say, and both are free values (log 24). -/
def codePage (x : W64) : Nat := x.toNat % 2 ^ 43 * 4096
/-- Frames in the stacked DRAM. -/
def codeFrame (x : W64) : Nat := x.toNat % (2 ^ 26 - 2 ^ 20) * 4096

/-- A region takes its tiles (R17, R82, R110, R114, R122): each tile as at a launch, and one context on each. -/
def State.occupy (s : State) (h : Nat) (r : Region) : State :=
  { s with tiles := r.tiles.foldl (fun (m : SMap Tile) t =>
      let x := SMap.getD m t {}
      SMap.put m t { region := h, tlb := x.tlb, gen := x.gen + 1 }) s.tiles }

/-- No holder keeps a translation that a newly mapped page replaces. -/
def State.forget (s : State) (ps : List TlbEnt) : State :=
  let keep (l : List TlbEnt) : List TlbEnt := l.filter fun e => !ps.any fun p => p.asid == e.asid && p.va < e.va + e.size && e.va < p.va + p.size
  { s with
    tiles := s.tiles.map fun x => (x.1, { x.2 with tlb := keep x.2.tlb })
    rtlb := s.rtlb.map fun x => (x.1, keep x.2)
    dies := s.dies.map fun x => (x.1, { x.2 with ctlb := keep x.2.ctlb, etlb := x.2.etlb.map fun y => (y.1, keep y.2) }) }

/-- Place a variant with its pages at a virtual address over frames (R17, R82, R110, R114). -/
def State.placeOver (s : State) (h : Nat) (r : Region) (v : Variant) (die ty tx va pa : Nat) : State :=
  let r := { r with
    st := .running, set := none, w := v.w, h := v.h, die := die, ty := ty, tx := tx
    codeVa := BitVec.ofNat 64 va, code := v.code, entry := v.entry, quiet := 0, idle := 0
    mem0 := s.mem.putBytes pa v.bytes }
  let ps := v.pages r.asid va pa
  let s := { s.forget ps with mem := s.mem.putBytes pa v.bytes, pages := ps ++ s.pages }
  let s := (s.setRegion h r).occupy h r
  ((List.range r.tiles.length).zip r.tiles).foldl (fun (s : State) x =>
    s.setCtx x.2 { pc := BitVec.ofNat 64 (va + v.entry), asid := r.asid, rpos := rposWord r.w r.h x.1 }) s

/-- Place a variant: where its pages lie is free (R110, R333). -/
def State.placeAt (s : State) (h : Nat) (r : Region) (v : Variant) (die ty tx : Nat) : State :=
  (s.draw 2).placeOver h r v die ty tx (codePage (Config.freeWord s.free)) (codeFrame (Config.freeWord (s.free + 1)))

/-- Place a waiting launch (R331, R333): none where it has no place. -/
def State.placeNew (s : State) (h : Nat) (r : Region) : Option State :=
  match s.imageAt r.asid r.image with
  | none => none
  | some vs =>
    let dies := s.openDies h r
    match vs.findSome? fun v => (s.fit h r.lp v.w v.h dies).map fun p => (v, p) with
    | some (v, die, ty, tx) => some (s.placeAt h r v die ty tx)
    | none => none

/-- The launches that are placed together with a waiting one (R334): it alone, or those of its launch set, once all its parts have come. -/
def State.launchParts (s : State) (h : Nat) (r : Region) : Option (List (Nat × Region)) :=
  match r.set with
  | none => some [(h, r)]
  | some (_, n) =>
    let l := s.regions.filter fun x => x.2.st == .waiting && x.2.withSet r
    if n ≤ l.length then some l else none

/-- Place a waiting launch with its launch set: every part, or none (R334). -/
def State.placeParts (s : State) (h : Nat) (r : Region) : State :=
  (((s.launchParts h r).bind fun l => l.foldl (fun (acc : Option State) x => acc.bind fun u => u.placeNew x.1 x.2) (some s)) : Option State).getD s

/-- A region keeps its die where engines of that die serve it: only csr.tid differs after a restore (R373). -/
def State.restoreDies (s : State) (h : Nat) (r : Region) : List Nat :=
  let ds := s.openDies h r
  if (s.regionSlots h).isEmpty && (s.regionLanes h).isEmpty then ds else ds.filter fun d => d == r.die

/-- The tile of a region that stands where tile `t` stood before (R373). -/
def movedTile (old new : List Nat) (t : Nat) : Nat := match (old.zip new).find? fun x => x.1 == t with
  | some x => x.2
  | none => t

/-- The engines and pips of a region follow it to its new tiles (R22, R261, R295). -/
def State.follow (s : State) (h : Nat) (r : Region) (old new : List Nat) : State :=
  let mv := movedTile old new
  let dies : SMap Die := s.dies.map fun (d, x) => (d, { x with
    slots := x.slots.map fun (i, c) => (i, if c.region = h then { c with tile := mv c.tile } else c)
    sluice := x.sluice.map fun (i, l) => (i, if l.region = h then { l with tile := mv l.tile } else l)
    spout := x.spout.map fun (i, l) => (i, if l.region = h then { l with tile := mv l.tile } else l)
    fwait := x.fwait.map fun w => if w.region = h then { w with tile := mv w.tile } else w })
  let ids := r.sctx.flatMap fun x => x.2.holds.map (·.2)
  { s with dies := dies, domains := s.domains.map fun (n, d) =>
    (n, { d with pips := d.pips.map fun p => if ids.contains p.id then { p with tile := mv p.tile } else p }) }

/-- Restore a saved region onto a rectangle (R373): nothing fires before every part is back. -/
def State.restoreAt (s : State) (h : Nat) (r : Region) (die ty tx : Nat) : State :=
  let old := r.tiles
  let r' := { r with st := .running, die := die, ty := ty, tx := tx, quiet := 0, idle := 0, sctx := [], areas := [], rings := [] }
  let s := ((s.follow h r old r'.tiles).setRegion h r').occupy h r'
  ((List.range r'.tiles.length).zip r'.tiles).foldl (fun (s : State) x => s.restoreOne { r' with sctx := r.sctx, areas := r.areas } x.1 x.2) s

/-- The region's own rectangle takes it back; one that is owed cycles of its contract does not stand behind waiting launches (R23, R345). -/
def State.fitsBack (s : State) (h : Nat) (r : Region) : Bool :=
  s.hub.ckpt.isNone && (r.owed || !s.blockedDie h r r.die) && s.fitsAt h r.lp r.w r.h r.die r.ty r.tx

/-- A saved region is placed again under R331 and restored (R373, R380). One under a contract returns to its own tiles: on them it was
admitted, and in cycles of their island it is counted (R343 to R345, log 63). -/
def State.placeSaved (s : State) (h : Nat) (r : Region) : State :=
  if r.contract.isSome then (if s.fitsBack h r then s.restoreAt h r r.die r.ty r.tx else s)
  else match s.fit h r.lp r.w r.h (s.restoreDies h r) with
  | some (die, ty, tx) => s.restoreAt h r die ty tx
  | none => s

/-- Place the region (R331, R333). -/
def regionPlace (h : Nat) (s : State) : State :=
  match s.region? h with
  | none => s
  | some r => match r.st with
    | .waiting => s.placeParts h r
    | .saved => s.placeSaved h r
    | .running => s

/-- REGION_PLACE (R333). -/
def execRegionPlace (h : Nat) (s : State) : Out := .next (regionPlace h s)

/-- REGION_RESTORE (R373). -/
def execRegionRestore (h : Nat) (s : State) : Out :=
  .next (match s.region? h with
    | some r => if r.st == .saved then s.placeSaved h r else s
    | none => s)

/-- REGION_RETIRE (R16, R21). -/
def execRegionRetire (h : Nat) (s : State) : Out :=
  .next (match s.region? h with
    | some r => if s.finished h r then s.retire h r else s
    | none => s)

/-! ### BIND, SEED, PREEMPT, ABORT -/

/-- The tile of a region at a position (R84), if it has one there. -/
def Region.tileAt (r : Region) (rx ry : Nat) : Option Nat :=
  if rx < r.w ∧ ry < r.h then some (tileNo r.die (r.ty + ry) (r.tx + rx)) else none

/-- BIND (R335, R380): a descriptor that is not aligned to 32 bytes (R170) is malformed; the checks of STRM after those of the command; a saved region's command waits for it. -/
def bindCmd (s : State) (c : Cmd) (h : Nat) (r : Region) : Option State :=
  let d := c.dbl 2
  match r.st with
  | .waiting => some (s.refuse c 3)
  | .saved => none
  | .running =>
    match r.tileAt (bits64 d 15 8) (bits64 d 7 0) with
    | none => some (s.refuse c 2)
    | some t =>
      if bits64 d 63 22 ≠ 0 ∨ (c.dbl 3).toNat % 32 ≠ 0 then some (s.refuse c 2)
      else match s.vBytes r.asid (c.dbl 3) 32 with
        | none => some (s.refuse c 2)
        | some bs =>
          let (s', st) := s.bindPort t (bits64 d 21 16) (doublesOf 4 bs) r.asid (some (c.q, BitVec.ofNat 32 c.tag, BitVec.ofNat 32 h))
          some (if st = 0 then s'.reply c 0 0 h else s.refuse c st)

/-- BIND. -/
def execBind (die : Nat) (s : State) : Out := regionStep die 2 s bindCmd

/-- SEED (R299, R306, R380): the record is pushed on the die of the region's south-west tile; a full die takes it later. -/
def seedCmd (s : State) (c : Cmd) (h : Nat) (r : Region) : Option State :=
  match r.domain with
  | none => some (s.refuse c 2)
  | some n => match s.dom? n with
    | none => some (s.refuse c 2)
    | some d =>
      let e := d.serving r.die
      let w := pushRec n [c.dbl 2, c.dbl 3, c.dbl 4, c.dbl 5]
      if s.cascTakes n d e then some ((s.reply c 0 0 h).accept n e w (rootTile (e % 4)) 0 true).1 else none

/-- SEED. -/
def execSeed (die : Nat) (s : State) : Out := regionStep die 3 s seedCmd

/-- PREEMPT (R20, R380): the request is latched; a region already saved is as the command asks. -/
def preemptCmd (s : State) (c : Cmd) (h : Nat) (r : Region) : Option State :=
  let s := s.reply c 0 0 h
  some (match r.st with
    | .saved => s.reply c 0 1 h
    | _ => s.setRegion h { r with latched := true, preCmds := r.preCmds ++ [(c.q, BitVec.ofNat 32 c.tag)] })

/-- PREEMPT. -/
def execPreempt (die : Nat) (s : State) : Out := regionStep die 5 s preemptCmd

/-- ABORT (R363, R380): the region is aborted, and the command completes. -/
def abortCmd (s : State) (c : Cmd) (h : Nat) (_ : Region) : Option State :=
  some (((s.reply c 0 0 h).abort h 0).reply c 0 1 h)

/-- ABORT. -/
def execAbort (die : Nat) (s : State) : Out := regionStep die 6 s abortCmd

/-! ### The cap (R25, R27, R390) -/

/-- A contract stands on the island (R25, R343). -/
def State.contracted (s : State) (i : Nat) : Bool :=
  s.regions.any fun (_, r) => r.contract.isSome && r.tiles.any fun t => islandOf t == i

/-- The draw of the islands that `f` names, at their clocks (R25, R27): what an island draws is a free value (log 63). -/
def State.drawn (s : State) (f : Nat → Bool) : Nat := (((List.range 256).filter f).map fun i => Config.islandDraw i (s.clock i)).sum

/-- The draw of every part at full rate, in watts (R27). -/
def fullDraw : Nat := 2930

/-- The draw lies above a cap that a host has set (R25, R390). Above the cap of every part at full rate it never does (R27). -/
def State.overCap (s : State) (f : Nat → Bool) : Bool := s.hub.cap < fullDraw && s.hub.cap < s.drawn f

/-- Where the contracted islands alone draw more than a lower cap, every period that runs is counted, once (R390). -/
def State.countOver (s : State) : State :=
  if s.overCap s.contracted then
    let due (x : Region) : Bool := x.contract.any fun k => k.began && !k.above
    { s with
      hub := { s.hub with capOver := sat32 s.hub.capOver (s.regions.filter fun x => due x.2).length }
      regions := s.regions.map fun (h, r) => (h, { r with contract := r.contract.map fun k => { k with above := k.above || k.began } }) }
  else s

/-! ### CONTRACT (R343, R344) -/

/-- The sum of B/P over the contracts on a tile, with a new one, is at most 15/16: `cs` are pairs of B and P. A period of 0 admits
nothing. -/
def admits (cs : List (Nat × Nat)) : Bool :=
  (cs.all fun x => x.2 != 0) &&
    let all := cs.foldl (fun p x => p * x.2) 1
    16 * (cs.map fun x => x.1 * (all / x.2)).sum ≤ 15 * all

/-- The admission test for region `h` (R344). -/
def State.admitted (s : State) (h : Nat) (r : Region) (b p : Nat) : Bool :=
  r.tiles.all fun t => admits ((b, p) :: (s.borne h t).map fun k => (k.b, k.p))

/-- CONTRACT: a malformed command or frame port is refused with status 2, one that is not admitted with status 1. A region not yet
placed is none (status 3); a saved region's frame port is looked at when it is back. -/
def contractCmd (s : State) (c : Cmd) (h : Nat) (r : Region) : Option State :=
  let d := c.dbl 2
  let fr := d.getLsbD 0
  let vp := bits64 d 13 8
  let p := (c.dbl 3).toNat
  let b := (c.dbl 4).toNat
  let tile := r.tileAt (bits64 d 23 16) (bits64 d 31 24)
  let portOk : Bool := match tile with
    | some t => match (s.tile t).plane (s.tile t).epoch with
      | some pl => match SMap.get? pl.vps vp with
        | some w => !vpOut w
        | none => false
      | none => false
    | none => false
  if r.st == .waiting then some (s.refuse c 3)
  else if bits64 d 7 1 ≠ 0 ∨ bits64 d 15 14 ≠ 0 ∨ bits64 d 63 32 ≠ 0 ∨ 2 ^ 32 ≤ p ∨ 2 ^ 32 ≤ b then some (s.refuse c 2)
  else if fr && r.st == .saved then none
  else if fr && !portOk then some (s.refuse c 2)
  else if !s.admitted h r b p then some (s.refuse c 1)
  else
    let k : Contract := { frames := fr, tile := tile.getD r.sw, vp := vp, p := p, b := b, start := s.cycles r.island, began := !fr, num := 0
                          left := if fr then 0 else b, ovr := 0 }
    some ((s.setRegion h { r with contract := some k }).countOver.clearFor.reply c 0 0 h)

/-- CONTRACT. -/
def execContract (die : Nat) (s : State) : Out := regionStep die 4 s contractCmd

/-! ### REPLY (R356, R362, R380) -/

/-- Drop and count the stray token of a STRAY fault (R166, R362): of I0's queue of an SE the FIFO's tokens are the oldest (R156). -/
def State.dropStray (s : State) : Nat × Nat × Nat → State
  | (t, site, where_) =>
    let tl := s.tile t
    let e := tl.se site
    let k := if where_ < 4 then qKey site where_ else lKey site (where_ - 4)
    match (if where_ = 0 then e.fifo else []).find? fun x => x.ep == tl.epoch with
    | some x => (s.setTile t (tl.setSe site { e with fifo := e.fifo.erase x })).strays t 1
    | none =>
    let b := tl.buf k
    match b.toks.find? fun x => x.ep == tl.epoch with
    | some x => (s.setTile t (tl.setBuf k { b with toks := b.toks.erase x, ret := b.ret + 1 })).strays t 1
    | none => s

/-- A trap that is pending for the fault that a token reports. -/
def Pend.isOf (p : Pend) (f : FaultTok) : Bool := p.code.toNat == f.code && p.src == f.tile

/-- The context awaits the settlement of the fault that a token reports, whose trap it has taken (R361). A SYSC awaits its own answer. -/
def Ctx.awaits (c : Ctx) (f : FaultTok) : Bool :=
  c.awaiting && c.src == f.tile && c.tcause.toNat % 256 == f.code && c.tcause != causeWord false 0 0x11

/-- A context at the resumption of fault `f` of its region (R356, R361): a pending trap of the fault is withdrawn, and one that has taken it
returns to its csr.epc. The trap of another fault of this cause, `g`, that had merged with it (R357) stays pending. -/
def Ctx.resumed (c : Ctx) (f : FaultTok) (g : Option FaultTok) : Ctx :=
  match g with
  | none =>
    let c := { c with pend := c.pend.filter fun p => !p.isOf f }
    if c.awaits f then c.returnFromTrap else c
  | some g =>
    if c.awaits f then c.returnFromTrap.raise f.code g.tval g.tile
    else if c.awaits g then { c with pend := c.pend.filter fun p => !p.isOf f }
    else { c with pend := c.pend.map fun p => if p.isOf f then { p with src := g.tile } else p }

/-- The fault of the region that the next REPLY settles: the first that froze it or a tile of it, else the first suspension. -/
def Region.fault? (r : Region) : Option FaultTok := (r.faults.find? fun f => f.code < 0x30).or r.faults.head?

/-- RESUME of the fault that a token reports (R362): its stray token goes (R166), its detector or counter is cleared, what it alone keeps frozen
moves again, and each context that awaits it goes on. -/
def State.resume (s : State) (h : Nat) (r : Region) (f : FaultTok) : State :=
  let s := if f.code = 0x22 then s.dropStray (f.tile, bits64 f.tval 37 32, bits64 f.tval 41 38) else s
  let r := { r with
    faults := r.faults.erase f
    quiet := if f.code = 0x20 then 0 else r.quiet, idle := if f.code = 0x21 then 0 else r.idle }
  if 0x30 ≤ f.code then s.setRegion h r
  else
    let g := (s.openFaults h r).find? fun g => g.code == f.code && 0x10 ≤ g.code
    r.tiles.foldl (fun (s : State) t => s.updCtx t fun c => c.resumed f g) (s.unfreeze h r)

/-- REPLY under one of the two actions (R380): status 6 where no fault of the region awaits a reply. -/
def replyCmd (abort : Bool) (s : State) (c : Cmd) (h : Nat) (r : Region) : Option State :=
  match r.fault? with
  | none => some (s.refuse c 6)
  | some f =>
    let s := s.reply c 0 0 h
    some (if abort then s.abort h f.cause.toNat else s.resume h r f)

/-- The step of a REPLY whose action is `action`; an action that is none is malformed. -/
def replyStep (die : Nat) (abort : Bool) (s : State) : Out :=
  cmdStep die (fun c => c.code == 7 && (2 ≤ (c.dbl 2).toNat || (c.dbl 2 == 1) == abort)) s fun s c =>
    if 2 ≤ (c.dbl 2).toNat then some (s.refuse c 2)
    else match s.named c with
      | none => some (s.refuse c 3)
      | some (h, r) => replyCmd abort s c h r

/-- REPLY_RESUME (R362). -/
def execReplyResume (die : Nat) (s : State) : Out := replyStep die false s
/-- REPLY_ABORT (R362). -/
def execReplyAbort (die : Nat) (s : State) : Out := replyStep die true s

/-! ### PARAM (R340, R367, R385, R390) -/

/-- The step of a PARAM of a selector: refused with status 2 or accepted. -/
def paramStep (die sel : Nat) (s : State) (ok : State → Cmd → Bool) (f : State → Cmd → State) : Out :=
  cmdStep die (fun c => c.code == 9 && c.sel == sel) s fun s c => some (if ok s c then (f s c).reply c 0 0 0 else s.refuse c 2)

/-- PARAM_ATBASE (R367): the base of the ASID table. -/
def execParamAtbase (die : Nat) (s : State) : Out :=
  paramStep die 0 s (fun _ _ => true) fun s c => { s with hub := { s.hub with atbase := (c.dbl 2).toNat } }

/-- PARAM_REMOTE_BOUND (R340): 4,096 to 2^31 cycles. -/
def execParamRemoteBound (die : Nat) (s : State) : Out :=
  paramStep die 1 s (fun _ c => 4096 ≤ (c.dbl 2).toNat ∧ (c.dbl 2).toNat ≤ 2 ^ 31) fun s c => { s with hub := { s.hub with br := (c.dbl 2).toNat } }

/-- PARAM_POWER_CAP (R390): 100 to 3,000 W; a period in whose course the contracted islands come to draw more is counted. -/
def execParamPowerCap (die : Nat) (s : State) : Out :=
  paramStep die 2 s (fun _ c => 100 ≤ (c.dbl 2).toNat ∧ (c.dbl 2).toNat ≤ 3000) fun s c =>
    ({ s with hub := { s.hub with cap := (c.dbl 2).toNat } } : State).countOver

/-- The journal that a PARAM asks for may be set (R385). -/
def journalOk (s : State) (c : Cmd) : Bool :=
  let base := (c.dbl 2).toNat
  let lg := (c.dbl 3).toNat
  let last := base + 32 * 2 ^ (min lg 24) - 1
  !s.hub.jset && base % 4096 == 0 && 7 ≤ lg && lg ≤ 24 &&
    ((last < 0x4000000000) || (0x20000000000 ≤ base && last < 0x38000000000))

/-- PARAM_JOURNAL (R384, R385): its own entry is the first. -/
def execParamJournal (die : Nat) (s : State) : Out :=
  paramStep die 3 s journalOk fun s c =>
    { s with hub := { s.hub with jset := true, jbase := (c.dbl 2).toNat, jlg := (c.dbl 3).toNat, jseq := 0 } }

end Sys2Proof.Machine
end

