-- ==== Sys2Proof/Machine/Measure.lean ====
section
/-! DEFINITION. SHA-384 (FIPS 180-4), the digest of the measurements that a start-up keeps (R389). -/

namespace Sys2Proof.Machine

open Sys2Proof

/-- The first round constants of SHA-384. -/
def shaKs0 : List W64 := [
    0x428A2F98D728AE22#64, 0x7137449123EF65CD#64, 0xB5C0FBCFEC4D3B2F#64, 0xE9B5DBA58189DBBC#64,
    0x3956C25BF348B538#64, 0x59F111F1B605D019#64, 0x923F82A4AF194F9B#64, 0xAB1C5ED5DA6D8118#64,
    0xD807AA98A3030242#64, 0x12835B0145706FBE#64, 0x243185BE4EE4B28C#64, 0x550C7DC3D5FFB4E2#64,
    0x72BE5D74F27B896F#64, 0x80DEB1FE3B1696B1#64, 0x9BDC06A725C71235#64, 0xC19BF174CF692694#64,
    0xE49B69C19EF14AD2#64, 0xEFBE4786384F25E3#64, 0x0FC19DC68B8CD5B5#64, 0x240CA1CC77AC9C65#64,
    0x2DE92C6F592B0275#64, 0x4A7484AA6EA6E483#64, 0x5CB0A9DCBD41FBD4#64, 0x76F988DA831153B5#64,
    0x983E5152EE66DFAB#64, 0xA831C66D2DB43210#64, 0xB00327C898FB213F#64, 0xBF597FC7BEEF0EE4#64,
    0xC6E00BF33DA88FC2#64, 0xD5A79147930AA725#64, 0x06CA6351E003826F#64, 0x142929670A0E6E70#64,
    0x27B70A8546D22FFC#64, 0x2E1B21385C26C926#64, 0x4D2C6DFC5AC42AED#64, 0x53380D139D95B3DF#64,
    0x650A73548BAF63DE#64, 0x766A0ABB3C77B2A8#64, 0x81C2C92E47EDAEE6#64, 0x92722C851482353B#64]
/-- The other round constants. -/
def shaKs1 : List W64 := [
    0xA2BFE8A14CF10364#64, 0xA81A664BBC423001#64, 0xC24B8B70D0F89791#64, 0xC76C51A30654BE30#64,
    0xD192E819D6EF5218#64, 0xD69906245565A910#64, 0xF40E35855771202A#64, 0x106AA07032BBD1B8#64,
    0x19A4C116B8D2D0C8#64, 0x1E376C085141AB53#64, 0x2748774CDF8EEB99#64, 0x34B0BCB5E19B48A8#64,
    0x391C0CB3C5C95A63#64, 0x4ED8AA4AE3418ACB#64, 0x5B9CCA4F7763E373#64, 0x682E6FF3D6B2B8A3#64,
    0x748F82EE5DEFB2FC#64, 0x78A5636F43172F60#64, 0x84C87814A1F0AB72#64, 0x8CC702081A6439EC#64,
    0x90BEFFFA23631E28#64, 0xA4506CEBDE82BDE9#64, 0xBEF9A3F7B2C67915#64, 0xC67178F2E372532B#64,
    0xCA273ECEEA26619C#64, 0xD186B8C721C0C207#64, 0xEADA7DD6CDE0EB1E#64, 0xF57D4F7FEE6ED178#64,
    0x06F067AA72176FBA#64, 0x0A637DC5A2C898A6#64, 0x113F9804BEF90DAE#64, 0x1B710B35131C471B#64,
    0x28DB77F523047D84#64, 0x32CAAB7B40C72493#64, 0x3C9EBE0A15C9BEBC#64, 0x431D67C49C100D4C#64,
    0x4CC5D4BECB3E42B6#64, 0x597F299CFC657E2A#64, 0x5FCB6FAB3AD6FAEC#64, 0x6C44198C4A475817#64]

/-- The eight words of the hash as it goes. -/
structure Sha where
  a : W64
  b : W64
  c : W64
  d : W64
  e : W64
  f : W64
  g : W64
  h : W64
  deriving DecidableEq, Repr

/-- The initial hash of SHA-384. -/
def shaInit : Sha := ⟨0xCBBB9D5DC1059ED8, 0x629A292A367CD507, 0x9159015A3070DD17, 0x152FECD8F70E5939,
  0x67332667FFC00B31, 0x8EB44A8768581511, 0xDB0C2E0D64F98FA7, 0x47B5481DBEFA4FA4⟩

/-- The exclusive or of three rotations to the right. -/
def rot3 (x : W64) (i j k : Nat) : W64 := x.rotateRight i ^^^ x.rotateRight j ^^^ x.rotateRight k

/-- The exclusive or of two rotations to the right and a shift. -/
def rotShift (x : W64) (i j k : Nat) : W64 := x.rotateRight i ^^^ x.rotateRight j ^^^ (x >>> k)

/-- A value from bytes, most significant first. -/
def beNat (bs : List Byte) : Nat := bs.foldl (fun n b => 256 * n + b.toNat) 0

/-- A message with its padding: a one bit, zeros, and its length in bits as 16 bytes. -/
def shaPad (bs : List Byte) : List Byte :=
  bs ++ [0x80] ++ List.replicate ((239 - bs.length % 128) % 128) 0 ++ (leBytes 16 (8 * bs.length)).reverse

/-- `n` more words of a message schedule, which stands newest first. -/
def shaExtend : Nat → List W64 → List W64
  | 0, w => w
  | n + 1, w =>
    shaExtend n ((rotShift (w.getD 1 0) 19 61 6 + w.getD 6 0 + rotShift (w.getD 14 0) 1 8 7 + w.getD 15 0) :: w)

/-- One round: a constant and a word of the schedule. -/
def Sha.round (s : Sha) (k : W64 × W64) : Sha :=
  let t1 := s.h + rot3 s.e 14 18 41 + ((s.e &&& s.f) ^^^ (~~~s.e &&& s.g)) + k.1 + k.2
  let t2 := rot3 s.a 28 34 39 + ((s.a &&& s.b) ^^^ (s.a &&& s.c) ^^^ (s.b &&& s.c))
  ⟨t1 + t2, s.a, s.b, s.c, s.d + t1, s.e, s.f, s.g⟩

/-- One block of 128 bytes. -/
def Sha.block (s : Sha) (bs : List Byte) : Sha :=
  let w := ((List.range 16).map fun i => BitVec.ofNat 64 (beNat ((bs.drop (8 * i)).take 8))).reverse
  let r := ((shaKs0 ++ shaKs1).zip (shaExtend 64 w).reverse).foldl Sha.round s
  ⟨s.a + r.a, s.b + r.b, s.c + r.c, s.d + r.d, s.e + r.e, s.f + r.f, s.g + r.g, s.h + r.h⟩

/-- The SHA-384 digest of a byte string: six words, the first one first. -/
def sha384 (bs : List Byte) : List W64 :=
  let m := shaPad bs
  let s := (List.range (m.length / 128)).foldl (fun (s : Sha) i => s.block ((m.drop (128 * i)).take 128)) shaInit
  [s.a, s.b, s.c, s.d, s.e, s.f]

end Sys2Proof.Machine
end

