-- ==== Sys2Proof/Machine/Links.lean ====
section
/-! DEFINITION. The hub register block as the heads write it (R378, R384, R386, R387), requests of the hosts (R377), the links of heads
and of Herran ports (R384, R388), start-up and management (R389, R392), and the checkpoint (R391). -/

namespace Sys2Proof.Machine

open Sys2Proof

/-! ### Stores to the hub register block -/

/-- Change the hub. -/
def State.setHub (s : State) (h : Hub) : State := { s with hub := h }

/-- A store of double 3 of drvfeat ends negotiation (R387). -/
def negotiate (value : W64) (s : State) : State :=
  let h := s.hub
  if !h.booted then s
  else if h.done then s.refuseStore
  else
    let f : BitVec 256 := value ++ h.drvfeat.setWidth 192
    s.setHub { h with drvfeat := f, done := true, ok := f.getLsbD 0 && f &&& ~~~h.devfeat == 0 }

/-- FEATURE_NEGOTIATION (R387). -/
def execFeatureNegotiation (_head : BitVec 2) (value : W64) (s : State) : Out := .next (negotiate value s)

/-- A queue of the dead head is adopted (R386). -/
def Queue.adopt (q : Queue) (dead head : Nat) : Queue :=
  if q.owner = dead then { q with cfg := setField q.cfg 17 16 head } else q

/-- A store to the claim register (R386). -/
def claimStore (head : Nat) (value : W64) (s : State) : State :=
  let h := s.hub
  let dead := bits64 value 1 0
  let good := (h.gen.getD dead 0).toNat == bits64 value 31 16 && !h.live.getLsbD dead && dead != head
  if !h.booted then s
  else if good then
    let qs : SMap Queue := if dead = 0 then (List.range 4096).map fun q => (q, (h.queue q).adopt dead head)
      else h.queues.map fun x => (x.1, x.2.adopt dead head)
    s.setHub { h with queues := qs, gen := h.gen.set dead (h.gen.getD dead 0 + 1), claim := h.claim ||| BitVec.ofNat 4 (2 ^ head) }
  else s.setHub { h with claim := h.claim &&& ~~~BitVec.ofNat 4 (2 ^ head) }

/-- CLAIM_REGISTER_STORE (R386). -/
def execClaimRegisterStore (head : BitVec 2) (value : W64) (s : State) : Out := .next (claimStore head.toNat value s)

/-- A store to a double of a queue block (R379): idx takes posted only. -/
def Queue.write (q : Queue) (i : Nat) (v : W64) : Queue := match i with
  | 0 => { q with base := v }
  | 1 => { q with cfg := v }
  | 2 => { q with posted := v.setWidth 32 }
  | _ => { q with cbase := v }

/-- A store to a register of the hub block without behaviour of its own (R378): performed, or dropped and counted. -/
def plainStore (head off : Nat) (v : W64) (s : State) : State :=
  let h := s.hub
  if off % 8 ≠ 0 then s.refuseStore
  else if 0x120 ≤ off ∧ off < 0x138 then
    if h.done then s.refuseStore
    else
      let k := 8 * (off - 0x120)
      let m : BitVec 256 := ~~~(BitVec.ofNat 256 (2 ^ 64 - 1) <<< k)
      s.setHub { h with drvfeat := (h.drvfeat &&& m) ||| (v.setWidth 256 <<< k) }
  else if off = 0x1020 then
    if v.getLsbD head then s else s.setHub { h with live := h.live &&& ~~~BitVec.ofNat 4 (2 ^ head) }
  else if 0x1028 ≤ off ∧ off < 0x1800 then
    s.setHub { h with hand := ((List.range 8).zip (leBytes 8 v.toNat)).foldl (fun m x => SMap.put m (off - 0x1000 + x.1) x.2) h.hand }
  else if 0x100000 ≤ off ∧ off < 0x100000 + 32 * 4096 then
    let q := (off - 0x100000) / 32
    if (h.queue q).owner = head then s.setHub { h with queues := SMap.put h.queues q ((h.queue q).write (off / 8 % 4) v) }
    else s.refuseStore
  else s.refuseStore

/-- A store of a head to the hub block (R378). -/
def hubStore (head off : Nat) (v : W64) (s : State) : State :=
  if !s.hub.booted then s
  else if off = 0x138 then negotiate v s
  else if off = 0x1800 then claimStore head v s
  else if 0x200000 ≤ off ∧ off < 0x200000 + 8 * 4096 ∧ off % 8 = 0 then notifyStore ((off - 0x200000) / 8) head s
  else plainStore head off v s

/-- REGISTER_WRITE (R378). -/
def execRegisterWrite (head : BitVec 2) (off : Nat) (value : W64) (s : State) : Out := .next (hubStore head.toNat off value s)

/-! ### Requests of a host (R377) -/

/-- One double of a host's store to the device registers: the bytes `bs` at `pa` that lie in the double at `a`, over what stands there (R366,
R378). -/
def hostDouble (head pa : Nat) (bs : List Byte) (s : State) (a : Nat) : State :=
  if 0x3F100000000 ≤ a ∧ a < 0x3F100000000 + 0x208000 then
    let off := a - 0x3F100000000
    let old := leBytes 8 ((s.hub.read head off).getD 0).toNat
    let v := (List.range 8).map fun i => if pa ≤ a + i then (bs[a + i - pa]?).getD (old.getD i 0) else old.getD i 0
    hubStore head off (BitVec.ofNat 64 (leNat v)) s
  else s.clearCounter a

/-- A host's store to the device registers, double by double. -/
def hostRegisters (head pa : Nat) (bs : List Byte) (s : State) : State :=
  ((List.range ((pa + bs.length - 1) / 8 + 1 - pa / 8)).map fun i => 8 * (pa / 8) + 8 * i).foldl (hostDouble head pa bs) s

/-- A read or a write of a host through CXL.mem: device memory, or the device registers. No other range is exposed to it (R377): an access
elsewhere stops. -/
def execHostMemoryRequest (head : BitVec 2) (pa : Nat) (data : Option (List Byte)) (n : Nat) (s : State) : Out :=
  let len := match data with
    | some bs => bs.length
    | none => n
  if !s.hub.booted || len == 0 then .next s
  else if inDeviceMemory pa && inDeviceMemory (pa + len - 1) then
    match data with
    | some bs => .next { s with mem := s.mem.putBytes pa bs }
    | none => .next (s.setHub { s.hub with reply := doublesOf ((n + 7) / 8) (s.mem.bytes pa n) })
  else if inDevice pa && inDevice (pa + len - 1) then
    match data with
    | none => .next ((s.setHub { s.hub with reply := doublesOf ((n + 7) / 8) (s.physRead head.toNat pa n) }).draw (n / 8 + 2))
    | some bs => .next (hostRegisters head.toNat pa bs s)
  else .fault (.unpopulated pa)

/-! ### Heads -/

/-- A head's link goes down, or its host releases it (R384): its live bit is cleared. When no head is up any more, the handover area
need not keep its contents: its free bytes and the gen words take free values. -/
def headDown (head : Nat) (s : State) : State :=
  let m : BitVec 4 := ~~~BitVec.ofNat 4 (2 ^ head)
  let h : Hub := { s.hub with live := s.hub.live &&& m, up := s.hub.up &&& m }
  if s.hub.up ≠ 0 ∧ h.up = 0 then
    (s.setHub { h with
      hand := (List.range 2008).map fun i => (40 + i, Config.freeByte (s.free + i))
      gen := (List.range 4).map fun i => (Config.freeWord (s.free + 2008 + i)).setWidth 16 }).draw 2012
  else s.setHub h

/-- HEAD_LINK_DOWN (R384). -/
def execHeadLinkDown (head : BitVec 2) (s : State) : Out := .next (headDown head.toNat s)

/-- HEAD_LINK_UP (R384, R389): start-up has enabled the heads. -/
def execHeadLinkUp (head : BitVec 2) (s : State) : Out :=
  .next (if s.hub.booted then
    let m : BitVec 4 := BitVec.ofNat 4 (2 ^ head.toNat)
    s.setHub { s.hub with live := s.hub.live ||| m, up := s.hub.up ||| m }
  else s)

/-! ### Herran ports (R388) -/

/-- The CRC of a flit is right. -/
def flitGood (f : List Byte) : Bool := f.length == 256 && crc64 (f.take 248) == imgDouble f 248

/-- The virtual lane of a flit. -/
def flitLane (f : List Byte) : Nat := bits64 (imgDouble f 0) 3 0
/-- Its number on the lane. -/
def flitSeq (f : List Byte) : Nat := bits64 (imgDouble f 0) 19 4

/-- The flit is the next of its virtual lane: the lanes of a port run in order, each by itself. The number of a lane's first flit the spec does
not give: it is the one that the flit bears (log 62). -/
def Port.inOrder (p : Port) (f : List Byte) : Bool := match SMap.get? p.rxSeq (flitLane f) with
  | some n => flitSeq f == (n + 1) % 65536
  | none => true

/-- A flit is taken where it is the next of its virtual lane, and it acknowledges flits of this package, which leave the sender's buffer. -/
def Port.take (p : Port) (f : List Byte) : Port :=
  if p.inOrder f then { p with
    rxSeq := SMap.put p.rxSeq (flitLane f) (flitSeq f), ack := bits64 (imgDouble f 0) 35 20, fails := 0, wait := false
    got := SMap.upd p.got (flitLane f) [] fun l => l ++ [f] }
  else p

/-- Change a port that is not down. -/
def State.updPort (s : State) (n : Nat) (f : Port → Port) : State :=
  if n < herranPorts && !(SMap.getD s.hub.ports n {}).down then s.setHub { s.hub with ports := SMap.upd s.hub.ports n {} f } else s

/-- HERRAN_FLIT_RECEIVE (R388): a flit that fails its CRC is to be replayed, and none is taken before it. -/
def execHerranFlitReceive (port : Nat) (flit : List Byte) (s : State) : Out :=
  .next (s.updPort port fun p => if p.wait then p else if flitGood flit then p.take flit else { p with wait := true, fails := 0 })

/-- HERRAN_FLIT_REPLAY (R388): after 16 failures of one flit none is taken any more. -/
def execHerranFlitReplay (port : Nat) (flit : List Byte) (s : State) : Out :=
  .next (s.updPort port fun p => if !p.wait || 16 ≤ p.fails then p else if flitGood flit then p.take flit else { p with fails := p.fails + 1 })

/-- HERRAN_PORT_DOWN (R388): after 16 failed replays of one flit the port is down and its traffic is lost: requests to peers that go over it find
no home, and no answer comes, until the remote bound gives them up (R118, R340). -/
def execHerranPortDown (port : Nat) (s : State) : Out :=
  .next (s.updPort port fun p => if 16 ≤ p.fails then { p with down := true, got := [], wait := false } else p)

/-! ### Start-up and management -/

/-- The queue blocks are set to disabled (R389). -/
def Hub.disableQueues (h : Hub) : Hub :=
  { h with queues := h.queues.map fun x => (x.1, { x.2 with cfg := x.2.cfg &&& ~~~0x80000000#64 }) }

/-- The features of this device (R387). -/
def offered : BitVec 256 := 0x3F

/-- The image of every root core is loaded, and its csr.tvec written (R375): where the images put their entry, if they do, comes with the
step (log 85). -/
def State.loadRoots (s : State) : Option W64 → State
  | some e => (List.range 4).foldl (fun (s : State) d => s.updCtx (rootTile d) fun c => { c with tvec := wordAddr e, tvset := true }) s
  | none => s

/-- The firmware image that a start-up runs: a newer one where there is one (R392). -/
def Hub.firmware (h : Hub) : List W64 := if h.fwNext.isEmpty then h.fw else h.fwNext
/-- Doubles as bytes. -/
def imageBytes (l : List W64) : List Byte := l.flatMap fun x => leBytes 8 x.toNat

/-- The SHA-384 digest of some bytes, as the 48 bytes of the standard. -/
def digestBytes (bs : List Byte) : List Byte := (sha384 bs).flatMap fun x => (leBytes 8 x.toNat).reverse
/-- The hash of a public key stands in the fuses (R389): they hold SHA-384 digests, one behind the other (log 60). -/
def keyFused (key : List Byte) : Bool :=
  (List.range (Config.fuses.length / 48)).any fun i => (Config.fuses.drop (48 * i)).take 48 == digestBytes key
/-- Both signatures of an image verify over its digest, each under a key whose hash stands in the fuses (R389). -/
def imageVerifies (g : Signed) (image : List Byte) : Bool :=
  keyFused g.ecKey && keyFused g.hssKey && Config.ecdsaP384 g.ecKey (digestBytes image) g.ecSig && Config.hssLms g.hssKey (digestBytes image) g.hssSig
/-- The images that a start-up verifies, each by itself: the firmware, and under it the others (R389). -/
def verifiedImages (fw : Signed) (firmware : List Byte) (images : Images) : List (List Byte) :=
  if imageVerifies fw firmware then firmware :: (images.others.filter fun x => imageVerifies x.2 x.1).map (·.1) else []

/-- Start-up (R389): where the firmware and every other image verify, they run, and links are trained; otherwise the device stays in recovery.
Every image that verifies is measured. Where an image carries its signatures the spec does not say, so that they come with the step (log 60). -/
def startup (fw : Signed) (images : Images) (s : State) : State :=
  let h := s.hub
  let good := verifiedImages fw (imageBytes h.firmware) images
  if h.booted then s
  else if good.length ≤ images.others.length then s.setHub { h with recovery := true, digest := good.flatMap sha384 }
  else (s.loadRoots images.entry).setHub { h.disableQueues with
    recovery := false, booted := true, digest := good.flatMap sha384, fw := h.firmware
    pkg := h.pkgNext, ports := [], devfeat := offered, drvfeat := 0, done := false, ok := false, jset := false, magic := true }

/-- STARTUP (R389). -/
def execStartup (fw : Signed) (images : Images) (s : State) : Out := .next (startup fw images s)

/-- The answer of a management message. -/
def State.answerMgmt (s : State) (l : List W64) : State := s.setHub { s.hub with reply := l }

/-- PLDM_SENSORS (R392): a temperature, the frequency and power of each island, and the module's power; what is measured is free. -/
def execPldmSensors (s : State) : Out :=
  .next ((s.answerMgmt ((List.range 256).map (fun i => BitVec.ofNat 64 (s.clock i))
    ++ (List.range 258).map fun i => Config.freeWord (s.free + i))).draw 258)

/-- PLDM_FIRMWARE_UPDATE (R392): it takes effect at the next start-up only. -/
def execPldmFirmwareUpdate (image : List W64) (s : State) : Out := .next (s.setHub { s.hub with fwNext := image, reply := [] })

/-- SPDM_GET_MEASUREMENTS (R389): the measurements of the verified images, of the fuse key hashes and of drvfeat; the signature is free. -/
def execSpdmGetMeasurements (s : State) : Out :=
  .next ((s.answerMgmt (s.hub.digest ++ sha384 Config.fuses ++ sha384 (leBytes 32 s.hub.drvfeat.toNat)
    ++ (List.range 12).map fun i => Config.freeWord (s.free + i))).draw 12)

/-- MGMT_RESET (R392): the device must start up again, and negotiation is void (R387); no region's architectural state changes. -/
def execMgmtReset (s : State) : Out :=
  .next (s.setHub { s.hub with booted := false, drvfeat := 0, done := false, ok := false, reply := [] })

/-- MGMT_RECOVERY (R389, R392): the device goes into recovery, reachable only by management messages. -/
def execMgmtRecovery (s : State) : Out := .next (s.setHub { s.hub with booted := false, recovery := true, reply := [] })

/-- MGMT_READ_COUNTERS (R366, R392). -/
def execMgmtReadCounters (block double : Nat) (s : State) : Out :=
  .next (s.answerMgmt (if double < 512 && isCounter (512 * block + double) then [(SMap.getD s.ctr (512 * block + double) 0).setWidth 64] else []))

/-- MGMT_SET_PACKAGE_NUMBER (R389, R392): used at the next start-up. -/
def execMgmtSetPackageNumber (n : BitVec 12) (s : State) : Out := .next (s.setHub { s.hub with pkgNext := n, reply := [] })

/-! ### The checkpoint (R391) -/

/-- Bytes of stacked DRAM. -/
def dramSize : Nat := 0x4000000000
/-- Bytes of LPDDR-6. -/
def lpddrSize : Nat := 0x18000000000
/-- Bytes of a checkpoint. -/
def ckptSize : Nat := dramSize + lpddrSize + 4096

/-- The target base lies in peer memory on the Herran route, in host memory on the CXL route (R108). -/
def targetOk (route base : Nat) : Bool := if route = 0 then isPeer base else isHost base

/-- CHECKPOINT (R380, R391): one at a time; refused with status 4 while a region is resident. -/
def checkpoint (s : State) (c : Cmd) : Option State :=
  let route := (c.dbl 1).toNat
  if s.hub.ckpt.isSome then none
  else if 1 < route ∨ targetOk route (c.dbl 2).toNat = false then some (s.refuse c 2)
  else if s.regions.any fun x => x.2.st == .running then some (s.refuse c 4)
  else
    let s := s.reply c 0 0 0
    some (s.setHub { s.hub with ckpt := some (c.q, BitVec.ofNat 32 c.tag, c.dbl 1, c.dbl 2) })

/-- CHECKPOINT. -/
def execCheckpoint (die : Nat) (s : State) : Out := cmdStep die (fun c => c.code == 8) s checkpoint

/-- The handover area as bytes (R384). -/
def Hub.handBytes (h : Hub) : List Byte :=
  (List.range 512).flatMap fun i => leBytes 8 (match h.read 0 (0x1000 + 8 * i) with
    | some v => v.toNat
    | none => 0)

/-- Where a byte of device memory stands in a checkpoint, from the base: in host memory stacked DRAM in die order, then LPDDR-6; in a peer
package, where no range takes both, each at its own address (R108, log 103). -/
def ckptOffset (route pa : Nat) : Nat := if route = 0 ∨ pa < dramSize then pa else pa - 0x20000000000 + dramSize
/-- Where the handover area stands in it: behind the rest, or in the handover area of the peer (log 103). -/
def ckptHand (route : Nat) : Nat := if route = 0 then 0x3F100001000 else dramSize + lpddrSize
/-- The addresses that device memory spans in it. -/
def ckptSpan (route : Nat) : Nat := if route = 0 then 0x38000000000 else dramSize + lpddrSize

/-- The memory after a checkpoint to `base`. -/
def Memory.checkpoint (m : Memory) (route base : Nat) (hand : List Byte) : Memory :=
  let m' : Memory := (m.filter fun x => x.1 < base) ++ ((m.filter fun x => inDeviceMemory x.1).map fun x => (base + ckptOffset route x.1, x.2))
    ++ m.filter fun x => base + ckptSpan route ≤ x.1
  m'.putBytes (base + ckptHand route) hand

/-- The target takes not every byte of a checkpoint (R108, R118, R388, R391): some would lie beyond what R108 populates, a Herran port by which
some go is down, or no head's link is up (log 103). -/
def State.targetFault (s : State) (route base : Nat) : Bool :=
  if route = 0 then base % 2 ^ 42 != 0 || (s.anyDown && (List.range 4096).any fun i => s.peerDown (base + 64 * i))
  else s.hub.up == 0 || 0x80000000000000 < base + ckptSize

/-- The end of a checkpoint: the last byte is written, or a fault on the target ends it with status 2. -/
def checkpointDone (fault : Bool) (s : State) : State :=
  match s.hub.ckpt with
  | none => s
  | some (q, tag, route, base) =>
    let s := s.setHub { s.hub with ckpt := none }
    let bad := fault || s.targetFault route.toNat base.toNat
    let s := if bad then s else { s with mem := s.mem.checkpoint route.toNat base.toNat s.hub.handBytes }
    s.answer q tag.toNat (if bad then 2 else 0) 8 1 0 0

/-- CHECKPOINT_DONE (R391). -/
def execCheckpointDone (fault : Bool) (s : State) : Out := .next (checkpointDone fault s)

end Sys2Proof.Machine
end

