-- ==== Sys2Proof/Machine/Cycles.lean ====
section
/-! DEFINITION. What the clock of an island counts (R24, R86): the cycle counters, the QWC detector and the watchdog (R171, R348), and
contracts (R343, R345); the governors (R25, R390). -/

namespace Sys2Proof.Machine

open Sys2Proof

/-- A context is in the middle of a WOCLR (R145). -/
def Ctx.clears (c : Ctx) : Bool := match c.wait with
  | .sectors .. => true
  | _ => false

/-- No request of the region is outstanding (R171): no access, walk, barrier update or sector of a WOCLR. -/
def State.asksNothing (s : State) (h : Nat) (r : Region) : Bool :=
  !(s.reqs.any fun q => s.ownsReq h q && q.unanswered)
    && !(s.walks.any fun w => r.tiles.contains w.tile)
    && !(s.bars.any fun b => (s.slot? b.die b.slot).any fun c => c.region == h)
    && !((s.regionCtxs r).any fun x => x.2.clears)

/-- An out binding of the region has received EOS. -/
def State.sinkEnded (s : State) (r : Region) : Bool :=
  r.tiles.any fun t => (s.tile t).ports.any fun x => x.2.out && x.2.eosIn

/-- The region is quiescent in the cycle that ends (R171): no VE has fired and no token has moved in it, and nothing is outstanding. -/
def State.quiescent (s : State) (h : Nat) (r : Region) : Bool :=
  !r.stir && s.asksNothing h r && !((s.live r).any fun x => x.2.parks) && !s.awaits h r && !s.sinkEnded r

/-- The watchdog's count holds (R348). -/
def State.watchHolds (s : State) (h : Nat) (r : Region) : Bool := (s.live r).isEmpty || s.parked r || s.awaits h r

/-- A cycle of residence under a contract (R345). -/
def Contract.cycle (k : Contract) : Contract :=
  if k.left = 0 then k else { k with left := k.left - 1, out := k.left == 1 }

/-- A cycle in which the region stands unsaved with a request latched (R346): counted from the segment boundary that it has reached, and
beyond L_p against it. -/
def State.waitCycle (s : State) (h : Nat) (r : Region) : Region :=
  if !r.latched then { r with waited := none }
  else match r.waited with
    | some n => { r with waited := some (n + 1), late := if r.lp ≤ n then r.late + 1 else r.late }
    | none => if s.atBoundary h r then { r with waited := some 0 } else r

/-- One cycle of the island that hosts a region. -/
def State.regionCycle (s : State) (h : Nat) (r : Region) : Region :=
  let r := { s.waitCycle h r with contract := r.contract.map Contract.cycle }
  if r.frozen then r
  else { r with
    quiet := if s.quiescent h r then r.quiet + 1 else 0, stir := false
    idle := if s.watchHolds h r then r.idle else r.idle + 1 }

/-- A period of the contract begins at this cycle or before, or its budget has run out and that is not yet looked at (R343, R345). -/
def Contract.behind (k : Contract) (now : W64) : Bool :=
  k.out || if k.frames then k.due.any fun x => x.toNat ≤ now.toNat else k.start.toNat + k.p ≤ now.toNat

/-- What begins or ends in the present cycle of island `i` under a contract comes before its next cycle. -/
def State.behind (s : State) (i : Nat) : Bool :=
  s.regions.any fun (_, r) => r.island == i && r.contract.any fun k => k.behind (s.cycles i)

/-- The governors let the island run (R25, R27, R390): it has a clock, and while the total exceeds a lower cap only contracted islands do. -/
def State.powered (s : State) (i : Nat) : Bool := s.clock i != 0 && (s.contracted i || !s.overCap fun _ => true)

/-- The tiles of an island begin a cycle (R75, R123, R226, R247): no raise, no record and no access of the sequencer stands in it. -/
def Tile.newCycle (t : Tile) : Tile :=
  { t with seqBanks := [], mx := if t.mx.now = {} then t.mx else { t.mx with now := {} }, rill := { t.rill with now := {} }, ves := t.ves.map fun x => (x.1, if x.2.raised = 0 then x.2 else { x.2 with raised := 0 }) }

/-- The island of a codec lane (R24): four Sluice lanes or eight Spout lanes to one. -/
def laneIsland (d : Nat) (spout : Bool) (n : Nat) : Nat := 60 * d + if spout then 58 + n / 8 else 54 + n / 4

/-- The codec lanes of an island begin a cycle (R296). -/
def Die.newCycle (x : Die) (d i : Nat) : Die :=
  let go (spout : Bool) (m : SMap Lane) : SMap Lane := m.map fun y => (y.1, if laneIsland d spout y.1 == i then { y.2 with now := {} } else y.2)
  { x with sluice := go false x.sluice, spout := go true x.spout }

/-- The Cascade units of an island begin a cycle (R325). -/
def Domain.newCycle (x : Domain) (i : Nat) : Domain :=
  { x with share := x.share.map fun y => (y.1, if cascIsland y.1 == i then { y.2 with now := {} } else y.2) }

/-- One cycle of island `i` (R86); a region that has now begun its residence gives way to one that has not (R345). -/
def islandCycle (i : Nat) (s : State) : State :=
  if 256 ≤ i || !s.powered i || s.behind i then s
  else
    let s : State := { s with
      cyc := SMap.put s.cyc i (s.cycles i + 1)
      tiles := s.tiles.map fun ((t, x) : Nat × Tile) => (t, if islandOf t == i then x.newCycle else x)
      dies := s.dies.map fun ((d, x) : Nat × Die) => (d, x.newCycle d i)
      domains := s.domains.map fun ((n, x) : Nat × Domain) => (n, x.newCycle i) }
    ({ s with regions := s.regions.map fun (h, r) =>
        (h, if r.st == .running && r.island == i then s.regionCycle h r else r) } : State).clearFor

/-- ISLAND_CYCLE (R86): the counter holds where the clock is 0 MHz. -/
def execIslandCycle (i : Nat) (s : State) : Out := .next (islandCycle i s)

/-- The context of the region's south-west tile. -/
def State.swCtx (s : State) (r : Region) : Ctx := (s.ctxAt r.sw).getD {}

/-- A detector of the region fires where its count has reached its limit, a limit of 0 disabling it. -/
def State.detect (s : State) (h : Nat) (count limit : Region → Nat) (code : Nat) (tval : Region → W64) : State :=
  match s.region? h with
  | none => s
  | some r =>
    if r.st != .running || r.frozen || limit r == 0 || count r < limit r then s
    else s.unitFault h r r.sw code (tval r)

/-- QWC_FAULT (R171). -/
def execQwcFault (h : Nat) (s : State) : Out :=
  .next (s.detect h (fun r => r.quiet) (fun r => (s.swCtx r).qwc.toNat) 0x20 fun _ => 0)

/-- WATCHDOG_FAULT (R348). -/
def execWatchdogFault (h : Nat) (s : State) : Out :=
  .next (s.detect h (fun r => r.idle) (fun r => (s.swCtx r).wdog.toNat) 0x21 fun r => (s.swCtx r).wdog.setWidth 64)

/-- A period begins at cycle `x` (R343). -/
def Contract.begins (k : Contract) (x : W64) : Contract :=
  { k with start := x, began := true, num := k.num + 1, left := k.b, due := none, out := false, above := false }

/-- The period of a contract that is due (R343); a budget that has run out is looked at first. -/
def Contract.next (k : Contract) (now : W64) : Contract :=
  if k.out then k
  else if k.frames then match k.due with
    | some x => if x ≤ now then k.begins x else k
    | none => k
  else if k.start + BitVec.ofNat 64 k.p ≤ now then k.begins (k.start + BitVec.ofNat 64 k.p) else k

/-- Change the contract of a region. -/
def State.updContract (s : State) (h : Nat) (f : Region → Contract → Contract) : State :=
  match s.region? h with
  | none => s
  | some r => s.setRegion h { r with contract := r.contract.map (f r) }

/-- The period of a contract that is due begins (R343, R390), and the tiles of a region that is then owed cycles are cleared (R345). -/
def periodStart (h : Nat) (s : State) : State :=
  match s.region? h with
  | none => s
  | some r => match r.contract with
    | none => s
    | some k =>
      let k' := k.next (s.cycles r.island)
      if k' = k then s else (s.setRegion h { r with contract := some k' }).countOver.clearFor

/-- CONTRACT_PERIOD_START (R343, R345, R390). -/
def execContractPeriodStart (h : Nat) (s : State) : Out := .next (periodStart h s)

/-- The budget of a period has run out (R345): an overrun where the region is neither parked nor halted; it goes on as uncontracted work, so
that its tiles are cleared for a region that is owed cycles on them. -/
def budgetExhausted (h : Nat) (s : State) : State :=
  (s.updContract h fun r k =>
    if !k.out then k
    else { k with out := false, ovr := if s.parked r then k.ovr else sat16 k.ovr 1 }).clearFor

/-- CONTRACT_BUDGET_EXHAUSTED (R345). -/
def execContractBudgetExhausted (h : Nat) (s : State) : Out := .next (budgetExhausted h s)

/-- GOVERNOR_CLOCK_CHANGE (R24, R25, R27, R390): at most 2.4 GHz; an island under contract is not lowered, and under a lower cap no clock is
raised so far that the total exceeds it. -/
def clockChange (island mhz : Nat) (s : State) : State :=
  if 256 ≤ island ∨ 2400 < mhz then s
  else
    let s' := { s with mhz := SMap.put s.mhz island mhz }
    if mhz < s.clock island then (if s.contracted island then s else s')
    else if s'.overCap fun _ => true then s
    else s'

/-- GOVERNOR_CLOCK_CHANGE (R24, R25, R27, R390). -/
def execGovernorClockChange (island mhz : Nat) (s : State) : Out := .next (clockChange island mhz s)

end Sys2Proof.Machine
end

