-- ==== Sys2Proof/Machine/FabricSteps.lean ====
section
/-! DEFINITION. The steps of the fabric as rows of the opcode table: each is the operation of Fabric or SeModes of the same name. -/

namespace Sys2Proof.Machine

open Sys2Proof

/-- VE_DATA_FIRING (R153). -/
def execVeDataFiring (t : TileId) (site : Nat) (s : State) : Out := .next (veDataFiring t.toNat site s)
/-- VE_MARKER_FIRING (R154). -/
def execVeMarkerFiring (t : TileId) (site : Nat) (s : State) : Out := .next (veMarkerFiring t.toNat site s)
/-- VE_RANK_DISCARD (R192). -/
def execVeRankDiscard (t : TileId) (site : Nat) (s : State) : Out := .next (veRankDiscard t.toNat site s)
/-- ISECT_COMPARE (R193). -/
def execIsectCompare (t : TileId) (site : Nat) (s : State) : Out := .next (isectCompare t.toNat site s)
/-- VE_FIRING_RESULT (R151). -/
def execVeFiringResult (t : TileId) (site : Nat) (s : State) : Out := .next (veFiringResult t.toNat site s)
/-- LINK_TOKEN_MOVE (R159). -/
def execLinkTokenMove (t : TileId) (site li : Nat) (s : State) : Out := .next (linkTokenMove t.toNat site li s)
/-- RING_REFILL (R160). -/
def execRingRefill (t : TileId) (site li : Nat) (s : State) : Out := .next (ringRefill t.toNat site li s)
/-- CREDIT_RETURN (R159). -/
def execCreditReturn (t : TileId) (buf : Nat) (s : State) : Out := .next (creditReturn t.toNat buf s)
/-- CUT_EDGE_WINDOW_GRANT (R161). -/
def execCutEdgeWindowGrant (t : TileId) (site li : Nat) (s : State) : Out := .next (cutEdgeWindowGrant t.toNat site li s)
/-- ROUTER_INGRESS (R54). -/
def execRouterIngress (t : TileId) (s : State) : Out := .next (routerIngress t.toNat s)
/-- SE_RAM_READ (R156). -/
def execSeRamRead (t : TileId) (site : Nat) (s : State) : Out := .next (seRamRead t.toNat site s)
/-- SE_RAM_WRITE (R156). -/
def execSeRamWrite (t : TileId) (site : Nat) (s : State) : Out := .next (seRamWrite t.toNat site s)
/-- SE_FIFO_PASS (R156). -/
def execSeFifoPass (t : TileId) (site : Nat) (s : State) : Out := .next (seFifoPass t.toNat site s)
/-- SE_LUT_LOOKUP (R156). -/
def execSeLutLookup (t : TileId) (site : Nat) (s : State) : Out := .next (seLutLookup t.toNat site s)
/-- WARP_STORE_SETUP (R279). -/
def execWarpStoreSetup (t : TileId) (site : Nat) (s : State) : Out := .next (warpStoreSetup t.toNat site s)
/-- WARP_STORE_FILL (R280). -/
def execWarpStoreFill (t : TileId) (site : Nat) (s : State) : Out := .next (warpStoreFill t.toNat site s)
/-- WARP_STORE_REQUEST (R281). -/
def execWarpStoreRequest (t : TileId) (site : Nat) (s : State) : Out := .next (warpStoreRequest t.toNat site s)
/-- WARP_STORE_MARKER (R281). -/
def execWarpStoreMarker (t : TileId) (site : Nat) (s : State) : Out := .next (warpStoreMarker t.toNat site s)

end Sys2Proof.Machine
end

