-- ==== Sys2Proof/Machine/Waiting.lean ====
section
/-! DEFINITION. The completion of a word that waits (R172): the word is run again where it stands. -/

namespace Sys2Proof.Machine

open Sys2Proof

/-- The meaning of a word that can wait; no other word waits. -/
def waitRun (i : Instr) (s : State) : Out :=
  match i with
  | .ldB d a o => execLdB d a o s
  | .ldH d a o => execLdH d a o s
  | .ldW d a o => execLdW d a o s
  | .ldD d a o => execLdD d a o s
  | .ldBn d a o => execLdBn d a o s
  | .ldHn d a o => execLdHn d a o s
  | .ldWn d a o => execLdWn d a o s
  | .stB d a o => execStB d a o s
  | .stH d a o => execStH d a o s
  | .stW d a o => execStW d a o s
  | .stD d a o => execStD d a o s
  | .ldsB d a o => execLdsB d a o s
  | .ldsH d a o => execLdsH d a o s
  | .ldsW d a o => execLdsW d a o s
  | .ldsD d a o => execLdsD d a o s
  | .ldsBn d a o => execLdsBn d a o s
  | .ldsHn d a o => execLdsHn d a o s
  | .ldsWn d a o => execLdsWn d a o s
  | .stsB d a o => execStsB d a o s
  | .stsH d a o => execStsH d a o s
  | .stsW d a o => execStsW d a o s
  | .stsD d a o => execStsD d a o s
  | .pref h a o => execPref h a o s
  | .fence o sel => execFence o sel s
  | .amoAdd d a b z => execAmoAdd d a b z s
  | .amoAnd d a b z => execAmoAnd d a b z s
  | .amoOr d a b z => execAmoOr d a b z s
  | .amoXor d a b z => execAmoXor d a b z s
  | .amoMin d a b z => execAmoMin d a b z s
  | .amoMax d a b z => execAmoMax d a b z s
  | .amoMinn d a b z => execAmoMinn d a b z s
  | .amoMaxn d a b z => execAmoMaxn d a b z s
  | .amoSwp d a b z => execAmoSwp d a b z s
  | .amoFadd d a b => execAmoFadd d a b s
  | .casW d a b => execCasW d a b s
  | .casD d a b => execCasD d a b s
  | .woclr d a b => execWoclr d a b s
  | .wotest d a => execWotest d a s
  | .cfgld d a => execCfgld d a s
  | .cfggo => execCfggo s
  | .cfggoS => execCfggoS s
  | .cfgwaitLd d => execCfgwaitLd d s
  | .cfgwaitGo d => execCfgwaitGo d s
  | .cfgsave d a => execCfgsave d a s
  | .cfgrest d a => execCfgrest d a s
  | .strm d a n => execStrm d a n s
  | .pws a b n => execPws a b n s
  | .pwv a b n => execPwv a b n s
  | .prd d a n => execPrd d a n s
  | .mki a n => execMki a n s
  | .drain d => execDrain d s
  | .accz n => execAccz n s
  | .accrd d a n => execAccrd d a n s
  | .bktokTake d a => execBktokTake d a s
  | .mtok d a n => execMtok d a n s
  | .mbld d a b => execMbld d a b s
  | .mwait m => execMwait m s
  | .rload d a sel => execRload d a sel s
  | .rsel d a p => execRsel d a p s
  | .rfree d m => execRfree d m s
  | .cparm d a sel => execCparm d a sel s
  | .cpfire d a b => execCpfire d a b s
  | .cpres d sel => execCpres d sel s
  | .cpkill d sel => execCpkill d sel s
  | .tbinit d a b c => execTbinit d a b c s
  | .tbarr d a b c => execTbarr d a b c s
  | .tbexp d a b c => execTbexp d a b c s
  | .tbwait d a b c => execTbwait d a b c s
  | .tbtest d a c => execTbtest d a c s
  | .slbind d a n => execSlbind d a n s
  | .slrel d n => execSlrel d n s
  | .warpset d a => execWarpset d a s
  | .spbind d a n => execSpbind d a n s
  | .sphdr d a n => execSphdr d a n s
  | .wpush d a c => execWpush d a c s
  | .wpop d a c => execWpop d a c s
  | .wtry d a c => execWtry d a c s
  | .wdone d b c => execWdone d b c s
  | .wdoneF d b c => execWdoneF d b c s
  | .wpromo d a b => execWpromo d a b s
  | .wfloorR d => execWfloorR d s
  | .wdomJoin d a => execWdomJoin d a s
  | .wdomLeave d => execWdomLeave d s
  | .wdomQuery d => execWdomQuery d s
  | .wdrain d c => execWdrain d c s
  | .gbar d c => execGbar d c s
  | .park d a => execPark d a s
  | .trap a => execTrap a s
  | .sysc d a => execSysc d a s
  | .halt => execHalt s
  | .invr a b => execInvr a b s
  | .inva a => execInva a s
  | .eret => execEret s
  | _ => .next s

/-- A word of the context has issued and has not completed. -/
def Ctx.waits (c : Ctx) : Bool := match c.wait with
  | .idle => false
  | .fetch _ => false
  | _ => true

/-- WAITING_WORD_COMPLETE (R172): the waiting word of tile `t` tests its condition, and completes where it holds; a context with withdrawn reads
still due issues them (R373). -/
def execWaitingWordComplete (t : TileId) (s : State) : Out :=
  match s.ctxAt t.toNat with
  | none => .next s
  | some c =>
    if !c.waits || !s.canIssue t.toNat c then .next s
    else if c.wait = .redo then .next (s.reissue t.toNat c)
    else match decode c.word with
      | .ok i => waitRun i { s with cur := t }
      | .error _ => .next s

end Sys2Proof.Machine
end

