-- ==== Sys2Proof/Machine/Dispatch.lean ====
section
/-! DEFINITION. The meaning of every instruction: one arm per constructor. -/

namespace Sys2Proof.Machine

open Sys2Proof

/-- The meaning of an instruction: a sequencer word of the context of tile `cur`, or a step of another agent. -/
def exec (i : Instr) (s : State) : Host.Outcome State Fault Refusal :=
  match i with
  | .add d a b => Sys2Proof.Machine.execAdd d a b s
  | .sub d a b => Sys2Proof.Machine.execSub d a b s
  | .and d a b => Sys2Proof.Machine.execAnd d a b s
  | .or d a b => Sys2Proof.Machine.execOr d a b s
  | .xor d a b => Sys2Proof.Machine.execXor d a b s
  | .andn d a b => Sys2Proof.Machine.execAndn d a b s
  | .shl d a b => Sys2Proof.Machine.execShl d a b s
  | .shr d a b => Sys2Proof.Machine.execShr d a b s
  | .sra d a b => Sys2Proof.Machine.execSra d a b s
  | .rol d a b => Sys2Proof.Machine.execRol d a b s
  | .min d a b => Sys2Proof.Machine.execMin d a b s
  | .max d a b => Sys2Proof.Machine.execMax d a b s
  | .minn d a b => Sys2Proof.Machine.execMinn d a b s
  | .maxn d a b => Sys2Proof.Machine.execMaxn d a b s
  | .seq d a b => Sys2Proof.Machine.execSeq d a b s
  | .sne d a b => Sys2Proof.Machine.execSne d a b s
  | .slt d a b => Sys2Proof.Machine.execSlt d a b s
  | .sltn d a b => Sys2Proof.Machine.execSltn d a b s
  | .clz d a => Sys2Proof.Machine.execClz d a s
  | .ctz d a => Sys2Proof.Machine.execCtz d a s
  | .popc d a => Sys2Proof.Machine.execPopc d a s
  | .mul d a b => Sys2Proof.Machine.execMul d a b s
  | .mulh d a b => Sys2Proof.Machine.execMulh d a b s
  | .mulhn d a b => Sys2Proof.Machine.execMulhn d a b s
  | .div d a b => Sys2Proof.Machine.execDiv d a b s
  | .divn d a b => Sys2Proof.Machine.execDivn d a b s
  | .rem d a b => Sys2Proof.Machine.execRem d a b s
  | .remn d a b => Sys2Proof.Machine.execRemn d a b s
  | .jalr d a => Sys2Proof.Machine.execJalr d a s
  | .pause => Sys2Proof.Machine.execPause s
  | .shli d a sel => Sys2Proof.Machine.execShli d a sel s
  | .shri d a sel => Sys2Proof.Machine.execShri d a sel s
  | .srai d a sel => Sys2Proof.Machine.execSrai d a sel s
  | .addi d a im => Sys2Proof.Machine.execAddi d a im s
  | .andi d a im => Sys2Proof.Machine.execAndi d a im s
  | .ori d a im => Sys2Proof.Machine.execOri d a im s
  | .xori d a im => Sys2Proof.Machine.execXori d a im s
  | .slti d a im => Sys2Proof.Machine.execSlti d a im s
  | .lui d im => Sys2Proof.Machine.execLui d im s
  | .addpc d im => Sys2Proof.Machine.execAddpc d im s
  | .loopi d l => Sys2Proof.Machine.execLoopi d l s
  | .beq a b o => Sys2Proof.Machine.execBeq a b o s
  | .bne a b o => Sys2Proof.Machine.execBne a b o s
  | .blt a b o => Sys2Proof.Machine.execBlt a b o s
  | .bge a b o => Sys2Proof.Machine.execBge a b o s
  | .bltn a b o => Sys2Proof.Machine.execBltn a b o s
  | .bgen a b o => Sys2Proof.Machine.execBgen a b o s
  | .j o => Sys2Proof.Machine.execJ o s
  | .jal o => Sys2Proof.Machine.execJal o s
  | .ldB d a o => Sys2Proof.Machine.execLdB d a o s
  | .ldH d a o => Sys2Proof.Machine.execLdH d a o s
  | .ldW d a o => Sys2Proof.Machine.execLdW d a o s
  | .ldD d a o => Sys2Proof.Machine.execLdD d a o s
  | .ldBn d a o => Sys2Proof.Machine.execLdBn d a o s
  | .ldHn d a o => Sys2Proof.Machine.execLdHn d a o s
  | .ldWn d a o => Sys2Proof.Machine.execLdWn d a o s
  | .stB d a o => Sys2Proof.Machine.execStB d a o s
  | .stH d a o => Sys2Proof.Machine.execStH d a o s
  | .stW d a o => Sys2Proof.Machine.execStW d a o s
  | .stD d a o => Sys2Proof.Machine.execStD d a o s
  | .ldsB d a o => Sys2Proof.Machine.execLdsB d a o s
  | .ldsH d a o => Sys2Proof.Machine.execLdsH d a o s
  | .ldsW d a o => Sys2Proof.Machine.execLdsW d a o s
  | .ldsD d a o => Sys2Proof.Machine.execLdsD d a o s
  | .ldsBn d a o => Sys2Proof.Machine.execLdsBn d a o s
  | .ldsHn d a o => Sys2Proof.Machine.execLdsHn d a o s
  | .ldsWn d a o => Sys2Proof.Machine.execLdsWn d a o s
  | .stsB d a o => Sys2Proof.Machine.execStsB d a o s
  | .stsH d a o => Sys2Proof.Machine.execStsH d a o s
  | .stsW d a o => Sys2Proof.Machine.execStsW d a o s
  | .stsD d a o => Sys2Proof.Machine.execStsD d a o s
  | .pref h a o => Sys2Proof.Machine.execPref h a o s
  | .tlook d a => Sys2Proof.Machine.execTlook d a s
  | .tins d a b => Sys2Proof.Machine.execTins d a b s
  | .tinv d a => Sys2Proof.Machine.execTinv d a s
  | .ord o sel => Sys2Proof.Machine.execOrd o sel s
  | .fence o sel => Sys2Proof.Machine.execFence o sel s
  | .amoAdd d a b z => Sys2Proof.Machine.execAmoAdd d a b z s
  | .amoAnd d a b z => Sys2Proof.Machine.execAmoAnd d a b z s
  | .amoOr d a b z => Sys2Proof.Machine.execAmoOr d a b z s
  | .amoXor d a b z => Sys2Proof.Machine.execAmoXor d a b z s
  | .amoMin d a b z => Sys2Proof.Machine.execAmoMin d a b z s
  | .amoMax d a b z => Sys2Proof.Machine.execAmoMax d a b z s
  | .amoMinn d a b z => Sys2Proof.Machine.execAmoMinn d a b z s
  | .amoMaxn d a b z => Sys2Proof.Machine.execAmoMaxn d a b z s
  | .amoSwp d a b z => Sys2Proof.Machine.execAmoSwp d a b z s
  | .amoFadd d a b => Sys2Proof.Machine.execAmoFadd d a b s
  | .casW d a b => Sys2Proof.Machine.execCasW d a b s
  | .casD d a b => Sys2Proof.Machine.execCasD d a b s
  | .woclr d a b => Sys2Proof.Machine.execWoclr d a b s
  | .wotest d a => Sys2Proof.Machine.execWotest d a s
  | .cfgld d a => Sys2Proof.Machine.execCfgld d a s
  | .cfggo => Sys2Proof.Machine.execCfggo s
  | .cfggoS => Sys2Proof.Machine.execCfggoS s
  | .cfgwaitLd d => Sys2Proof.Machine.execCfgwaitLd d s
  | .cfgwaitGo d => Sys2Proof.Machine.execCfgwaitGo d s
  | .cfgsigA d => Sys2Proof.Machine.execCfgsigA d s
  | .cfgsigSh d => Sys2Proof.Machine.execCfgsigSh d s
  | .cfgsave d a => Sys2Proof.Machine.execCfgsave d a s
  | .cfgrest d a => Sys2Proof.Machine.execCfgrest d a s
  | .strm d a n => Sys2Proof.Machine.execStrm d a n s
  | .pws a b n => Sys2Proof.Machine.execPws a b n s
  | .pwv a b n => Sys2Proof.Machine.execPwv a b n s
  | .prd d a n => Sys2Proof.Machine.execPrd d a n s
  | .mki a n => Sys2Proof.Machine.execMki a n s
  | .drain d => Sys2Proof.Machine.execDrain d s
  | .pstat d b n => Sys2Proof.Machine.execPstat d b n s
  | .accz n => Sys2Proof.Machine.execAccz n s
  | .accrd d a n => Sys2Proof.Machine.execAccrd d a n s
  | .bktokTake d a => Sys2Proof.Machine.execBktokTake d a s
  | .bktokGive d a => Sys2Proof.Machine.execBktokGive d a s
  | .bktokQuery d a => Sys2Proof.Machine.execBktokQuery d a s
  | .mtok d a n => Sys2Proof.Machine.execMtok d a n s
  | .mbld d a b => Sys2Proof.Machine.execMbld d a b s
  | .mstat d sel => Sys2Proof.Machine.execMstat d sel s
  | .mwait m => Sys2Proof.Machine.execMwait m s
  | .rload d a sel => Sys2Proof.Machine.execRload d a sel s
  | .rsel d a p => Sys2Proof.Machine.execRsel d a p s
  | .rstat d sel => Sys2Proof.Machine.execRstat d sel s
  | .rfree d m => Sys2Proof.Machine.execRfree d m s
  | .cparm d a sel => Sys2Proof.Machine.execCparm d a sel s
  | .cpfire d a b => Sys2Proof.Machine.execCpfire d a b s
  | .cpstat d a sel => Sys2Proof.Machine.execCpstat d a sel s
  | .cpres d sel => Sys2Proof.Machine.execCpres d sel s
  | .cpkill d sel => Sys2Proof.Machine.execCpkill d sel s
  | .tbinit d a b c => Sys2Proof.Machine.execTbinit d a b c s
  | .tbarr d a b c => Sys2Proof.Machine.execTbarr d a b c s
  | .tbexp d a b c => Sys2Proof.Machine.execTbexp d a b c s
  | .tbwait d a b c => Sys2Proof.Machine.execTbwait d a b c s
  | .tbtest d a c => Sys2Proof.Machine.execTbtest d a c s
  | .slbind d a n => Sys2Proof.Machine.execSlbind d a n s
  | .slstat d a n => Sys2Proof.Machine.execSlstat d a n s
  | .slrel d n => Sys2Proof.Machine.execSlrel d n s
  | .warpset d a => Sys2Proof.Machine.execWarpset d a s
  | .spbind d a n => Sys2Proof.Machine.execSpbind d a n s
  | .sphdr d a n => Sys2Proof.Machine.execSphdr d a n s
  | .spstat d a n => Sys2Proof.Machine.execSpstat d a n s
  | .wpush d a c => Sys2Proof.Machine.execWpush d a c s
  | .wpop d a c => Sys2Proof.Machine.execWpop d a c s
  | .wtry d a c => Sys2Proof.Machine.execWtry d a c s
  | .wdone d b c => Sys2Proof.Machine.execWdone d b c s
  | .wdoneF d b c => Sys2Proof.Machine.execWdoneF d b c s
  | .wpromo d a b => Sys2Proof.Machine.execWpromo d a b s
  | .wfloor d => Sys2Proof.Machine.execWfloor d s
  | .wfloorR d => Sys2Proof.Machine.execWfloorR d s
  | .wdomJoin d a => Sys2Proof.Machine.execWdomJoin d a s
  | .wdomLeave d => Sys2Proof.Machine.execWdomLeave d s
  | .wdomQuery d => Sys2Proof.Machine.execWdomQuery d s
  | .wstat d a => Sys2Proof.Machine.execWstat d a s
  | .wdrain d c => Sys2Proof.Machine.execWdrain d c s
  | .gjoin d a => Sys2Proof.Machine.execGjoin d a s
  | .gleave d => Sys2Proof.Machine.execGleave d s
  | .gbar d c => Sys2Proof.Machine.execGbar d c s
  | .gsize d => Sys2Proof.Machine.execGsize d s
  | .segend d => Sys2Proof.Machine.execSegend d s
  | .park d a => Sys2Proof.Machine.execPark d a s
  | .ctract d sel => Sys2Proof.Machine.execCtract d sel s
  | .trap a => Sys2Proof.Machine.execTrap a s
  | .sysc d a => Sys2Proof.Machine.execSysc d a s
  | .halt => Sys2Proof.Machine.execHalt s
  | .eret => Sys2Proof.Machine.execEret s
  | .invr a b => Sys2Proof.Machine.execInvr a b s
  | .inva a => Sys2Proof.Machine.execInva a s
  | .csrr d c => Sys2Proof.Machine.execCsrr d c s
  | .csrw d a c => Sys2Proof.Machine.execCsrw d a c s
  | .csrs d a c => Sys2Proof.Machine.execCsrs d a c s
  | .csrc d a c => Sys2Proof.Machine.execCsrc d a c s
  | .woclrSectorStep t => Sys2Proof.Machine.execWoclrSectorStep t s
  | .bktokGrant t => Sys2Proof.Machine.execBktokGrant t s
  | .tbwaitTimeout t => Sys2Proof.Machine.execTbwaitTimeout t s
  | .gbarEpisodeComplete h grp => Sys2Proof.Machine.execGbarEpisodeComplete h grp s
  | .syscAnswer t => Sys2Proof.Machine.execSyscAnswer t s
  | .waitingWordComplete t => Sys2Proof.Machine.execWaitingWordComplete t s
  | .asyncTrap t => Sys2Proof.Machine.execAsyncTrap t s
  | .veDataFiring t site => Sys2Proof.Machine.execVeDataFiring t site s
  | .veMarkerFiring t site => Sys2Proof.Machine.execVeMarkerFiring t site s
  | .veRankDiscard t site => Sys2Proof.Machine.execVeRankDiscard t site s
  | .isectCompare t site => Sys2Proof.Machine.execIsectCompare t site s
  | .veFiringResult t site => Sys2Proof.Machine.execVeFiringResult t site s
  | .linkTokenMove t site li => Sys2Proof.Machine.execLinkTokenMove t site li s
  | .ringRefill t site li => Sys2Proof.Machine.execRingRefill t site li s
  | .creditReturn t buf => Sys2Proof.Machine.execCreditReturn t buf s
  | .cutEdgeWindowGrant t site li => Sys2Proof.Machine.execCutEdgeWindowGrant t site li s
  | .routerIngress t => Sys2Proof.Machine.execRouterIngress t s
  | .seRamRead t site => Sys2Proof.Machine.execSeRamRead t site s
  | .seRamWrite t site => Sys2Proof.Machine.execSeRamWrite t site s
  | .seFifoPass t site => Sys2Proof.Machine.execSeFifoPass t site s
  | .seLutLookup t site => Sys2Proof.Machine.execSeLutLookup t site s
  | .warpStoreSetup t site => Sys2Proof.Machine.execWarpStoreSetup t site s
  | .warpStoreFill t site => Sys2Proof.Machine.execWarpStoreFill t site s
  | .warpStoreRequest t site => Sys2Proof.Machine.execWarpStoreRequest t site s
  | .warpStoreMarker t site => Sys2Proof.Machine.execWarpStoreMarker t site s
  | .configTokenArrive t site => Sys2Proof.Machine.execConfigTokenArrive t site s
  | .siteSwap t site => Sys2Proof.Machine.execSiteSwap t site s
  | .planeDrained t => Sys2Proof.Machine.execPlaneDrained t s
  | .streamLoaderRead t vp => Sys2Proof.Machine.execStreamLoaderRead t vp s
  | .streamLoadInject t vp => Sys2Proof.Machine.execStreamLoadInject t vp s
  | .streamStore t vp => Sys2Proof.Machine.execStreamStore t vp s
  | .qwcFault h => Sys2Proof.Machine.execQwcFault h s
  | .watchdogFault h => Sys2Proof.Machine.execWatchdogFault h s
  | .mma t upsets => Sys2Proof.Machine.execMma t upsets s
  | .mmac t upsets => Sys2Proof.Machine.execMmac t upsets s
  | .bld t => Sys2Proof.Machine.execBld t s
  | .bswp t => Sys2Proof.Machine.execBswp t s
  | .drn t => Sys2Proof.Machine.execDrn t s
  | .clr t => Sys2Proof.Machine.execClr t s
  | .chk t => Sys2Proof.Machine.execChk t s
  | .matrixTokenComplete t => Sys2Proof.Machine.execMatrixTokenComplete t s
  | .rillVectorStart t => Sys2Proof.Machine.execRillVectorStart t s
  | .rillOutputInject t => Sys2Proof.Machine.execRillOutputInject t s
  | .rillMarker t => Sys2Proof.Machine.execRillMarker t s
  | .fireTokenEnqueue die src => Sys2Proof.Machine.execFireTokenEnqueue die src s
  | .copyFiringStart die slot => Sys2Proof.Machine.execCopyFiringStart die slot s
  | .copyMarker die slot => Sys2Proof.Machine.execCopyMarker die slot s
  | .copyReadIssue die slot piece => Sys2Proof.Machine.execCopyReadIssue die slot piece s
  | .copyPiecePerformed die slot piece => Sys2Proof.Machine.execCopyPiecePerformed die slot piece s
  | .barrierUpdate ix => Sys2Proof.Machine.execBarrierUpdate ix s
  | .copyFiringComplete die slot => Sys2Proof.Machine.execCopyFiringComplete die slot s
  | .copyFault die slot piece => Sys2Proof.Machine.execCopyFault die slot piece s
  | .copyKillDrained die slot => Sys2Proof.Machine.execCopyKillDrained die slot s
  | .sluicePictureStart die pic => Sys2Proof.Machine.execSluicePictureStart die pic s
  | .sluiceLeaf die lane leaf => Sys2Proof.Machine.execSluiceLeaf die lane leaf s
  | .sluicePictureEnd die lane used => Sys2Proof.Machine.execSluicePictureEnd die lane used s
  | .sluiceStreamEnd die lane => Sys2Proof.Machine.execSluiceStreamEnd die lane s
  | .sluiceSyntaxError die lane used area => Sys2Proof.Machine.execSluiceSyntaxError die lane used area s
  | .sluiceUnsupportedSkip die lane skip => Sys2Proof.Machine.execSluiceUnsupportedSkip die lane skip s
  | .laneFault die lane spout perm va => Sys2Proof.Machine.execLaneFault die lane spout perm va s
  | .spoutPictureStart die lane => Sys2Proof.Machine.execSpoutPictureStart die lane s
  | .spoutLeaf die lane whole => Sys2Proof.Machine.execSpoutLeaf die lane whole s
  | .spoutPictureComplete die lane merged skipped => Sys2Proof.Machine.execSpoutPictureComplete die lane merged skipped s
  | .spoutEnd die lane => Sys2Proof.Machine.execSpoutEnd die lane s
  | .floorLowMessage dom => Sys2Proof.Machine.execFloorLowMessage dom s
  | .lowAck dom die => Sys2Proof.Machine.execLowAck dom die s
  | .setfApply dom die => Sys2Proof.Machine.execSetfApply dom die s
  | .floorRoundStart dom => Sys2Proof.Machine.execFloorRoundStart dom s
  | .floorQuery dom die => Sys2Proof.Machine.execFloorQuery dom die s
  | .floorReply dom die => Sys2Proof.Machine.execFloorReply dom die s
  | .balanceRequest dom die other => Sys2Proof.Machine.execBalanceRequest dom die other s
  | .balanceAnswer dom die other => Sys2Proof.Machine.execBalanceAnswer dom die other s
  | .pipMoveArrive dom ix => Sys2Proof.Machine.execPipMoveArrive dom ix s
  | .terminationPass dom => Sys2Proof.Machine.execTerminationPass dom s
  | .spillRefill dom acc => Sys2Proof.Machine.execSpillRefill dom acc s
  | .notifyStore q head => Sys2Proof.Machine.execNotifyStore q head s
  | .scannerStep => Sys2Proof.Machine.execScannerStep s
  | .queueFetch die => Sys2Proof.Machine.execQueueFetch die s
  | .launch die => Sys2Proof.Machine.execLaunch die s
  | .regionPlace h => Sys2Proof.Machine.execRegionPlace h s
  | .bind die => Sys2Proof.Machine.execBind die s
  | .seed die => Sys2Proof.Machine.execSeed die s
  | .contract die => Sys2Proof.Machine.execContract die s
  | .preempt die => Sys2Proof.Machine.execPreempt die s
  | .abort die => Sys2Proof.Machine.execAbort die s
  | .replyResume die => Sys2Proof.Machine.execReplyResume die s
  | .replyAbort die => Sys2Proof.Machine.execReplyAbort die s
  | .checkpoint die => Sys2Proof.Machine.execCheckpoint die s
  | .checkpointDone fault => Sys2Proof.Machine.execCheckpointDone fault s
  | .paramAtbase die => Sys2Proof.Machine.execParamAtbase die s
  | .paramRemoteBound die => Sys2Proof.Machine.execParamRemoteBound die s
  | .paramPowerCap die => Sys2Proof.Machine.execParamPowerCap die s
  | .paramJournal die => Sys2Proof.Machine.execParamJournal die s
  | .regionRetire h => Sys2Proof.Machine.execRegionRetire h s
  | .savePoint h => Sys2Proof.Machine.execSavePoint h s
  | .regionRestore h => Sys2Proof.Machine.execRegionRestore h s
  | .contractPeriodStart h => Sys2Proof.Machine.execContractPeriodStart h s
  | .contractBudgetExhausted h => Sys2Proof.Machine.execContractBudgetExhausted h s
  | .homeAccessPerform id => Sys2Proof.Machine.execHomeAccessPerform id s
  | .atomicPerform id => Sys2Proof.Machine.execAtomicPerform id s
  | .memoryResponse id err => Sys2Proof.Machine.execMemoryResponse id err s
  | .storeAcknowledge id => Sys2Proof.Machine.execStoreAcknowledge id s
  | .remoteRequestLost id => Sys2Proof.Machine.execRemoteRequestLost id s
  | .translationWalk id cached => Sys2Proof.Machine.execTranslationWalk id cached s
  | .walkComplete id victim => Sys2Proof.Machine.execWalkComplete id victim s
  | .invalidationReceive id holder => Sys2Proof.Machine.execInvalidationReceive id holder s
  | .invalidationAck id holder => Sys2Proof.Machine.execInvalidationAck id holder s
  | .faultTokenRoute hop => Sys2Proof.Machine.execFaultTokenRoute hop s
  | .rootRequest die => Sys2Proof.Machine.execRootRequest die s
  | .configStoreEccError t what correctable => Sys2Proof.Machine.execConfigStoreEccError t what correctable s
  | .configStoreReloadDone t => Sys2Proof.Machine.execConfigStoreReloadDone t s
  | .counterClearStore pa => Sys2Proof.Machine.execCounterClearStore pa s
  | .claimRegisterStore head value => Sys2Proof.Machine.execClaimRegisterStore head value s
  | .featureNegotiation head value => Sys2Proof.Machine.execFeatureNegotiation head value s
  | .registerWrite head off value => Sys2Proof.Machine.execRegisterWrite head off value s
  | .hostMemoryRequest head pa data n => Sys2Proof.Machine.execHostMemoryRequest head pa data n s
  | .headLinkDown head => Sys2Proof.Machine.execHeadLinkDown head s
  | .headLinkUp head => Sys2Proof.Machine.execHeadLinkUp head s
  | .herranFlitReceive port flit => Sys2Proof.Machine.execHerranFlitReceive port flit s
  | .herranFlitReplay port flit => Sys2Proof.Machine.execHerranFlitReplay port flit s
  | .herranPortDown port => Sys2Proof.Machine.execHerranPortDown port s
  | .startup verified images => Sys2Proof.Machine.execStartup verified images s
  | .pldmSensors => Sys2Proof.Machine.execPldmSensors s
  | .pldmFirmwareUpdate image => Sys2Proof.Machine.execPldmFirmwareUpdate image s
  | .spdmGetMeasurements => Sys2Proof.Machine.execSpdmGetMeasurements s
  | .mgmtReset => Sys2Proof.Machine.execMgmtReset s
  | .mgmtRecovery => Sys2Proof.Machine.execMgmtRecovery s
  | .mgmtReadCounters block double => Sys2Proof.Machine.execMgmtReadCounters block double s
  | .mgmtSetPackageNumber n => Sys2Proof.Machine.execMgmtSetPackageNumber n s
  | .illegalInstruction t => Sys2Proof.Machine.execIllegalInstruction t s
  | .instructionFetchFault t => Sys2Proof.Machine.execInstructionFetchFault t s
  | .islandCycle island => Sys2Proof.Machine.execIslandCycle island s
  | .governorClockChange island mhz => Sys2Proof.Machine.execGovernorClockChange island mhz s
  | .planeSoftError t mac k n delta => Sys2Proof.Machine.execPlaneSoftError t mac k n delta s
  | .moveVisibleReport dom ix => Sys2Proof.Machine.execMoveVisibleReport dom ix s
  | .setfApplied dom => Sys2Proof.Machine.execSetfApplied dom s

end Sys2Proof.Machine
end

