-- ==== Sys2Proof/Machine/Hazards.lean ====
section
/-! DEFINITION. The registers that a word names, and the stall for one whose answer is on its way (R87, R117). -/

namespace Sys2Proof.Machine

open Sys2Proof

/-- The general registers that an instruction names as sources or destination. -/
def regsOf (i : Instr) : List Reg :=
  match i with
  | .add d a b => [d, a, b]
  | .sub d a b => [d, a, b]
  | .and d a b => [d, a, b]
  | .or d a b => [d, a, b]
  | .xor d a b => [d, a, b]
  | .andn d a b => [d, a, b]
  | .shl d a b => [d, a, b]
  | .shr d a b => [d, a, b]
  | .sra d a b => [d, a, b]
  | .rol d a b => [d, a, b]
  | .min d a b => [d, a, b]
  | .max d a b => [d, a, b]
  | .minn d a b => [d, a, b]
  | .maxn d a b => [d, a, b]
  | .seq d a b => [d, a, b]
  | .sne d a b => [d, a, b]
  | .slt d a b => [d, a, b]
  | .sltn d a b => [d, a, b]
  | .clz d a => [d, a]
  | .ctz d a => [d, a]
  | .popc d a => [d, a]
  | .mul d a b => [d, a, b]
  | .mulh d a b => [d, a, b]
  | .mulhn d a b => [d, a, b]
  | .div d a b => [d, a, b]
  | .divn d a b => [d, a, b]
  | .rem d a b => [d, a, b]
  | .remn d a b => [d, a, b]
  | .jalr d a => [d, a]
  | .shli d a _ => [d, a]
  | .shri d a _ => [d, a]
  | .srai d a _ => [d, a]
  | .addi d a _ => [d, a]
  | .andi d a _ => [d, a]
  | .ori d a _ => [d, a]
  | .xori d a _ => [d, a]
  | .slti d a _ => [d, a]
  | .lui d _ => [d]
  | .addpc d _ => [d]
  | .loopi d _ => [d]
  | .beq a b _ => [a, b]
  | .bne a b _ => [a, b]
  | .blt a b _ => [a, b]
  | .bge a b _ => [a, b]
  | .bltn a b _ => [a, b]
  | .bgen a b _ => [a, b]
  | .ldB d a _ => [d, a]
  | .ldH d a _ => [d, a]
  | .ldW d a _ => [d, a]
  | .ldD d a _ => [d, a]
  | .ldBn d a _ => [d, a]
  | .ldHn d a _ => [d, a]
  | .ldWn d a _ => [d, a]
  | .stB d a _ => [d, a]
  | .stH d a _ => [d, a]
  | .stW d a _ => [d, a]
  | .stD d a _ => [d, a]
  | .ldsB d a _ => [d, a]
  | .ldsH d a _ => [d, a]
  | .ldsW d a _ => [d, a]
  | .ldsD d a _ => [d, a]
  | .ldsBn d a _ => [d, a]
  | .ldsHn d a _ => [d, a]
  | .ldsWn d a _ => [d, a]
  | .stsB d a _ => [d, a]
  | .stsH d a _ => [d, a]
  | .stsW d a _ => [d, a]
  | .stsD d a _ => [d, a]
  | .pref _ a _ => [a]
  | .tlook d a => [d, a]
  | .tins d a b => [d, a, b]
  | .tinv d a => [d, a]
  | .amoAdd d a b _ => [d, a, b]
  | .amoAnd d a b _ => [d, a, b]
  | .amoOr d a b _ => [d, a, b]
  | .amoXor d a b _ => [d, a, b]
  | .amoMin d a b _ => [d, a, b]
  | .amoMax d a b _ => [d, a, b]
  | .amoMinn d a b _ => [d, a, b]
  | .amoMaxn d a b _ => [d, a, b]
  | .amoSwp d a b _ => [d, a, b]
  | .amoFadd d a b => [d, a, b]
  | .casW d a b => [d, a, b]
  | .casD d a b => [d, a, b]
  | .woclr d a b => [d, a, b]
  | .wotest d a => [d, a]
  | .cfgld d a => [d, a]
  | .cfgwaitLd d => [d]
  | .cfgwaitGo d => [d]
  | .cfgsigA d => [d]
  | .cfgsigSh d => [d]
  | .cfgsave d a => [d, a]
  | .cfgrest d a => [d, a]
  | .strm d a _ => [d, a]
  | .pws a b _ => [a, b]
  | .pwv a b _ => [a, b]
  | .prd d a _ => [d, a]
  | .mki a _ => [a]
  | .drain d => [d]
  | .pstat d b _ => [d, b]
  | .accrd d a _ => [d, a]
  | .bktokTake d a => [d, a]
  | .bktokGive d a => [d, a]
  | .bktokQuery d a => [d, a]
  | .mtok d a _ => [d, a]
  | .mbld d a b => [d, a, b]
  | .mstat d _ => [d]
  | .rload d a _ => [d, a]
  | .rsel d a _ => [d, a]
  | .rstat d _ => [d]
  | .rfree d _ => [d]
  | .cparm d a _ => [d, a]
  | .cpfire d a b => [d, a, b]
  | .cpstat d a _ => [d, a]
  | .cpres d _ => [d]
  | .cpkill d _ => [d]
  | .tbinit d a b _ => [d, a, b]
  | .tbarr d a b _ => [d, a, b]
  | .tbexp d a b _ => [d, a, b]
  | .tbwait d a b _ => [d, a, b]
  | .tbtest d a _ => [d, a]
  | .slbind d a _ => [d, a]
  | .slstat d a _ => [d, a]
  | .slrel d _ => [d]
  | .warpset d a => [d, a]
  | .spbind d a _ => [d, a]
  | .sphdr d a _ => [d, a]
  | .spstat d a _ => [d, a]
  | .wpush d a _ => [d, a]
  | .wpop d a _ => [d, a]
  | .wtry d a _ => [d, a]
  | .wdone d b _ => [d, b]
  | .wdoneF d b _ => [d, b]
  | .wpromo d a b => [d, a, b]
  | .wfloor d => [d]
  | .wfloorR d => [d]
  | .wdomJoin d a => [d, a]
  | .wdomLeave d => [d]
  | .wdomQuery d => [d]
  | .wstat d a => [d, a]
  | .wdrain d _ => [d]
  | .gjoin d a => [d, a]
  | .gleave d => [d]
  | .gbar d _ => [d]
  | .gsize d => [d]
  | .segend d => [d]
  | .park d a => [d, a]
  | .ctract d _ => [d]
  | .trap a => [a]
  | .sysc d a => [d, a]
  | .invr a b => [a, b]
  | .inva a => [a]
  | .csrr d _ => [d]
  | .csrw d a _ => [d, a]
  | .csrs d a _ => [d, a]
  | .csrc d a _ => [d, a]
  | .jal _ => [31]
  | _ => []

/-- The registers that a word needs on its core: a root core's ERET reads g1, the answer it gives (R375). -/
def regsNeeded (root : Bool) (i : Instr) : List Reg := match i with
  | .eret => if root then [1] else []
  | i => regsOf i

/-- A register that the word names has a request on its way: the word stalls (R87, R117). -/
def State.stalls (s : State) (t : Nat) (i : Instr) : Bool :=
  s.reqs.any fun q => q.agent == .ctx t && match q.reg with
    | some d => d != 0 && (regsNeeded ((s.ctxAt t).any fun c => c.isRoot) i).contains d
    | none => false

end Sys2Proof.Machine
end

