-- ==== Sys2Proof/Machine/Turns.lean ====
section
/-! DEFINITION. The turn of a sequencer context: a word that waits tests its condition again; otherwise a pending asynchronous trap is
taken, or the next word is fetched, decoded and run (R32, R44, R87, R357). -/

namespace Sys2Proof.Machine

open Sys2Proof

/-- The word that was fetched: it issues, or stalls for a register, or is none. -/
def runFetched (s : State) (t : Nat) (c : Ctx) (w : W32) : Out :=
  match decode w with
  | .error _ => execIllegalInstruction s.cur (s.setCtx t { c with wait := .idle })
  | .ok i =>
    if s.stalls t i then .next (s.setCtx t { c with wait := .idle })
    else exec i (s.setCtx t { c with wait := .idle, word := w })

/-- The address of the next word is not in the translation cache (R115): a walk is asked for once. -/
def fetchMiss (s : State) (t : Nat) (c : Ctx) : Out :=
  let start := (s.startWalk t c.fetchAsid c.pc .fetch false).setCtx t { c with wait := .fetch s.nextId }
  .next (match c.wait with
    | .fetch id => if s.walks.any (fun w => w.id == id) then s else start
    | _ => start)

/-- An asynchronous trap is taken before the next word (R357). -/
def Ctx.trapsNow (c : Ctx) : Bool := !c.lvl && c.ord.isNone && !c.pend.isEmpty

/-- The next word of the context of tile `t`. -/
def newWord (s : State) (t : Nat) (c : Ctx) : Out :=
  if c.trapsNow then execAsyncTrap s.cur s
  else match s.fetch t c with
    | .trap _ => execInstructionFetchFault s.cur s
    | .miss => fetchMiss s t c
    | .word w => runFetched s t c w

/-- The turn of the context of tile `cur`. -/
def wordTurn (s : State) : Out :=
  match s.curCtx with
  | none => .next s
  | some c =>
    if !s.canIssue s.cur.toNat c then .next s
    else if c.wait = .redo then .next (s.reissue s.cur.toNat c)
    else if c.waits then match decode c.word with
      | .ok i => exec i s
      | .error _ => .next s
    else newWord s s.cur.toNat c

/-- Instructions that are steps of another agent, not words of a context: those without an encoding. -/
def isEvent (i : Instr) : Bool := (fieldsOf i).op == 0

/-- One turn of the agenda (log 1). -/
def takeTurn (s : State) : Turn → Out
  | .word t => wordTurn { s with cur := t }
  | .event i => if isEvent i then exec i s else .next s

/-! ### The first instruction of a test -/

/-- The page that a placed word stands on. -/
def placedPage (c : Ctx) : TlbEnt :=
  ⟨c.asid, c.pc.toNat / 4096 * 4096, 4096, 0x100000, .normal, false, true, true, true⟩

/-- The context of tile 0 ready to fetch: at the image level, between words. -/
def Ctx.ready (c : Ctx) : Ctx :=
  { c with pc := wordAddr c.pc &&& 0x01FFFFFFFFFFFFFF#64, lvl := false, halted := false, isRoot := false, wait := .idle, ord := none, pend := [], awaiting := false }

/-- A region of one tile. -/
def oneTile (c : Ctx) : Region :=
  { st := .running, queue := 0, tag := 0, lprio := 0, qprio := 0, ordn := 0, asid := c.asid, dies := 1, image := 0, lp := 0, recVa := 0
    saveVa := 0, live := 0, w := 1, h := 1 }

/-- The state with a word where tile 0's context fetches next (log 8): the program is loaded from outside. -/
def State.place (s : State) (w : W32) : State :=
  let c := ((s.ctxAt 0).getD { rpos := rposWord 1 1 0 }).ready
  let h := if (s.tile 0).region = 0 then 1 else (s.tile 0).region
  let s := { (s.setCtx 0 c).updTile 0 (fun x => { x with region := h, tlb := placedPage c :: x.tlb }) with
    agenda := [], cur := 0, reqs := s.reqs.filter fun q => q.agent != Agent.ctx 0
    mem := s.mem.putBytes (0x100000 + c.pc.toNat % 4096) (bytesOfWord w) }
  s.setRegion h { (s.region? h).getD (oneTile c) with code := [], mem0 := s.mem }

end Sys2Proof.Machine
end

