-- ==== Sys2Proof/Machine/Step.lean ====
section
/-! DEFINITION. One step: the next turn of the agenda, or the context whose turn it is where the agenda is empty (log 1). -/

namespace Sys2Proof.Machine

open Sys2Proof

/-- One step of the machine. -/
def step (s : State) : Host.Outcome State Fault Refusal :=
  match s.agenda with
  | [] => wordTurn s
  | x :: rest => takeTurn { s with agenda := rest } x

/-- The state with an instruction stored where `step` fetches next; every row with an encoding is one word of 32 bits. -/
def State.withFetchWord (s : State) (_nbits w : Nat) : State := s.place (BitVec.ofNat 32 w)

end Sys2Proof.Machine
end

