-- ==== Sys2Proof/Safety.lean ====
section
/-! DEFINITION. What counts as a safe run: one in which no step stops; the invariants of the machine; and the forms in which claims say
what an instruction does. -/

namespace Sys2Proof

open Sys2Proof.Machine

/-- The run of `n` steps from `s` stops at no fault and no refusal. -/
def SafeFor (n : Nat) (s : State) : Prop := ∃ t, core.run n s = .next t

/-- Every run from `s` goes on. -/
def Safe (s : State) : Prop := ∀ n, SafeFor n s

/-- The invariant of memory: generic memory stands in its canonical form. -/
def MemInv (s : State) : Prop := Memory.wf s.mem

/-! ### Forms of claims -/

/-- Context `c` is the one whose turn it is, it has not stopped, and the word `i` is legal for it, at its level and behind its ORD
(R37, R40, R44, R375). -/
def Runs (s : State) (i : Instr) (c : Ctx) : Prop :=
  s.curCtx = some c ∧ c.halted = false ∧ ordOk c.ord i = true ∧ c.allows i = true

/-- The word `i`, run under `p`, takes the machine to `f`. -/
def Does (i : Instr) (p : State → Ctx → Prop) (f : State → Ctx → State) : Prop :=
  ∀ s c, Runs s i c → p s c → exec i s = .next (f s c)

/-- The word `i` writes `v` to register `d`, completes, and changes nothing else, whatever the state. -/
def Writes (i : Instr) (d : Reg) (v : Ctx → W64) : Prop :=
  Does i (fun _ _ => True) fun s c => s.setCtx s.cur.toNat (c.w d (v c)).next

/-- The word `i`, run under `p`, writes `v` to register `d`, completes, and changes nothing else. -/
def Answers (i : Instr) (d : Reg) (p : State → Ctx → Prop) (v : State → Ctx → W64) : Prop :=
  Does i p fun s c => s.setCtx s.cur.toNat (c.w d (v s c)).next

/-- The word `i`, run under `p`, takes the synchronous trap of a code and sub-code with a value of csr.tval (R357, R358). -/
def Traps (i : Instr) (p : State → Ctx → Prop) (code sub : Nat) (tval : Ctx → W64) : Prop :=
  Does i p fun s c => s.trap c code sub (tval c)

/-- The step `i` of another agent, taken under `p`, takes the machine to `f`. -/
def Steps (i : Instr) (p : State → Prop) (f : State → State) : Prop := ∀ s, p s → exec i s = .next (f s)

/-- The word `i`, run under `p`, answers a next state for which `q` holds. -/
def Goes (i : Instr) (p : State → Ctx → Prop) (q : State → Ctx → State → Prop) : Prop :=
  ∀ s c, Runs s i c → p s c → ∃ t, exec i s = .next t ∧ q s c t

/-- The step `i` of another agent, taken under `p`, answers a next state for which `q` holds. -/
def Makes (i : Instr) (p : State → Prop) (q : State → State → Prop) : Prop := ∀ s, p s → ∃ t, exec i s = .next t ∧ q s t

/-- The word of the context is not waiting for the answer of a request of its own. -/
def Fresh (c : Ctx) : Prop := ∀ id, c.wait ≠ .access id

/-- A release at the scope of the word's ORD may pass (R136). -/
def MayRelease (s : State) (c : Ctx) : Prop := s.released s.cur.toNat c.scope = true

/-- The word sends the request `q`; it waits for the answer, or goes on at once (R117, R136). -/
def sends (s : State) (c : Ctx) (q : Req) (waits : Bool) : State :=
  { s with
    reqs := s.reqs ++ [{ q with id := s.nextId, acked := waits, ordered := BitVec.ofNat 3 c.order }]
    nextId := s.nextId + 1 }.setCtx s.cur.toNat (if waits then { c with wait := .access s.nextId } else c.next)

end Sys2Proof
end

