-- ==== Sys2Proof/Certificates/Slice0/Obligations.lean ====
section
/-! DEFINITION. The statements for the provers. The forms `Does`, `Writes`, `Answers`, `Traps` and `Steps` stand in Sys2Proof.Safety: each
says of an instruction that `exec` answers the next state given, for every state that meets the condition. Where a statement gives the
whole next state, everything it does not name is unchanged. -/

open Sys2Proof Sys2Proof.Machine

/-! ### Scalar words -/

/-- R89, R91: what each register operation writes to g(d); nothing else changes but the advance of the program counter. -/
def Obligations.ScalarResults : Prop := ∀ (d a b : Reg) (n : BitVec 6),
  Writes (.add d a b) d (fun c => c.r a + c.r b)
  ∧ Writes (.sub d a b) d (fun c => c.r a - c.r b)
  ∧ Writes (.and d a b) d (fun c => c.r a &&& c.r b)
  ∧ Writes (.or d a b) d (fun c => c.r a ||| c.r b)
  ∧ Writes (.xor d a b) d (fun c => c.r a ^^^ c.r b)
  ∧ Writes (.andn d a b) d (fun c => c.r a &&& ~~~ c.r b)
  ∧ Writes (.shl d a b) d (fun c => c.r a <<< ((c.r b).toNat % 64))
  ∧ Writes (.shr d a b) d (fun c => c.r a >>> ((c.r b).toNat % 64))
  ∧ Writes (.sra d a b) d (fun c => (c.r a).sshiftRight ((c.r b).toNat % 64))
  ∧ Writes (.rol d a b) d (fun c => (c.r a).rotateLeft ((c.r b).toNat % 64))
  ∧ Writes (.min d a b) d (fun c => if (c.r b).toInt < (c.r a).toInt then c.r b else c.r a)
  ∧ Writes (.max d a b) d (fun c => if (c.r a).toInt < (c.r b).toInt then c.r b else c.r a)
  ∧ Writes (.minn d a b) d (fun c => if (c.r b).toNat < (c.r a).toNat then c.r b else c.r a)
  ∧ Writes (.maxn d a b) d (fun c => if (c.r a).toNat < (c.r b).toNat then c.r b else c.r a)
  ∧ Writes (.seq d a b) d (fun c => if c.r a = c.r b then 1 else 0)
  ∧ Writes (.sne d a b) d (fun c => if c.r a = c.r b then 0 else 1)
  ∧ Writes (.slt d a b) d (fun c => if (c.r a).toInt < (c.r b).toInt then 1 else 0)
  ∧ Writes (.sltn d a b) d (fun c => if (c.r a).toNat < (c.r b).toNat then 1 else 0)
  ∧ Writes (.clz d a) d (fun c => if c.r a = 0 then 64 else BitVec.ofNat 64 (63 - (c.r a).toNat.log2))
  ∧ Writes (.ctz d a) d (fun c => BitVec.ofNat 64 (((List.range 64).find? fun i => (c.r a).getLsbD i).getD 64))
  ∧ Writes (.popc d a) d (fun c => BitVec.ofNat 64 ((List.range 64).countP fun i => (c.r a).getLsbD i))
  ∧ Writes (.mul d a b) d (fun c => c.r a * c.r b)
  ∧ Writes (.mulh d a b) d (fun c => BitVec.ofInt 64 ((c.r a).toInt * (c.r b).toInt / 2 ^ 64))
  ∧ Writes (.mulhn d a b) d (fun c => BitVec.ofNat 64 ((c.r a).toNat * (c.r b).toNat / 2 ^ 64))
  ∧ Writes (.shli d a n) d (fun c => c.r a <<< n.toNat)
  ∧ Writes (.shri d a n) d (fun c => c.r a >>> n.toNat)
  ∧ Writes (.srai d a n) d (fun c => (c.r a).sshiftRight n.toNat)

/-- R90: the divide family, with the row g(b) = 0 and the row of the most negative dividend over -1. -/
def Obligations.DivideFamily : Prop := ∀ (d a b : Reg),
  Writes (.div d a b) d (fun c => if c.r b = 0 then 0xFFFFFFFFFFFFFFFF
    else if (c.r a).toInt = -2 ^ 63 ∧ (c.r b).toInt = -1 then 0x8000000000000000
    else BitVec.ofInt 64 ((c.r a).toInt.tdiv (c.r b).toInt))
  ∧ Writes (.rem d a b) d (fun c => if c.r b = 0 then c.r a
    else if (c.r a).toInt = -2 ^ 63 ∧ (c.r b).toInt = -1 then 0
    else BitVec.ofInt 64 ((c.r a).toInt - (c.r b).toInt * (c.r a).toInt.tdiv (c.r b).toInt))
  ∧ Writes (.divn d a b) d (fun c => if c.r b = 0 then 0xFFFFFFFFFFFFFFFF else BitVec.ofNat 64 ((c.r a).toNat / (c.r b).toNat))
  ∧ Writes (.remn d a b) d (fun c => if c.r b = 0 then c.r a
    else BitVec.ofNat 64 ((c.r a).toNat - (c.r b).toNat * ((c.r a).toNat / (c.r b).toNat)))

/-- R92, R93: the immediate forms, each with the extension its major fixes. -/
def Obligations.ImmediateResults : Prop := ∀ (d a : Reg) (i : BitVec 16),
  Writes (.addi d a i) d (fun c => c.r a + i.signExtend 64)
  ∧ Writes (.andi d a i) d (fun c => c.r a &&& i.setWidth 64)
  ∧ Writes (.ori d a i) d (fun c => c.r a ||| i.setWidth 64)
  ∧ Writes (.xori d a i) d (fun c => c.r a ^^^ i.setWidth 64)
  ∧ Writes (.slti d a i) d (fun c => if (c.r a).toInt < i.toInt then 1 else 0)
  ∧ Writes (.lui d i) d (fun _ => i.signExtend 64 <<< 16)
  ∧ Writes (.addpc d i) d (fun c => c.pc + (i.signExtend 64 <<< 16))

/-- R94 to R96, R99: a B-form branch and J go to their own address plus four times the displacement and pop the loops they leave; a
branch not taken completes; JAL and JALR write the link and pop no loop; a misaligned JALR traps with csr.tval = g(a), without link
and jump. -/
def Obligations.BranchesAndJumps : Prop := ∀ (a b d : Reg) (o : BitVec 16) (p : BitVec 26),
  let br (i : Instr) (taken : Ctx → Bool) : Prop :=
    Does i (fun _ c => taken c = true) (fun s c => s.setCtx s.cur.toNat (c.branch (c.pc + 4 * o.signExtend 64)))
    ∧ Does i (fun _ c => taken c = false) (fun s c => s.setCtx s.cur.toNat c.next)
  br (.beq a b o) (fun c => c.r a = c.r b)
  ∧ br (.bne a b o) (fun c => c.r a ≠ c.r b)
  ∧ br (.blt a b o) (fun c => (c.r a).toInt < (c.r b).toInt)
  ∧ br (.bge a b o) (fun c => (c.r b).toInt ≤ (c.r a).toInt)
  ∧ br (.bltn a b o) (fun c => (c.r a).toNat < (c.r b).toNat)
  ∧ br (.bgen a b o) (fun c => (c.r b).toNat ≤ (c.r a).toNat)
  ∧ Does (.j p) (fun _ _ => True) (fun s c => s.setCtx s.cur.toNat (c.branch (c.pc + 4 * p.signExtend 64)))
  ∧ Does (.jal p) (fun _ _ => True) (fun s c => s.setCtx s.cur.toNat ((c.w 31 (c.pc + 4)).jump (c.pc + 4 * p.signExtend 64)))
  ∧ Does (.jalr d a) (fun _ c => (c.r a).toNat % 4 = 0) (fun s c => s.setCtx s.cur.toNat ((c.w d (c.pc + 4)).jump (c.r a)))
  ∧ Traps (.jalr d a) (fun _ c => (c.r a).toNat % 4 ≠ 0) 2 0 (fun c => c.r a)

/-- R97 to R100, R359: LOOPI skips a body of no passes, pushes its entry where the stack has room and the entry nests, and otherwise takes the
capacity trap with sub-code 1, 2 or 3; a word that completes at the end of the innermost loop goes back while passes remain, and pops the entry
with the last one; elsewhere the program counter goes on by 4; the check reaches an outer entry that ends at the same address. That the address
gone back to has its low two bits dropped is the model's reading (log 19). -/
def Obligations.HardwareLoops : Prop := ∀ (d : Reg) (l : BitVec 16) (c : Ctx) (e f : LoopEnt) (es : List LoopEnt),
  let first (c : Ctx) : W64 := c.pc + 4
  let last (c : Ctx) : W64 := c.pc + 4 * l.setWidth 64
  let fits (c : Ctx) : Prop := match c.stack with
    | [] => True
    | [e] => (last c).toNat ≤ e.last.toNat ∧ e.beg.toNat ≤ (first c).toNat
    | _ => False
  Does (.loopi d l) (fun _ c => c.r d = 0) (fun s c => s.setCtx s.cur.toNat (c.jump (last c + 4)))
  ∧ Does (.loopi d l) (fun _ c => c.r d ≠ 0 ∧ (c.r d).toNat < 2 ^ 32 ∧ fits c) (fun s c =>
      s.setCtx s.cur.toNat ((c.setStack (⟨(c.r d).setWidth 32, first c, last c⟩ :: c.stack)).jump (first c)))
  ∧ Traps (.loopi d l) (fun _ c => 2 ^ 32 ≤ (c.r d).toNat) 6 1 (fun c => c.r d)
  ∧ Traps (.loopi d l) (fun _ c => c.r d ≠ 0 ∧ (c.r d).toNat < 2 ^ 32 ∧ 2 ≤ c.stack.length) 6 2 (fun _ => 0)
  ∧ Traps (.loopi d l) (fun _ c => c.r d ≠ 0 ∧ (c.r d).toNat < 2 ^ 32 ∧ c.stack.length = 1 ∧ ¬ fits c) 6 3 first
  ∧ (c.lvl = true → c.stack = e :: es → e.last ≠ c.pc → c.next.pc = c.pc + 4 ∧ c.next.stack = c.stack)
  ∧ (c.lvl = true → c.stack = e :: es → e.last = c.pc → 1 < e.cnt.toNat →
      c.next.pc = wordAddr e.beg ∧ c.next.stack = { e with cnt := e.cnt - 1 } :: es)
  ∧ (c.lvl = false → c.ldep = 1 → c.l0.last = c.pc → 1 < c.l0.cnt.toNat →
      c.next.pc = wordAddr c.l0.beg ∧ c.next.l0.cnt = c.l0.cnt - 1 ∧ c.next.ldep = 1)
  ∧ (c.lvl = false → c.ldep = 1 → c.l0.last = c.pc → c.l0.cnt.toNat ≤ 1 → c.next.pc = c.pc + 4 ∧ c.next.ldep = 0)
  ∧ (c.lvl = false → c.ldep = 2 → c.l1.last = c.pc → c.l1.cnt.toNat ≤ 1 → c.l0.last = c.pc → 1 < c.l0.cnt.toNat →
      c.next.pc = wordAddr c.l0.beg ∧ c.next.l0.cnt = c.l0.cnt - 1 ∧ c.next.ldep = 1)
  ∧ (c.stack = [] → c.next.pc = c.pc + 4)
  ∧ (c.lvl = true → c.stack = [e, f] → e.last = c.pc → e.cnt.toNat ≤ 1 → f.last ≠ c.pc → c.next.pc = c.pc + 4 ∧ c.next.stack = [f])

/-- R84, R85, R101: CSRR writes the CSR to g(d); CSRW, CSRS and CSRC write the CSR in one step with the read of its old value; a
number that the level does not allow is illegal. -/
def Obligations.CsrAccess : Prop := ∀ (d a : Reg) (n : BitVec 12),
  let ok (_ : State) (c : Ctx) : Prop := csrWritable c.lvl n = true
  let wr (f : State → Ctx → W64) (s : State) (c : Ctx) : State :=
    s.setCtx s.cur.toNat ((csrPut c n (f s c)).w d (csrGet s s.cur.toNat c n)).next
  let ill (i : Instr) (p : Ctx → Prop) : Prop := Does i (fun _ c => p c) (fun s c => s.illegal c (encode i))
  Answers (.csrr d n) d (fun _ c => csrReadable c.lvl n = true) (fun s c => csrGet s s.cur.toNat c n)
  ∧ Does (.csrw d a n) ok (wr fun _ c => c.r a)
  ∧ Does (.csrs d a n) ok (wr fun s c => csrGet s s.cur.toNat c n ||| c.r a)
  ∧ Does (.csrc d a n) ok (wr fun s c => csrGet s s.cur.toNat c n &&& ~~~ c.r a)
  ∧ ill (.csrr d n) (fun c => csrReadable c.lvl n = false)
  ∧ ill (.csrw d a n) (fun c => csrWritable c.lvl n = false)
  ∧ ill (.csrs d a n) (fun c => csrWritable c.lvl n = false)
  ∧ ill (.csrc d a n) (fun c => csrWritable c.lvl n = false)

/-- R84, R85: what CSR writes keep: the level, bits outside the named fields, and csr.ldep where the value is 3. -/
def Obligations.CsrFields : Prop := ∀ (s : State) (t : Nat) (c : Ctx) (n : BitVec 12) (v : W64),
  (csrPut c n v).lvl = c.lvl
  ∧ (csrPut c 0x044#12 v).plvl = v.getLsbD 1 ∧ (n ≠ 0x044#12 → (csrPut c n v).plvl = c.plvl)
  ∧ (v.toNat % 4 = 3 → csrPut c 0x020#12 v = c)
  ∧ (v.toNat % 4 ≠ 3 → csrGet s t (csrPut c 0x020#12 v) 0x020#12 = v &&& 3)
  ∧ csrGet s t (csrPut c 0x030#12 v) 0x030#12 = v &&& 0xFFFF
  ∧ csrGet s t (csrPut c 0x040#12 v) 0x040#12 = v &&& 0xFFFFFFFFFFFFFFFC
  ∧ csrGet s t (csrPut c 0x041#12 v) 0x041#12 = v &&& 0xFFFF
  ∧ csrGet s t (csrPut c 0x042#12 v) 0x042#12 = v
  ∧ csrGet s t (csrPut c 0x043#12 v) 0x043#12 = v &&& 0xFFFFFFFFFFFFFFFC
  ∧ csrGet s t (csrPut c 0x045#12 v) 0x045#12 = v
  ∧ csrGet s t (csrPut c 0x050#12 v) 0x050#12 = v &&& 0xFFFFFFFF
  ∧ csrGet s t (csrPut c 0x051#12 v) 0x051#12 = v &&& 0xFFFFFFFF

/-- R30, R82: g0 reads zero, a write to it is discarded, and a write to another register changes that one alone. -/
def Obligations.RegisterZero : Prop := ∀ (c : Ctx) (x y : Reg) (v : W64),
  c.r 0 = 0 ∧ c.w 0 v = c ∧ (x ≠ 0 → (c.w x v).r x = v) ∧ (y ≠ x → (c.w x v).r y = c.r y)
    ∧ (c.w x v).pc = c.pc ∧ { c.w x v with g := c.g } = c

/-- The frame of the words that only write a register (those of which `Writes` is stated): every other register, every CSR that the advance of the program counter does
not use, every other context, all of memory and every other part of the machine stay. -/
def Obligations.RegisterWordFrame : Prop := ∀ (s : State) (c : Ctx) (i : Instr) (d : Reg) (v : Ctx → W64),
  Writes i d v → Runs s i c → ∃ s' c', exec i s = .next s' ∧ s'.ctxAt s.cur.toNat = some c'
    ∧ (∀ x, x ≠ d → c'.r x = c.r x)
    ∧ c'.asid = c.asid ∧ c'.lvl = c.lvl ∧ c'.plvl = c.plvl ∧ c'.epc = c.epc ∧ c'.tcause = c.tcause ∧ c'.tval = c.tval
    ∧ c'.tvec = c.tvec ∧ c'.mscr = c.mscr ∧ c'.qwc = c.qwc ∧ c'.wdog = c.wdog ∧ c'.rpos = c.rpos ∧ c'.tags = c.tags
    ∧ c'.holds = c.holds ∧ c'.group = c.group ∧ c'.pend = c.pend
    ∧ (∀ u, u ≠ s.cur.toNat → s'.ctxAt u = s.ctxAt u)
    ∧ (∀ a, s'.mem.get a = s.mem.get a)
    ∧ { s' with ctxs := s.ctxs } = s

/-! ### Memory words -/

/-- R115 to R117, R133: a load whose checks pass sends a read of its bytes for its register, waiting for the answer under an ORD that
acquires and on a device page; it completes once the answer has come. -/
def Obligations.LoadsIssue : Prop := ∀ (d a : Reg) (o : BitVec 12),
  let ld (i : Instr) (n : Nat) (signed : Bool) : Prop :=
    (∀ e, Does i (fun s c => Fresh c ∧ checkAccess s s.cur.toNat c.asid (c.r a + o.signExtend 64) n .load false = .ok e
        ∧ (c.order = 4 → MayRelease s c) ∧ s.loadsOut s.cur.toNat < 16) (fun s c =>
      let va := c.r a + o.signExtend 64
      sends s c { mkReq s s.cur.toNat .read e va n with reg := some d, signed := signed } (c.order = 1 || c.order = 3 || c.order = 4 || e.kind == .device)))
    ∧ (∀ id, Does i (fun s c => c.wait = .access id ∧ ∀ q ∈ s.reqs, q.id ≠ id) (fun s c => s.setCtx s.cur.toNat c.next))
  ld (.ldB d a o) 1 true ∧ ld (.ldH d a o) 2 true ∧ ld (.ldW d a o) 4 true ∧ ld (.ldD d a o) 8 false
  ∧ ld (.ldBn d a o) 1 false ∧ ld (.ldHn d a o) 2 false ∧ ld (.ldWn d a o) 4 false

/-- R115 to R117, R133: a store whose checks pass sends the low bytes of g(d) to its address; on a normal page it is posted and the
word goes on, on a page of another kind and under the order code 4, which asks for everything, it waits for the acknowledgement. -/
def Obligations.StoresIssue : Prop := ∀ (d a : Reg) (o : BitVec 12),
  let st (i : Instr) (n : Nat) : Prop :=
    (∀ e, Does i (fun s c => Fresh c ∧ checkAccess s s.cur.toNat c.asid (c.r a + o.signExtend 64) n .store (n = 8) = .ok e
        ∧ (c.order = 2 ∨ c.order = 3 ∨ c.order = 4 → MayRelease s c) ∧ s.storesOut s.cur.toNat < 32) (fun s c =>
      let va := c.r a + o.signExtend 64
      sends s c { mkReq s s.cur.toNat .write e va n with dat := leBytes n (c.r d).toNat } (e.kind != .normal || c.order = 4)))
    ∧ (∀ id, Does i (fun s c => c.wait = .access id ∧ ∀ q ∈ s.reqs, q.id ≠ id) (fun s c => s.setCtx s.cur.toNat c.next))
  st (.stB d a o) 1 ∧ st (.stH d a o) 2 ∧ st (.stW d a o) 4 ∧ st (.stD d a o) 8

/-- R120, R121, R123: LDS reads bytes of the tile's SEs and STS writes them, each taking the island cycle's turn of the sequencer at its bank
behind the fabric; misaligned, out of range or in a claimed bank they trap, and nothing is read or written. -/
def Obligations.LocalSpace : Prop := ∀ (d a : Reg) (o : BitVec 12),
  let va (c : Ctx) : W64 := c.r a + o.signExtend 64
  let free (s : State) (c : Ctx) (n : Nat) : Prop := ∀ k < n, (s.tile s.cur.toNat).seAvailable ((va c).toNat + k) = true
  let ok (s : State) (c : Ctx) (n : Nat) : Prop := (va c).toNat % n = 0 ∧ (va c).toNat < 2 ^ 20 ∧ free s c n
  let faults (i : Instr) (n : Nat) : Prop :=
    Traps i (fun _ c => (va c).toNat % n ≠ 0) 2 0 va
    ∧ Traps i (fun _ c => (va c).toNat % n = 0 ∧ 2 ^ 20 ≤ (va c).toNat) 3 0 va
    ∧ Traps i (fun s c => (va c).toNat % n = 0 ∧ (va c).toNat < 2 ^ 20 ∧ ¬ free s c n) 4 0 va
  let ld (i : Instr) (n : Nat) (signed : Bool) : Prop :=
    Does i (fun s c => ok s c n ∧ (c.order = 4 → MayRelease s c)) (fun s c =>
      (s.setTile s.cur.toNat ((s.tile s.cur.toNat).seqAccess (va c).toNat)).setCtx s.cur.toNat
        (c.w d (extend signed n ((s.tile s.cur.toNat).seBytes (va c).toNat n))).next) ∧ faults i n
  let st (i : Instr) (n : Nat) : Prop :=
    Does i (fun s c => ok s c n ∧ (c.order = 2 ∨ c.order = 3 ∨ c.order = 4 → MayRelease s c)) (fun s c =>
      (s.setTile s.cur.toNat (((s.tile s.cur.toNat).seqAccess (va c).toNat).seWrite (va c).toNat (leBytes n (c.r d).toNat))).setCtx s.cur.toNat c.next)
    ∧ faults i n
  ld (.ldsB d a o) 1 true ∧ ld (.ldsH d a o) 2 true ∧ ld (.ldsW d a o) 4 true ∧ ld (.ldsD d a o) 8 false
  ∧ ld (.ldsBn d a o) 1 false ∧ ld (.ldsHn d a o) 2 false ∧ ld (.ldsWn d a o) 4 false
  ∧ st (.stsB d a o) 1 ∧ st (.stsH d a o) 2 ∧ st (.stsW d a o) 4 ∧ st (.stsD d a o) 8

/-- R115, R138: the order of the checks of an access: alignment, the address's high bits, the page's permissions. -/
def Obligations.AccessTraps : Prop := ∀ (d a b : Reg) (o : BitVec 12) (z : BitVec 1) (e : TlbEnt),
  let bad (i : Instr) (va : Ctx → W64) (n : Nat) (no : TlbEnt → Prop) : Prop :=
    Traps i (fun _ c => Fresh c ∧ (va c).toNat % n ≠ 0) 2 0 va
    ∧ Traps i (fun _ c => Fresh c ∧ (va c).toNat % n = 0 ∧ 2 ^ 57 ≤ (va c).toNat) 3 0 va
    ∧ Traps i (fun s c => Fresh c ∧ (va c).toNat % n = 0 ∧ (va c).toNat < 2 ^ 57
        ∧ tlbFind (s.tlbOf s.cur.toNat) c.asid (va c) = some e ∧ no e) 4 0 va
  let ea (c : Ctx) : W64 := c.r a + o.signExtend 64
  let ra (c : Ctx) : W64 := c.r a
  let sz (z : BitVec 1) : Nat := if z = 0 then 4 else 8
  let noRead (e : TlbEnt) : Prop := e.r = false
  let noWrite (e : TlbEnt) : Prop := e.w = false ∨ e.cow = true
  let noPart (e : TlbEnt) : Prop := noWrite e ∨ e.kind = .writeOnce
  let noAtomic (e : TlbEnt) : Prop := noWrite e ∨ e.r = false ∨ e.kind ≠ .normal
  bad (.ldB d a o) ea 1 noRead ∧ bad (.ldH d a o) ea 2 noRead ∧ bad (.ldW d a o) ea 4 noRead ∧ bad (.ldD d a o) ea 8 noRead
  ∧ bad (.ldBn d a o) ea 1 noRead ∧ bad (.ldHn d a o) ea 2 noRead ∧ bad (.ldWn d a o) ea 4 noRead
  ∧ bad (.stB d a o) ea 1 noPart ∧ bad (.stH d a o) ea 2 noPart ∧ bad (.stW d a o) ea 4 noPart ∧ bad (.stD d a o) ea 8 noWrite
  ∧ bad (.amoAdd d a b z) ra (sz z) noAtomic ∧ bad (.amoAnd d a b z) ra (sz z) noAtomic ∧ bad (.amoOr d a b z) ra (sz z) noAtomic
  ∧ bad (.amoXor d a b z) ra (sz z) noAtomic ∧ bad (.amoMin d a b z) ra (sz z) noAtomic ∧ bad (.amoMax d a b z) ra (sz z) noAtomic
  ∧ bad (.amoMinn d a b z) ra (sz z) noAtomic ∧ bad (.amoMaxn d a b z) ra (sz z) noAtomic ∧ bad (.amoSwp d a b z) ra (sz z) noAtomic
  ∧ bad (.amoFadd d a b) ra 4 noAtomic ∧ bad (.casW d a b) ra 4 noAtomic ∧ bad (.casD d a b) ra 8 noAtomic

/-- R124 to R127: PREF completes whatever the address and changes only translation caches and walks; TLOOK, TINS and TINV read and write the tag
table. -/
def Obligations.PrefetchAndTags : Prop := ∀ (h : BitVec 5) (d a b : Reg) (o : BitVec 16) (w v : Nat),
  let hit (w : Nat) (c : Ctx) : Prop := c.tagHit (c.r a) = some w
  let e (c : Ctx) (w : Nat) : W64 := c.tag (bits64 (c.r a) 11 6) w
  let hitForm (c : Ctx) (w : Nat) : W64 := BitVec.ofNat 64 (w * 2 ^ 20 + ((e c w).toNat % 2 ^ 14 * 64 + (c.r a).toNat % 64))
  let new (c : Ctx) : W64 := BitVec.ofNat 64 (2 ^ 63 + (c.r a).toNat / 2 ^ 12 % 2 ^ 45 * 2 ^ 14 + (c.r b).toNat % 2 ^ 14)
  let way (c : Ctx) : Nat := (c.r b).toNat / 2 ^ 14 % 4
  Goes (.pref h a o) (fun _ _ => True) (fun s c t => t.ctxAt s.cur.toNat = some c.next
      ∧ (∀ u, u ≠ s.cur.toNat → t.ctxAt u = s.ctxAt u) ∧ (∀ u, { t.tile u with tlb := (s.tile u).tlb } = s.tile u)
      ∧ { t with ctxs := s.ctxs, tiles := s.tiles, rtlb := s.rtlb, walks := s.walks, nextId := s.nextId } = s)
  ∧ (∀ (c : Ctx) (x : W64), c.tagHit x = some w → w < 4 ∧ 2 ^ 63 ≤ (c.tag (bits64 x 11 6) w).toNat
      ∧ bits64 (c.tag (bits64 x 11 6) w) 58 14 = bits64 x 56 12)
  ∧ Answers (.tlook d a) d (fun _ c => hit w c) (fun _ c => hitForm c w)
  ∧ Answers (.tlook d a) d (fun _ c => c.tagHit (c.r a) = none) (fun _ c => c.missForm (c.r a))
  ∧ Answers (.tins d a b) d (fun _ c => hit w c ∧ w ≠ way c) (fun _ c => e c w ||| 0x4000000000000000)
  ∧ Does (.tins d a b) (fun _ c => hit w c ∧ w = way c) (fun s c => s.setCtx s.cur.toNat ((c.setTag (bits64 (c.r a) 11 6) w (new c)).w d (e c w)).next)
  ∧ Does (.tins d a b) (fun _ c => c.tagHit (c.r a) = none) (fun s c =>
      s.setCtx s.cur.toNat ((c.setTag (bits64 (c.r a) 11 6) (way c) (new c)).w d (e c (way c))).next)
  ∧ Does (.tinv d a) (fun _ c => hit w c) (fun s c => s.setCtx s.cur.toNat ((c.setTag (bits64 (c.r a) 11 6) w 0).w d (hitForm c w)).next)
  ∧ Answers (.tinv d a) d (fun _ c => c.tagHit (c.r a) = none) (fun _ c => c.missForm (c.r a))
  ∧ (∀ (c : Ctx) (x : W64), w < 4 → (c.setTag (bits64 (c.r a) 11 6) w x).tag (bits64 (c.r a) 11 6) w = x
      ∧ (v < 4 → v ≠ w → (c.setTag (bits64 (c.r a) 11 6) w x).tag (bits64 (c.r a) 11 6) v = c.tag (bits64 (c.r a) 11 6) v))

/-- R138, R139, R141: an atomic whose checks pass sets the effects bit of the pips held (R314) and sends its operation with g(b) as its
operand and g(d) as the expected value; it completes at once, or once its answer has come under an ORD that acquires. -/
def Obligations.AtomicsIssue : Prop := ∀ (d a b : Reg) (z : BitVec 1),
  let am (i : Instr) (op : HomeOp) (n : Nat) : Prop :=
    (∀ e, Does i (fun s c => Fresh c ∧ checkAtomic s s.cur.toNat c.asid (c.r a) n true true = .ok e
        ∧ (c.order = 2 ∨ c.order = 3 ∨ c.order = 4 → MayRelease s c) ∧ s.loadsOut s.cur.toNat < 16) (fun s c =>
      sends (s.effects s.cur.toNat) c { mkReq s s.cur.toNat op e (c.r a) n with
          reg := some d, signed := n == 4, dat := leBytes n (c.r b).toNat, expect := c.r d }
        (c.order = 1 || c.order = 3 || c.order = 4)))
    ∧ (∀ id, Does i (fun s c => c.wait = .access id ∧ ∀ q ∈ s.reqs, q.id ≠ id) (fun s c => s.setCtx s.cur.toNat c.next))
  let n : Nat := if z = 0 then 4 else 8
  am (.amoAdd d a b z) .add n ∧ am (.amoAnd d a b z) .and n ∧ am (.amoOr d a b z) .or n ∧ am (.amoXor d a b z) .xor n
  ∧ am (.amoMin d a b z) .min n ∧ am (.amoMax d a b z) .max n ∧ am (.amoMinn d a b z) .minn n ∧ am (.amoMaxn d a b z) .maxn n
  ∧ am (.amoSwp d a b z) .swp n ∧ am (.amoFadd d a b) .fadd 4 ∧ am (.casW d a b) .cas 4 ∧ am (.casD d a b) .cas 8

/-- R137, R139, R140: an atomic at its home reads the old value, leaves the new one and answers the old one, as one step; no other byte
of memory changes. -/
def Obligations.AtomicValues : Prop := ∀ (s : State) (q : Req) (id : Nat),
  s.req? id = some q → q.st = .issued → s.blocked q = false → s.cut q = false →
  let m : Nat := 2 ^ (8 * q.n)
  let old : Nat := s.mem.nat q.pa q.n
  let v : Nat := leNat q.dat
  let sold : Int := if old < m / 2 then old else (old : Int) - m
  let sv : Int := if v < m / 2 then v else (v : Int) - m
  (q.n = 4 ∨ q.n = 8) → v < m →
  let leaves (new : Nat) : Prop := ∃ t, exec (.atomicPerform id) s = .next t ∧ t.mem.nat q.pa q.n = new
    ∧ t.req? id = some { q with st := .performed, dat := leBytes q.n old }
    ∧ (∀ a, a < q.pa ∨ q.pa + q.n ≤ a → t.mem.get a = s.mem.get a) ∧ t.ctxs = s.ctxs ∧ t.ctr = s.ctr
  (q.op = .add → leaves ((old + v) % m)) ∧ (q.op = .and → leaves (old &&& v)) ∧ (q.op = .or → leaves (old ||| v))
  ∧ (q.op = .xor → leaves (old ^^^ v)) ∧ (q.op = .min → leaves (if sv < sold then v else old))
  ∧ (q.op = .max → leaves (if sold < sv then v else old)) ∧ (q.op = .minn → leaves (min old v)) ∧ (q.op = .maxn → leaves (max old v))
  ∧ (q.op = .swp → leaves v)
  ∧ (q.op = .fadd → q.n = 4 → leaves (fadd 0 (BitVec.ofNat 32 old) (BitVec.ofNat 32 v)).1.toNat)
  ∧ (q.op = .cas → old = q.expect.toNat % m → leaves v) ∧ (q.op = .cas → old ≠ q.expect.toNat % m → leaves old)
/-! ### Memory at its homes -/

/-- R116, R131, R142, R144, R366, R378: a request performed at its home: a read takes the bytes of its place in address order, a write replaces
those bytes and no others, a write-once word is written once, and a read of an absent one is deferred until its words are written; a read of
device registers takes what they hold, and a write to them changes no memory; nothing is performed over a port that is down (R340). That an
unassigned device register holds a free value is the model's choice (log 15). -/
def Obligations.HomeAccess : Prop := ∀ (s : State) (q : Req) (id : Nat),
  s.req? id = some q → q.st = .issued → s.blocked q = false → s.channelStalled q = false →
  let run : Out := exec (.homeAccessPerform id) s
  (s.cut q = true → run = .next s) ∧ (s.cut q = false →
  (q.op = .read → q.kind = .normal ∨ (q.kind = .writeOnce ∧ s.allPresent q.pa q.n = true) ∨ (q.kind = .device ∧ inDevice q.pa = false) →
    ∃ t, run = .next t ∧ t.req? id = some { q with st := .performed, dat := s.mem.bytes q.pa q.n, stalled := false }
      ∧ t.mem = s.mem ∧ t.ctxs = s.ctxs)
  ∧ (q.op = .read → q.kind = .writeOnce → s.allPresent q.pa q.n = false → s.deferredAt (homeTile q.pa) < 4096 →
    ∃ t, run = .next t ∧ t.req? id = some { q with st := .deferred, stalled := false } ∧ t.mem = s.mem ∧ t.ctxs = s.ctxs)
  ∧ (q.op = .read → q.kind = .device → inDevice q.pa = true →
    ∃ t, run = .next t ∧ t.req? id = some { q with st := .performed, dat := s.devRead 0 q.pa q.n, stalled := false }
      ∧ t.mem = s.mem ∧ t.ctxs = s.ctxs ∧ t.ctr = s.ctr)
  ∧ (q.op = .write → q.kind = .device → inDevice q.pa = true →
    run = .next ((s.setReq { q with st := .performed }).devWrite q.pa q.n))
  ∧ (∀ pa n, (s.devWrite pa n).mem = s.mem ∧ (s.devWrite pa n).ctxs = s.ctxs ∧ (s.devWrite pa n).reqs = s.reqs)
  ∧ (∀ pa, pa % 8 = 0 → inDevice pa = true → isCounter ((pa - 0x3F000000000) / 8) = true → pa < 0x3F100000000 →
      (s.devWrite pa 8).ctr = SMap.del s.ctr ((pa - 0x3F000000000) / 8))
  ∧ (q.op = .write → q.kind = .normal ∨ (q.kind = .device ∧ inDevice q.pa = false) → q.dat.length = q.n →
    ∃ t, run = .next t ∧ t.mem.bytes q.pa q.n = q.dat ∧ t.req? id = some { q with st := .performed }
      ∧ (∀ a, a < q.pa ∨ q.pa + q.n ≤ a → t.mem.get a = s.mem.get a) ∧ t.ctxs = s.ctxs ∧ t.present = s.present)
  ∧ (q.op = .write → q.kind = .writeOnce → q.pa % 8 = 0 → q.n = 8 → q.dat.length = 8 → s.present? q.pa = false →
    ∃ t, run = .next t ∧ t.mem.bytes q.pa 8 = q.dat ∧ t.present? q.pa = true
      ∧ (∀ a, a < q.pa ∨ q.pa + 8 ≤ a → t.mem.get a = s.mem.get a ∧ t.present? a = s.present? a))
  ∧ (∀ r, q.op = .write → q.kind = .writeOnce → q.pa % 8 = 0 → q.n = 8 → q.dat.length = 8 → s.present? q.pa = false →
    s.req? r.id = some r → r.id ≠ id → r.st = .deferred → (∀ w ∈ wordsOf r.pa r.n, w ∈ s.present ∨ w = q.pa / 8) →
    ∃ t, run = .next t ∧ t.req? r.id = some { r with st := .performed, dat := t.mem.bytes r.pa r.n })
  ∧ (q.op = .write → q.kind = .writeOnce → q.pa % 8 = 0 → q.n = 8 → s.present? q.pa = true →
    ∃ t, run = .next t ∧ t.mem = s.mem ∧ t.req? id = some { q with st := .performed, failed := true, drops := 1 }))

/-- R116 to R118, R139, R340: an answer writes the register of its request, an acknowledged store is forgotten, a rewrite of a
write-once word traps with code 5, and a request to remote memory that is lost is retried once and then given up. -/
def Obligations.RequestAnswers : Prop := ∀ (s : State) (q : Req) (id t : Nat) (c : Ctx) (d : Reg),
  s.req? id = some q → q.agent = .ctx t → s.ctxAt t = some c →
  (s.cut q = true → q.st = .performed → exec (.memoryResponse id false) s = .next s ∧ exec (.storeAcknowledge id) s = .next s) ∧ (s.cut q = false →
  (q.op ≠ .write → q.st = .performed → q.reg = some d → ∃ s', exec (.memoryResponse id false) s = .next s'
    ∧ s' = (s.delReq id).setCtx t (c.w d (if q.signed then BitVec.ofInt 64 (sextNat (8 * q.n) (leNat q.dat)) else BitVec.ofNat 64 (leNat q.dat))))
  ∧ (q.op ≠ .write → q.st = .performed → q.reg = some d → ∃ s', exec (.memoryResponse id true) s = .next s'
    ∧ s'.ctxAt t = some (c.w d 0) ∧ s'.req? id = none ∧ s'.mem = s.mem)
  ∧ (q.op = .write → q.st = .performed → q.acked = false → exec (.storeAcknowledge id) s = .next (s.delReq id))
  ∧ (q.op = .write → q.st = .performed → q.acked = true → c.wait = .access id → q.failed = true →
    exec (.storeAcknowledge id) s = .next ((s.delReq id).raise t c 5 0 q.va c.here)))
  ∧ (isRemote q.pa = true → q.lost = false → q.bornAt.toNat + s.hub.br ≤ (s.cycles (islandOf t)).toNat → q.retried = false →
    ∃ s', exec (.remoteRequestLost id) s = .next s' ∧ s'.mem = s.mem
      ∧ s'.req? id = some { q with retried := true, bornAt := s.cycles (islandOf t) })
  ∧ (isRemote q.pa = true → q.lost = false → q.bornAt.toNat + s.hub.br ≤ (s.cycles (islandOf t)).toNat → q.retried = true → q.op ≠ .write →
    ∃ s', exec (.remoteRequestLost id) s = .next s' ∧ s'.mem = s.mem
      ∧ s'.req? id = some { q with st := .performed, lost := true, failed := true, dat := List.replicate q.n 0 })
  ∧ (isRemote q.pa = true → q.lost = false → q.bornAt.toNat + s.hub.br ≤ (s.cycles (islandOf t)).toNat → q.retried = true → q.op = .write →
    ∃ s', exec (.remoteRequestLost id) s = .next s' ∧ s'.mem = s.mem ∧ s'.req? id = some { q with st := .performed, lost := true, failed := false, dat := [] })

/-- R40, R135, R136: ORD holds its order and scope for the word behind it, and every word there that is no access which the order may stand
before, an access of the wrong kind among them, is illegal; FENCE and
PAUSE (R102) only complete, FENCE once the accesses it orders are performed. -/
def Obligations.OrderWords : Prop := ∀ (o : BitVec 3) (p : BitVec 2),
  Does (.ord o p) (fun _ c => ∀ e ∈ c.stack, e.last ≠ c.pc) (fun s c => s.setCtx s.cur.toNat { c with ord := some (o, p), pc := c.pc + 4 })
  ∧ Does (.ord o p) (fun _ c => ∃ e ∈ c.stack, e.last = c.pc) (fun s c => s.illegal c (encode (.ord o p)))
  ∧ (∀ s c q i, s.curCtx = some c → c.halted = false → c.ord = some q → (fieldsOf i).op ≠ 0 → ordOk (some q) i = false →
      exec i s = .next (s.illegal c (encode i)))
  ∧ (∀ i ∈ [Instr.pause, .fence o p, .ord o p, .halt, .add 1 2 3, .pref 0 1 0], ∀ q, ordOk (some q) i = false)
  ∧ ordOk (some (1, p)) (.stD 1 2 0) = false ∧ ordOk (some (2, p)) (.ldD 1 2 0) = false
  ∧ Does (.fence o p) (fun s _ => p = 0 ∨ s.outstanding s.cur.toNat = false) (fun s c => s.setCtx s.cur.toNat c.next)
  ∧ Does (.fence o p) (fun s _ => p ≠ 0 ∧ o ≠ 1 ∧ s.outstanding s.cur.toNat = true) (fun s c => s.setCtx s.cur.toNat { c with wait := .again })
  ∧ Does .pause (fun _ _ => True) (fun s c => s.setCtx s.cur.toNat c.next)

/-- R145, R146: WOCLR checks its range, empties it sector by sector in rising order, and answers the bytes emptied; WOTEST sends the
test of its sector, which a home answers with the eight presence bits. -/
def Obligations.WriteOnceWords : Prop := ∀ (d a b : Reg) (e : TlbEnt) (id pa len next done : Nat) (stop : Bool) (t : TileId),
  Traps (.woclr d a b) (fun _ c => c.wait = .idle ∧ ((c.r a).toNat % 8 ≠ 0 ∨ (c.r b).toNat % 8 ≠ 0)) 2 0 (fun c => c.r a)
  ∧ Traps (.woclr d a b) (fun _ c => c.wait = .idle ∧ (c.r a).toNat % 8 = 0 ∧ (c.r b).toNat % 8 = 0 ∧ 2 ^ 20 < (c.r b).toNat) 6 7 (fun c => c.r b)
  ∧ Does (.woclr d a b) (fun _ c => c.wait = .idle ∧ (c.r a).toNat % 8 = 0 ∧ c.r b = 0) (fun s c =>
      (s.effects s.cur.toNat).setCtx s.cur.toNat (c.w d 0).next)
  ∧ Answers (.woclr d a b) d (fun _ c => c.wait = .sectors id pa len next done stop ∧ (stop = true ∨ len ≤ done)) (fun _ _ => BitVec.ofNat 64 done)
  ∧ Does (.woclr d a b) (fun s c => c.wait = .idle ∧ (c.r a).toNat % 8 = 0 ∧ (c.r b).toNat % 8 = 0 ∧ 0 < (c.r b).toNat ∧ (c.r b).toNat ≤ 2 ^ 20
        ∧ checkAccess s s.cur.toNat c.asid (c.r a) 8 .store true = .ok e ∧ e.kind = .writeOnce
        ∧ checkAccess s s.cur.toNat c.asid (c.r a + c.r b - 8) 8 .store true = .ok e
        ∧ (c.order = 2 ∨ c.order = 3 ∨ c.order = 4 → MayRelease s c))
      (fun s c => { s.effects s.cur.toNat with nextId := s.nextId + 1 }.setCtx s.cur.toNat
        { c with wait := .sectors s.nextId (e.pa + ((c.r a).toNat - e.va)) (c.r b).toNat 0 0 false })
  ∧ (∀ s c, s.ctxAt t.toNat = some c → c.wait = .sectors id pa len next done false → pa % 8 = 0 → done % 8 = 0 → len % 8 = 0 → done < len → s.reqs = [] →
      ∃ s' n, exec (.woclrSectorStep t) s = .next s' ∧ n = min (len - done) (64 - (pa + done) % 64) ∧ s'.mem = s.mem
        ∧ s'.ctxAt t.toNat = some { c with wait := .sectors id pa len (next + 1) (done + n) false }
        ∧ (∀ w, w ∈ s'.present ↔ w ∈ s.present ∧ ¬ ((pa + done) / 8 ≤ w ∧ w < (pa + done + n) / 8)))
  ∧ Does (.wotest d a) (fun s c => checkAccess s s.cur.toNat c.asid (c.r a) 1 .load false = .ok e ∧ e.kind = .writeOnce ∧ s.loadsOut s.cur.toNat < 16)
      (fun s c => sends s c { mkReq s s.cur.toNat .woTest e (c.r a) 64 with pa := (e.pa + ((c.r a).toNat - e.va)) / 64 * 64, reg := some d } false)
  ∧ Traps (.wotest d a) (fun s c => checkAccess s s.cur.toNat c.asid (c.r a) 1 .load false = .ok e ∧ e.kind ≠ .writeOnce) 4 0 (fun c => c.r a)
  ∧ (∀ s q, s.req? pa = some q → q.op = .woTest → q.st = .issued → s.blocked q = false → s.channelStalled q = false → ∃ s' r,
      exec (.homeAccessPerform pa) s = .next s' ∧ s'.req? pa = some r ∧ r.st = .performed ∧ s'.present = s.present
        ∧ ∀ k, (leNat r.dat).testBit k = (k < 8 && s.present.contains (q.pa / 64 * 8 + k)))

/-- R115, R367 to R369: a walk that a walker of its die has taken, and one takes it while one of the four is free, reads one entry a step,
from the root of its ASID down, and stops at a leaf or an invalid entry; a completed walk enters its translation, or the access that waits takes
the page trap; where the word after an ORD cannot be fetched, the ORD is kept for the return (R40), which is the model's choice (log 37). -/
def Obligations.WalkSteps : Prop := ∀ (s : State) (id v k : Nat) (w : Walk) (c : Ctx) (e : TlbEnt) (pa : Nat),
  s.walks.find? (fun w => w.id == id) = some w → s.mapped w.asid w.va = none →
  let at_ (a : Nat) : W64 := BitVec.ofNat 64 (s.seen.nat a 8)
  let addr : Nat := if w.level = 5 then w.table + 8 * w.asid.toNat else w.table + 8 * (w.va.toNat / 2 ^ (12 + 9 * w.level) % 512)
  let now (x : Walk) : Prop := ∃ t, exec (.translationWalk id false) s = .next t ∧ t.walks.find? (fun w => w.id == id) = some x ∧ t.mem = s.mem ∧ t.ctxs = s.ctxs
  let free : Prop := w.done = none ∧ s.walkerFor w = some k
  (free → readPte w.level w.asid w.va (at_ addr) = .invalid → now { w with walker := some k, done := some none })
  ∧ (free → readPte w.level w.asid w.va (at_ addr) = .table pa → now { w with walker := some k, level := w.level - 1, table := pa })
  ∧ (free → w.level < 5 → readPte w.level w.asid w.va (at_ addr) = .leaf e → now { w with walker := some k, done := some (some e) })
  ∧ (w.walker = none → (k < 4 ∧ ∀ x ∈ s.walks, tileDie x.tile = tileDie w.tile → x.walker ≠ some k) → ∃ j, s.walkerFor w = some j)
  ∧ (w.done = some (some e) → w.stale = false → w.quiet = false → ∃ t, exec (.walkComplete id v) s = .next t ∧ e ∈ t.tlbOf w.tile
      ∧ t.ctxs = s.ctxs ∧ t.mem = s.mem)
  ∧ (w.done = some none → w.stale = false → w.quiet = false → s.ctxAt w.tile = some c → c.wait = .walk id →
      exec (.walkComplete id v) s = .next ({ s with walks := s.walks.filter fun x => x.id != id }.raise w.tile c 3 0 w.va c.here))
  ∧ (w.done = some none → w.stale = false → w.quiet = false → s.ctxAt w.tile = some c → c.wait = .fetch id →
      let faulted : State := { s with walks := s.walks.filter fun x => x.id != id }.raise w.tile c 7 0 c.pc c.pc
      (c.ord = none → exec (.walkComplete id v) s = .next faulted)
      ∧ (∀ o, c.ord = some o → exec (.walkComplete id v) s = .next (faulted.updCtx w.tile fun x => { x with eord := some o })))

/-- R32, R44, R358: a word that cannot be fetched and a word that is no instruction trap with the address fetched, or the word, in
csr.tval, an ORD before it kept for the return (R40, log 37); a pending asynchronous trap is taken between words; a waiting word, whatever it
is, is run again where its context may issue, and so completes where its condition holds. -/
def Obligations.FetchTraps : Prop := ∀ (s : State) (c : Ctx) (t : TileId) (w : W32) (e : TlbEnt) (p : Pend) (ps : List Pend) (id : Nat)
    (d a : Reg) (o : BitVec 12),
  (∀ i, s.ctxAt t.toNat = some c → c.waits = true → c.wait ≠ .redo → s.canIssue t.toNat c = true → decode c.word = .ok i →
      (∃ u, waitRun i u ≠ .next u) → exec (.waitingWordComplete t) s = exec i { s with cur := t })
  ∧ (s.ctxAt t.toNat = some c → c.wait = .redo → s.canIssue t.toNat c = true → exec (.waitingWordComplete t) s = .next (s.reissue t.toNat c))
  ∧ (s.ctxAt t.toNat = some c → c.halted = false → c.isRoot = false → c.lvl = false → c.wait = .idle → c.pc.toNat % 4 = 0 → 2 ^ 57 ≤ c.pc.toNat →
      ∃ s' c', exec (.instructionFetchFault t) s = .next s' ∧ s'.ctxAt t.toNat = some c' ∧ c'.epc = c.pc ∧ c'.tval = c.pc ∧ c'.eord = c.ord)
  ∧ (s.ctxAt t.toNat = some c → c.halted = false → c.isRoot = false → c.ord = none →
  (c.wait = .idle → c.pc.toNat % 4 = 0 → 2 ^ 57 ≤ c.pc.toNat → exec (.instructionFetchFault t) s = .next (s.raise t.toNat c 7 0 c.pc c.pc))
  ∧ (c.wait = .idle → c.pc.toNat % 4 = 0 → c.pc.toNat < 2 ^ 57 → tlbFind (s.tlbOf t.toNat) c.asid c.pc = some e → e.x = false →
      exec (.instructionFetchFault t) s = .next (s.raise t.toNat c 8 0 c.pc c.pc))
  ∧ (c.wait = .idle → s.fetch t.toNat c = .word w → (∀ i, decode w ≠ .ok i) →
      exec (.illegalInstruction t) s = .next ({ s with cur := t }.raise t.toNat c 1 0 (w.setWidth 64) c.pc))
  ∧ (c.lvl = false → c.wait = .idle → c.pend = p :: ps → ∃ s' c', exec (.asyncTrap t) s = .next s' ∧ s'.ctxAt t.toNat = some c'
      ∧ c'.lvl = true ∧ c'.plvl = false ∧ c'.pc = c.tvec ∧ c'.epc = c.pc ∧ c'.tval = p.tval
      ∧ c'.tcause = 0x8000#16 ||| p.code.setWidth 16 ∧ c'.pend = ps ∧ c'.g = c.g)
  ∧ (c.wait = .access id → (∀ q ∈ s.reqs, q.id ≠ id) → decode c.word = .ok (.ldD d a o) → c.lvl = false →
      exec (.waitingWordComplete t) s = .next ({ s with cur := t }.setCtx t.toNat c.next)))
/-! ### Configuration -/

/-- R164, R173 to R175: CFGLD loads an accepted image into the shadow plane and answers status 0, or answers the status and detail of the
check it fails, which is counted, and loads nothing; CFGGO and CFGGO.S arm a tile that has a shadow plane and no swap in progress, and
otherwise trap; CFGWAIT waits, and goes on waiting while the tile is frozen (R356), then answers the stray counter and clears it; CFGSIG answers the signature of a plane. -/
def Obligations.ConfigWords : Prop := ∀ (d a : Reg) (h bs : List Byte),
  let reads (s : State) (c : Ctx) : Prop := (c.r a).toNat % 64 = 0 ∧ s.ownRead s.cur.toNat c (c.r a) 64 = .ok h
  let legal : Prop := imgWord h 0 = 0x4B434647 ∧ (imgWord h 1).toNat % 64 = 0 ∧ 64 ≤ (imgWord h 1).toNat ∧ (imgWord h 1).toNat ≤ 16384
  let status (s : State) : Nat × Nat := imageStatus bs (s.tile s.cur.toNat).busy (s.inRegionOf s.cur.toNat) s.cur.toNat
  let go (i : Instr) (strict : Bool) : Prop :=
    Does i (fun s _ => (s.tile s.cur.toNat).shadow ≠ none ∧ (s.tile s.cur.toNat).swapping = false) (fun s c =>
        (s.setTile s.cur.toNat { s.tile s.cur.toNat with swapping := true, strict := strict, flipped := [] }).setCtx s.cur.toNat c.next)
    ∧ Traps i (fun s _ => (s.tile s.cur.toNat).shadow = none ∨ (s.tile s.cur.toNat).swapping = true) 6 6 (fun _ => 0)
  let free (s : State) (c : Ctx) : Prop := (s.tile s.cur.toNat).frozen = false ∨ c.wait ≠ .again
  let wait (i : Instr) (done : Tile → Prop) : Prop :=
    Does i (fun s c => done (s.tile s.cur.toNat) ∧ free s c) (fun s c => (s.setTile s.cur.toNat { s.tile s.cur.toNat with stray := 0 }).setCtx
        s.cur.toNat (c.w d ((s.tile s.cur.toNat).stray.setWidth 64)).next)
    ∧ Does i (fun s c => ¬ (done (s.tile s.cur.toNat) ∧ free s c)) (fun s c => s.setCtx s.cur.toNat { c with wait := .again })
  Traps (.cfgld d a) (fun _ c => (c.r a).toNat % 64 ≠ 0) 2 0 (fun c => c.r a)
  ∧ Goes (.cfgld d a) (fun s c => reads s c ∧ ¬ legal) (fun s c t => t.ctxAt s.cur.toNat = some (c.w d 1).next ∧ t.tiles = s.tiles
      ∧ t.ctr = (s.countTile s.cur.toNat 7 1).ctr)
  ∧ Does (.cfgld d a) (fun s c => reads s c ∧ legal ∧ s.ownRead s.cur.toNat c (c.r a) (imgWord h 1).toNat = .ok bs ∧ status s = (0, 0)) (fun s c =>
      ((s.setTile s.cur.toNat { s.tile s.cur.toNat with loading := some (planeOf bs (c.r a) c.asid), arrived := [] }).markAhead s.cur.toNat).setCtx
        s.cur.toNat (c.w d 0).next)
  ∧ Goes (.cfgld d a) (fun s c => reads s c ∧ legal ∧ s.ownRead s.cur.toNat c (c.r a) (imgWord h 1).toNat = .ok bs ∧ (status s).1 ≠ 0) (fun s c t =>
      t.tiles = s.tiles ∧ t.mem = s.mem ∧ t.ctr = (s.countTile s.cur.toNat 7 1).ctr ∧ ∃ st, st = status s ∧ t.ctxAt s.cur.toNat = some (c.w d (BitVec.ofNat 64 (st.1 + st.2 * 2 ^ 16))).next)
  ∧ go .cfggo false ∧ go .cfggoS true
  ∧ wait (.cfgwaitLd d) (fun t => t.loading = none) ∧ wait (.cfgwaitGo d) (fun t => t.swapping = false)
  ∧ Answers (.cfgsigA d) d (fun _ _ => True) (fun s _ => match (s.tile s.cur.toNat).plane (s.tile s.cur.toNat).epoch with
      | some p => p.sig
      | none => 0)
  ∧ Answers (.cfgsigSh d) d (fun _ _ => True) (fun s _ => match (s.tile s.cur.toNat).shadow with
      | some p => p.sig
      | none => 0)

/-- R176, R372, R373: CFGSAVE at an aligned area and a boundary writes the image of the tile there and answers 0; CFGREST of a legal image
whose planes stand where it says puts the tile back and answers 0; elsewhere they answer 7 or 8 and change nothing. What stands beside the image, keepBeside and keptAt,
is the model's choice (log 16), and the boundary of a tile in no region its reading (log 34). -/
def Obligations.SaveAndRestore : Prop := ∀ (d a : Reg) (hd bs : List Byte) (s' : State) (act sh : Option Plane),
  let here (c : Ctx) : Prop := (c.r a).toNat % 4096 = 0
  let boundary (s : State) : Prop := match s.regionOf s.cur.toNat with
    | some (h, r) => s.atBoundary h r = true
    | none => (s.tile s.cur.toNat).bounded = true
  Does (.cfgsave d a) (fun s c => here c ∧ boundary s ∧ s.ownRead s.cur.toNat c (c.r a) 32 = .ok hd
      ∧ bs = saveBytes (s.tile s.cur.toNat) (imgDouble hd 8).toNat ((imgDouble hd 16).toNat + (imgDouble hd 24).toNat * 2 ^ 64)
      ∧ bs.length ≤ (imgDouble hd 8).toNat ∧ ∀ f, s.writeOwn s.cur.toNat c (c.r a) bs f = f s') (fun s c =>
    (s'.keepBeside ((s'.tile s.cur.toNat).keep c.asid (c.r a) bs)).setCtx s.cur.toNat (c.w d 0).next)
  ∧ Answers (.cfgsave d a) d (fun _ c => (c.r a).toNat % 4096 ≠ 0) (fun _ _ => 7)
  ∧ Answers (.cfgsave d a) d (fun s c => here c ∧ ¬ boundary s) (fun _ _ => 8)
  ∧ Does (.cfgrest d a) (fun s c => here c ∧ boundary s ∧ s.ownRead s.cur.toNat c (c.r a) 128 = .ok hd ∧ saveLegal hd = true
      ∧ s.ownRead s.cur.toNat c (c.r a) (imgDouble hd 32).toNat = .ok bs
      ∧ (∀ f, s.ownPlane s.cur.toNat c (imgDouble bs 40) (imgDouble bs 48) f = f (act, true))
      ∧ (∀ f, s.ownPlane s.cur.toNat c (imgDouble bs 56) (imgDouble bs 64) f = f (sh, true))) (fun s c =>
    (s.setTile s.cur.toNat (restoreTile (s.tile s.cur.toNat) bs act sh (s.keptAt c.asid (c.r a) bs) c.asid)).setCtx s.cur.toNat (c.w d 0).next)
  ∧ Answers (.cfgrest d a) d (fun _ c => (c.r a).toNat % 4096 ≠ 0) (fun _ _ => 7)
  ∧ Answers (.cfgrest d a) d (fun s c => here c ∧ ¬ boundary s) (fun _ _ => 8)

/-- R161, R165 to R167, R191: a site completes its shadow plane behind the tokens bound for it, and none does in a frozen tile; an armed site that is ready and has passed EOS
swaps, with its accumulators reset and its stray tokens gone, but in strict mode one that finds a stray token does not swap and raises the STRAY
fault; a stray token that reaches a queue later is dropped and counted, or faults there; the drained old plane is left with the windows of its cut edges, and the new one is active. -/
def Obligations.ConfigEvents : Prop := ∀ (s : State) (t : TileId) (site h : Nat) (p : Plane),
  let tl : Tile := s.tile t.toNat
  let comes : Prop := tl.loading = some p ∧ tl.frozen = false ∧ site < 64 ∧ site ∉ tl.arrived ∧ s.aheadOf t.toNat site = false
  (comes → tl.arrived.length < 63 →
    ∃ s', exec (.configTokenArrive t site) s = .next s' ∧ (s'.tile t.toNat).loading = some p ∧ s'.mem = s.mem ∧ s'.ctxs = s.ctxs
      ∧ (∀ x, x ∈ (s'.tile t.toNat).arrived ↔ x = site ∨ x ∈ tl.arrived))
  ∧ (comes → 63 ≤ tl.arrived.length →
    ∃ s', exec (.configTokenArrive t site) s = .next s' ∧ (s'.tile t.toNat).loading = none ∧ (s'.tile t.toNat).plane (!tl.epoch) = some p)
  ∧ (tl.shadow = some p → site < 64 → tl.swapping = true → tl.strict = false → tl.frozen = false → site ∉ tl.flipped → tl.siteReady site = true →
      tl.passedEos site = true → ∃ s', exec (.siteSwap t site) s = .next s' ∧ site ∈ (s'.tile t.toNat).flipped
        ∧ (s'.tile t.toNat).plane (!tl.epoch) = some p ∧ s'.mem = s.mem ∧ s'.ctxs = s.ctxs
        ∧ (isVe site = true → ((s'.tile t.toNat).ve site).acc0 = accReset (SMap.get? p.ves site) 0
            ∧ ((s'.tile t.toNat).ve site).acc1 = accReset (SMap.get? p.ves site) 1 ∧ ((s'.tile t.toNat).ve site).flags = (tl.ve site).flags)
        ∧ ∀ k < 4, (s'.tile t.toNat).queue site k = (tl.queue site k).filter fun x => x.ep != tl.epoch)
  ∧ (∀ k x, tl.shadow = some p → site < 64 → tl.swapping = true → tl.strict = true → tl.frozen = false → site ∉ tl.flipped → tl.siteReady site = true →
      tl.passedEos site = true → tl.strayAt site = some (k, x) → exec (.siteSwap t site) s = .next (s.strayFault t.toNat site k x))
  ∧ (∀ k x u, tl.isStray site x = true → u = s.deliver x false (.input t.toNat site k) →
      (tl.strict = false → u = s.strays t.toNat 1 ∧ (u.tile t.toNat).stray = sat32 tl.stray 1)
      ∧ (tl.strict = true → u = (s.setTile t.toNat (tl.push (qKey site k) x)).strayFault t.toNat site k x))
  ∧ (∀ k x i r, s.regionOf t.toNat = some (i, r) → ∃ f, (s.strayFault t.toNat site k x).ftoks = s.ftoks ++ [f] ∧ f.cause = causeWord true 0 0x22
      ∧ f.tval = BitVec.ofNat 64 (k * 2 ^ 38 + site * 2 ^ 32 + x.hdr.toNat) ∧ f.region = i)
  ∧ (tl.loading = some p → tl.frozen = true ∨ s.aheadOf t.toNat site = true → exec (.configTokenArrive t site) s = .next s)
  ∧ (tl.frozen = false → tl.swapping = true → 64 ≤ tl.flipped.length → tl.drained = true → ∃ s', exec (.planeDrained t) s = .next s'
      ∧ (s'.tile t.toNat).epoch = (!tl.epoch) ∧ (s'.tile t.toNat).swapping = false ∧ (s'.tile t.toNat).plane tl.epoch = none
      ∧ (s'.tile t.toNat).plane (!tl.epoch) = tl.plane (!tl.epoch)
      ∧ (h < 512 → tl.epoch = false → SMap.get? (s'.tile t.toNat).windows h = none))

/-! ### Region ports -/

/-- R170, R177: STRM binds a declared, free port to a legal descriptor and answers 0; it answers 9, 8 or 7 for the first check that
fails and binds nothing; a misaligned descriptor traps and opens no segment; while a pre-emption request is latched it stalls before a
segment that is not open (R338). -/
def Obligations.StreamBinding : Prop := ∀ (d a : Reg) (n : BitVec 6) (bs : List Byte) (w : W32) (ep : Bool),
  let open_ (s : State) (c : Ctx) : Prop := s.outstanding s.cur.toNat = false ∧ (c.segOpen = true ∨ s.latched s.cur.toNat = false)
  let reads (s : State) (c : Ctx) : Prop := open_ s c ∧ (c.r a).toNat % 32 = 0 ∧ s.ownRead s.cur.toNat c (c.r a) 32 = .ok bs
  let free (s : State) : Prop := let tl := s.tile s.cur.toNat
    tl.port? n.toNat = some (w, ep) ∧ tl.bound n.toNat = false ∧ tl.holdsBind n.toNat = false ∧ (vpOut w = true → (tl.buf (vKey n.toNat)).toks = [])
  let b (c : Ctx) : Strm := { out := vpOut w, desc := doublesOf 4 bs, asid := c.asid, xleft := (({ out := vpOut w, desc := doublesOf 4 bs, asid := c.asid } : Strm)).count }
  let answers (v : W64) (s : State) (c : Ctx) : State := s.setCtx s.cur.toNat ({ c with segOpen := true }.w d v).next
  Does (.strm d a n) (fun s c => reads s c ∧ free s ∧ (b c).legal = true) (fun s c =>
    let tl := s.tile s.cur.toNat
    (s.setTile s.cur.toNat { tl with ports := SMap.put tl.ports n.toNat (b c) }).setCtx s.cur.toNat ({ c with segOpen := true }.w d 0).next)
  ∧ Does (.strm d a n) (fun s c => reads s c ∧ (s.tile s.cur.toNat).port? n.toNat = none) (answers 9)
  ∧ Does (.strm d a n) (fun s c => reads s c ∧ (s.tile s.cur.toNat).port? n.toNat = some (w, ep) ∧ (s.tile s.cur.toNat).bound n.toNat = true) (answers 8)
  ∧ Does (.strm d a n) (fun s c => reads s c ∧ free s ∧ (b c).legal = false) (answers 7)
  ∧ Does (.strm d a n) (fun s c => open_ s c ∧ (c.r a).toNat % 32 ≠ 0) (fun s c => s.trap c 2 0 (c.r a))
  ∧ Does (.strm d a n) (fun s c => s.outstanding s.cur.toNat = false ∧ c.segOpen = false ∧ s.latched s.cur.toNat = true)
      (fun s c => s.setCtx s.cur.toNat { c with wait := .again })

/-- R178 to R180, R183: PWS, PWV and MKI put their token into the port where it has room, and wait where it has none; PRD answers the
header and the chosen lane of the oldest token, and takes it where bit 4 of its selector is set; PSTAT answers the port's status and clears
the flags that g(b) names, but for those raised in this island cycle (R75); a word that opens a segment stalls while a pre-emption request is
latched (R338); the port is checked as a word issues, and in its wait only the slot or the token ends it (R172, R356); PWV is checked and reads its
lanes as it issues, and its token carries them when a slot frees; DRAIN answers the count of dropped tokens once the tile is idle. -/
def Obligations.PortWords : Prop := ∀ (d a b : Reg) (n : BitVec 6) (x : Tok) (q : List Tok) (ls : Lanes),
  let hdr (gb : W64) : W32 := BitVec.ofNat 32 (bits64 gb 31 24 * 2 ^ 24 + bits64 gb 15 0 * 2 ^ 8 + bits64 gb 18 16 * 2 ^ 5)
  let kindOk (gb : W64) : Prop := bits64 gb 18 16 = 0 ∨ bits64 gb 18 16 = 1 ∨ bits64 gb 18 16 = 5
  let ready (s : State) (c : Ctx) : Prop := (c.segOpen = true ∨ s.latched s.cur.toNat = false) ∧ ((s.tile s.cur.toNat).injectable n.toNat = true ∨ (c.wait = .again ∧ c.segOpen = true))
  let stalls (i : Instr) : Prop :=
    Does i (fun s c => c.segOpen = false ∧ s.latched s.cur.toNat = true) (fun s c => s.setCtx s.cur.toNat { c with wait := .again })
  let puts (i : Instr) (ok : Ctx → Prop) (tok : Ctx → Tok) : Prop :=
    Does i (fun s c => ready s c ∧ ok c ∧ s.canInject s.cur.toNat n.toNat = true) (fun s c =>
        (s.inject s.cur.toNat n.toNat (tok c)).setCtx s.cur.toNat { c with segOpen := true }.next)
    ∧ Does i (fun s c => ready s c ∧ ok c ∧ s.canInject s.cur.toNat n.toNat = false) (fun s c =>
        s.setCtx s.cur.toNat { c with segOpen := true, wait := .again })
    ∧ stalls i
    ∧ Does i (fun s c => (c.segOpen = true ∨ s.latched s.cur.toNat = false) ∧ (s.tile s.cur.toNat).injectable n.toNat = false
          ∧ (c.wait ≠ .again ∨ c.segOpen = false))
        (fun s c => s.trap c 6 4 (n.setWidth 64))
  puts (.pws a b n) (fun c => kindOk (c.r b)) (fun c => ⟨hdr (c.r b), false, lanesOf fun i => if (c.r b).getLsbD i then (c.r a).setWidth 32 else 0⟩)
  ∧ puts (.mki a n) (fun c => (c.r a).toNat % 256 ∈ [0, 1, 2, 3, 16]) (fun c => mkMarker ((c.r a).toNat % 256) 0 false)
  ∧ (let issues (s : State) (c : Ctx) : Prop := (∀ ls, c.wait ≠ .slot ls) ∧ (c.segOpen = true ∨ s.latched s.cur.toNat = false)
    let may (s : State) (c : Ctx) : Prop := issues s c ∧ (s.tile s.cur.toNat).injectable n.toNat = true
      ∧ checkLocal s s.cur.toNat (c.r a) 64 64 = none ∧ kindOk (c.r b)
    let read (s : State) (c : Ctx) : Lanes := lanesOf fun i => (s.tile s.cur.toNat).seW32 ((c.r a).toNat + 4 * i)
    let turn (s : State) (c : Ctx) : State := s.setTile s.cur.toNat ((s.tile s.cur.toNat).seqAccess (c.r a).toNat)
    let sent (s : State) (c : Ctx) (ls : Lanes) : State :=
      (s.inject s.cur.toNat n.toNat ⟨hdr (c.r b), false, ls⟩).setCtx s.cur.toNat { c with segOpen := true }.next
    let waits (s : State) (c : Ctx) (ls : Lanes) : State := s.setCtx s.cur.toNat { c with segOpen := true, wait := .slot ls }
    Does (.pwv a b n) (fun s c => may s c ∧ (turn s c).canInject s.cur.toNat n.toNat = true) (fun s c => sent (turn s c) c (read s c))
    ∧ Does (.pwv a b n) (fun s c => may s c ∧ (turn s c).canInject s.cur.toNat n.toNat = false) (fun s c => waits (turn s c) c (read s c))
    ∧ Does (.pwv a b n) (fun s c => c.wait = .slot ls ∧ c.segOpen = true ∧ s.canInject s.cur.toNat n.toNat = true) (fun s c => sent s c ls)
    ∧ Does (.pwv a b n) (fun s c => c.wait = .slot ls ∧ c.segOpen = true ∧ s.canInject s.cur.toNat n.toNat = false) (fun s c => waits s c ls)
    ∧ stalls (.pwv a b n)
    ∧ Traps (.pwv a b n) (fun s c => issues s c ∧ (s.tile s.cur.toNat).injectable n.toNat = false) 6 4 (fun _ => n.setWidth 64)
    ∧ Traps (.pwv a b n) (fun s c => issues s c ∧ (s.tile s.cur.toNat).injectable n.toNat = true ∧ (c.r a).toNat % 64 ≠ 0) 2 0 (fun c => c.r a))
  ∧ (let value (c : Ctx) : W64 := x.hdr ++ (if x.kind ∈ [0, 1, 5] ∧ x.mask.getLsbD ((c.r a).toNat % 16) = true then x.lanes.at ((c.r a).toNat % 16) else 0)
    let may (s : State) (c : Ctx) : Prop := s.readable s.cur.toNat n.toNat = true ∨ c.wait = .again
    let has (s : State) (c : Ctx) : Prop := may s c ∧ ((s.tile s.cur.toNat).buf (vKey n.toNat)).toks = x :: q ∧ (s.tile s.cur.toNat).frozen = false
    Answers (.prd d a n) d (fun s c => has s c ∧ (c.r a).getLsbD 4 = false) (fun _ c => value c)
    ∧ Does (.prd d a n) (fun s c => may s c ∧ (((s.tile s.cur.toNat).buf (vKey n.toNat)).toks = [] ∨ (s.tile s.cur.toNat).frozen = true)) (fun s c =>
        s.setCtx s.cur.toNat { c with wait := .again })
    ∧ Does (.prd d a n) (fun s c => has s c ∧ (c.r a).getLsbD 4 = true) (fun s c =>
        ((s.setTile s.cur.toNat ((s.tile s.cur.toNat).pop (vKey n.toNat))).moved s.cur.toNat).setCtx s.cur.toNat (c.w d (value c)).next)
    ∧ Traps (.prd d a n) (fun s c => s.readable s.cur.toNat n.toNat = false ∧ c.wait ≠ .again) 6 4 (fun _ => n.setWidth 64))
  ∧ Goes (.pstat d b n) (fun _ _ => True) (fun s c t => t.ctxAt s.cur.toNat = some (c.w d (s.portStatus s.cur.toNat n.toNat)).next ∧ t.mem = s.mem
      ∧ ∀ w ep, (s.tile s.cur.toNat).port? n.toNat = some (w, ep) → isVe (vpSite w) = true →
          ((t.tile s.cur.toNat).ve (vpSite w)).flags = (((s.tile s.cur.toNat).ve (vpSite w)).flags &&& ~~~ (c.r b).setWidth 6)
            ||| ((s.tile s.cur.toNat).ve (vpSite w)).raised)
  ∧ Does (.drain d) (fun s c => s.tileIdle s.cur.toNat = true ∧ ((s.tile s.cur.toNat).frozen = false ∨ c.wait ≠ .again)) (fun s c =>
      (s.setTile s.cur.toNat { s.tile s.cur.toNat with dropped := 0 }).setCtx s.cur.toNat (c.w d ((s.tile s.cur.toNat).dropped.setWidth 64)).next)

/-- R157, R181, R182, R207: ACCZ clears its accumulator bank and the bank's damage bit, ACCRD answers one element of a bank, both once
no earlier matrix token of the macro is left; BKTOK takes, gives back and queries the owner of an SE bank, TAKE waiting for the grant; none of them ends its wait while the tile is frozen (R356). -/
def Obligations.BankWords : Prop := ∀ (d a : Reg) (n : BitVec 5) (t : TileId),
  let idle (s : State) : Prop := ∀ k ∈ (s.tile s.cur.toNat).mx.q, k.selects (n.toNat / 8) = false
  let free (s : State) (c : Ctx) : Prop := (s.tile s.cur.toNat).frozen = false ∨ c.wait ≠ .again
  let bank (c : Ctx) : Nat := (c.r a).toNat / 8192
  let owner (s : State) (t : Nat) (c : Ctx) : Nat := SMap.getD (s.tile t).banks (bank c) 0
  let setOwner (s : State) (t : Nat) (c : Ctx) (v : Nat) : State := s.setTile t { s.tile t with banks := SMap.put (s.tile t).banks (bank c) v }
  let inRange (c : Ctx) : Prop := (c.r a).toNat < 2 ^ 20
  Goes (.accz n) (fun s c => idle s ∧ free s c) (fun s c u => u.ctxAt s.cur.toNat = some c.next ∧ u.mem = s.mem
      ∧ (∀ r k, (u.tile s.cur.toNat).mx.acc n.toNat r k = 0)
      ∧ (u.tile s.cur.toNat).mx.dmg = (s.tile s.cur.toNat).mx.dmg &&& ~~~ (1#32 <<< n.toNat)
      ∧ ∀ m r k, m ≠ n.toNat → (u.tile s.cur.toNat).mx.acc m r k = (s.tile s.cur.toNat).mx.acc m r k)
  ∧ Does (.accz n) (fun s c => ¬ (idle s ∧ free s c)) (fun s c => s.setCtx s.cur.toNat { c with wait := .again })
  ∧ Does (.accrd d a n) (fun s c => ¬ (idle s ∧ free s c)) (fun s c => s.setCtx s.cur.toNat { c with wait := .again })
  ∧ Does (.bktokTake d a) (fun s c => inRange c ∧ ¬ free s c) (fun s c => s.setCtx s.cur.toNat { c with wait := .again })
  ∧ Answers (.accrd d a n) d (fun s c => idle s ∧ free s c) (fun s c =>
      ((s.tile s.cur.toNat).mx.acc n.toNat ((c.r a).toNat % 16) ((c.r a).toNat / 16 % 128)).setWidth 64)
  ∧ Does (.bktokTake d a) (fun s c => inRange c ∧ free s c ∧ (owner s s.cur.toNat c = 0 ∨ owner s s.cur.toNat c = 2)) (fun s c =>
      (setOwner s s.cur.toNat c 2).setCtx s.cur.toNat (c.w d 0).next)
  ∧ Does (.bktokTake d a) (fun s c => inRange c ∧ owner s s.cur.toNat c = 1 ∧ ((s.tile s.cur.toNat).se (seSite (8192 * bank c))).eos = false)
      (fun s c => s.setCtx s.cur.toNat { c with wait := .again })
  ∧ Answers (.bktokGive d a) d (fun s c => inRange c ∧ owner s s.cur.toNat c ≠ 2 ∧ owner s s.cur.toNat c ≠ 3) (fun _ _ => 1)
  ∧ Does (.bktokGive d a) (fun s c => inRange c ∧ (owner s s.cur.toNat c = 2 ∨ owner s s.cur.toNat c = 3)) (fun s c =>
      (setOwner s s.cur.toNat c (if (s.tile s.cur.toNat).claims (bank c) then 1 else 0)).setCtx s.cur.toNat (c.w d 0).next)
  ∧ Answers (.bktokQuery d a) d (fun _ c => inRange c) (fun s c => BitVec.ofNat 64 (owner s s.cur.toNat c))
  ∧ Traps (.bktokTake d a) (fun _ c => ¬ inRange c) 3 0 (fun c => c.r a)
  ∧ Traps (.bktokGive d a) (fun _ c => ¬ inRange c) 3 0 (fun c => c.r a)
  ∧ Traps (.bktokQuery d a) (fun _ c => ¬ inRange c) 3 0 (fun c => c.r a)
  ∧ (∀ s c, s.ctxAt t.toNat = some c → c.wait = .again → decode c.word = .ok (.bktokTake d a) →
      (s.tile t.toNat).frozen = false → owner s t.toNat c = 1 → ((s.tile t.toNat).se (seSite (8192 * bank c))).eos = true →
      exec (.bktokGrant t) s = .next ((setOwner s t.toNat c 3).setCtx t.toNat (c.w d 0).next))
/-! ### The fabric -/

/-- R151, R153, R154, R188 to R190: a data firing consumes one data head from every port of its read set that is not held and computes
its results as it enters the six stages; a marker firing consumes the marker from every port and sends it on behind what the stages
emit; neither touches memory or a context. -/
def Obligations.VeFirings : Prop := ∀ (s : State) (t : TileId) (site : Nat) (c : VeCfg) (l : List (Nat × Nat × Nat)) (r code : Nat),
  let tl : Tile := s.tile t.toNat
  let ep : Bool := tl.siteEp site
  let ready : Prop := site < 64 ∧ tl.veCfg site = some c ∧ tl.presented c site = some l ∧ l ≠ [] ∧ tl.frozen = false
    ∧ (tl.ve site).ready = true ∧ s.writeFree t.toNat site c = true
  (ready → isectOn c = false → (∀ x ∈ l, x.2.1 = 0) → ∃ u f, exec (.veDataFiring t site) s = .next u
    ∧ ((u.tile t.toNat).ve site).pipe = (tl.ve site).pipe ++ [f] ∧ f.marker = false ∧ f.ep = ep ∧ f.started = false
    ∧ (let p := runStages (stepData ⟨(readSet c).map fun k => (k, tl.fireHead c site k), tl.warp, c.st⟩) c.st (Pass.start (tl.ve site))
       f.flags = p.flags ∧ ((u.tile t.toNat).ve site).acc0 = p.acc0 ∧ ((u.tile t.toNat).ve site).acc1 = p.acc1
       ∧ (∀ ls m, p.out0 = some (ls, m) → ∃ x, f.o0 = [x] ∧ x.lanes = ls ∧ x.mask = m ∧ x.ep = ep) ∧ (p.out0 = none → f.o0 = []))
    ∧ (∀ k ∈ readSet c, (u.tile t.toNat).queue site k = if portHold c k then tl.queue site k else (tl.queue site k).drop 1)
    ∧ (∀ k < 4, k ∉ readSet c → (u.tile t.toNat).queue site k = tl.queue site k) ∧ u.mem = s.mem ∧ u.ctxs = s.ctxs)
  ∧ (ready → isectOn c = false → r ≠ 0 → (∀ x ∈ l, x.2.1 = r ∧ x.2.2 = code) → (∀ k ∈ readSet c, ∃ x, tl.shown c site k = .head x) →
    ∃ u f, exec (.veMarkerFiring t site) s = .next u
    ∧ ((u.tile t.toNat).ve site).pipe = (tl.ve site).pipe ++ [f] ∧ f.marker = true ∧ f.ep = ep
    ∧ (writes c 0 = true → f.o0.getLast? = some (mkMarker code (bits (portWord c 4) 12 8) ep))
    ∧ (writes c 1 = true → f.o1.getLast? = some (mkMarker code (bits (portWord c 5) 12 8) ep))
    ∧ ((u.tile t.toNat).ve site).eos = ((tl.ve site).eos || code == 3)
    ∧ (∀ k ∈ readSet c, (u.tile t.toNat).queue site k = (tl.queue site k).drop 1) ∧ u.mem = s.mem ∧ u.ctxs = s.ctxs)

/-- R75, R151, R154, R189, R192, R193: ports of unequal rank discard the lowest; the intersection unit consumes the lower of two keys and
joins equal ones; a firing that leaves the stages sets its flags and puts its result into the queue of its region port, or where the plane now
active does not name that port there (R230) the result is stray. -/
def Obligations.VeSteps : Prop := ∀ (s : State) (t : TileId) (site i j : Nat) (c : VeCfg) (l : List (Nat × Nat × Nat)) (low : Nat) (x y : Tok)
    (p : Plane) (vp : Nat) (f : Firing) (fs : List Firing),
  let tl : Tile := s.tile t.toNat
  let key (z : Tok) (n : Nat) : BitVec 16 := (z.lanes.at n).extractLsb' 16 16
  let compare : Prop := site < 64 ∧ tl.veCfg site = some c ∧ tl.frozen = false ∧ isectOn c = true ∧ (tl.ve site).pairs.length < 16
    ∧ (tl.own site 0).head? = some x ∧ (tl.own site 1).head? = some y ∧ x.isMarker = false ∧ y.isMarker = false
    ∧ firstLane x = some i ∧ firstLane y = some j
    ∧ (∀ z, (tl.ve site).lastA = some z → z < key x i) ∧ (∀ z, (tl.ve site).lastB = some z → z < key y j)
  (site < 64 → tl.veCfg site = some c → tl.presented c site = some l → tl.frozen = false → isectOn c = false →
      (∃ a ∈ l, ∃ b ∈ l, a.2 ≠ b.2) → (∃ a ∈ l, a.2.1 = low) → (∀ a ∈ l, low ≤ a.2.1) →
      ∃ u, exec (.veRankDiscard t site) s = .next u ∧ u.mem = s.mem ∧ u.ctxs = s.ctxs
        ∧ (∀ a ∈ l, a.2.1 ≠ low → (u.tile t.toNat).queue site a.1 = tl.queue site a.1)
        ∧ (∀ a ∈ l, ∀ z, a.2.1 = low → tl.shown c site a.1 = .head z → (portHold c a.1 = false ∨ z.isMarker = true) →
            (u.tile t.toNat).queue site a.1 = (tl.queue site a.1).drop 1))
  ∧ (compare → key x i < key y j → ∃ u, exec (.isectCompare t site) s = .next u ∧ ((u.tile t.toNat).ve site).lastA = some (key x i)
      ∧ ((u.tile t.toNat).ve site).pairs = (tl.ve site).pairs ∧ (u.tile t.toNat).queue site 1 = tl.queue site 1
      ∧ (u.tile t.toNat).queue site 0 = (tl.takeElem site 0).queue site 0 ∧ u.mem = s.mem)
  ∧ (compare → key y j < key x i → ∃ u, exec (.isectCompare t site) s = .next u ∧ ((u.tile t.toNat).ve site).lastB = some (key y j)
      ∧ ((u.tile t.toNat).ve site).pairs = (tl.ve site).pairs ∧ (u.tile t.toNat).queue site 0 = tl.queue site 0
      ∧ (u.tile t.toNat).queue site 1 = (tl.takeElem site 1).queue site 1 ∧ u.mem = s.mem)
  ∧ (compare → key x i = key y j → ∃ u, exec (.isectCompare t site) s = .next u
      ∧ ((u.tile t.toNat).ve site).pairs = (tl.ve site).pairs ++ [(x.lanes.at i, y.lanes.at j)] ∧ u.mem = s.mem)
  ∧ (site < 64 → (tl.ve site).pipe = f :: fs → f.o0 = [x] → f.r0 = true → f.o1 = [] → f.r1 = false → x.ep = f.ep → tl.plane f.ep = some p →
      SMap.get? p.ves site = some c → p.outVp site 0 = some vp →
      ∃ u, exec (.veFiringResult t site) s = .next u ∧ ((u.tile t.toNat).ve site).pipe = fs
        ∧ ((u.tile t.toNat).ve site).flags = (tl.ve site).flags ||| f.flags
        ∧ ((u.tile t.toNat).ve site).raised = (tl.ve site).raised ||| f.flags
        ∧ ((u.tile t.toNat).buf (vKey vp)).toks = (tl.buf (vKey vp)).toks ++ (if tl.queues site 0 vp then [x] else [])
        ∧ (u.tile t.toNat).stray = (if tl.queues site 0 vp then tl.stray else sat32 tl.stray 1) ∧ u.mem = s.mem ∧ u.ctxs = s.ctxs)

/-- R54, R158 to R161, R166: a token moves from its link into the input port that its switch word names, or over a cut edge while the window
lasts and its far end is not frozen; where the links of one hop take turns and a token of the new epoch waits at a site that has not swapped; a
ring's oldest entry returns to its link, the old plane's first, and a stray one goes; no token passes a ring; a freed slot is reported; a
receiver grants and raises windows; the router drops a bad header and sends every other token to its site. When a receiver has swapped to the
configuration that holds an edge is the model's reading (log 75); that a ring entry holds its token in 72 bytes, as a saved token, is the model's
choice (log 14). -/
def Obligations.LinkSteps : Prop := ∀ (s : State) (t : TileId) (site li h e pa key : Nat) (p : Plane) (w : BitVec 16) (x : Tok) (q : List Tok)
    (k : CutCfg) (r : RingCfg) (z : InTok) (zs : List InTok),
  let tl : Tile := s.tile t.toNat
  let at_ : Prop := site < 64 ∧ li < 8 ∧ tl.frozen = false ∧ (tl.buf (lKey site li)).toks = x :: q ∧ tl.plane x.ep = some p ∧ p.link site li = some w
    ∧ tl.early site x.ep = false
  let win (tl : Tile) (ep : Bool) : Nat := SMap.getD tl.windows (eKey site li ep) 0
  let rx : Tile := s.tile (k.tile.toNat % 1024)
  let first : Bool := decide (0 < (tl.buf (lKey site li)).ahead)
  let back : Tok := tokOfBytes (s.seen.bytes pa 72)
  let ring : Prop := site < 64 ∧ li < 8 ∧ tl.frozen = false ∧ tl.ringHt site li tl.epoch = (h, e) ∧ h < e ∧ tl.plane tl.epoch = some p
    ∧ tl.ring? site li tl.epoch = some r ∧ p.link site li = some w ∧ s.ringPa p r h = some pa
  (at_ → SMap.get? p.cuts (8 * site + li) = none → 4 ≤ swTo w → tl.takes site (swTo w - 4) x x.ep = true → tl.isStray site x = false →
      (tl.buf (qKey site (swTo w - 4))).free 4 > 0 → ∃ u, exec (.linkTokenMove t site li) s = .next u
        ∧ (u.tile t.toNat).queue site (swTo w - 4) = tl.queue site (swTo w - 4) ++ [x] ∧ ((u.tile t.toNat).buf (lKey site li)).toks = q
        ∧ u.mem = s.mem ∧ u.ctxs = s.ctxs)
  ∧ (at_ → s.hopTurn t.toNat site li = true → SMap.get? p.cuts (8 * site + li) = some k → 0 < win tl x.ep → k.tile.toNat / 1024 = s.hub.pkg.toNat →
      rx.frozen = false → k.tile.toNat % 1024 ≠ t.toNat → ∃ u, exec (.linkTokenMove t site li) s = .next u
        ∧ (u.tile (k.tile.toNat % 1024)).inq = (if first then rx.inq.map (fun y => { y with ahead := true }) else rx.inq)
          ++ [⟨1024 * t.toNat + eKey site li x.ep, k.site, none, x, first⟩]
        ∧ ((u.tile t.toNat).buf (lKey site li)).toks = q
        ∧ win (u.tile t.toNat) x.ep = win tl x.ep - 1)
  ∧ (tl.frozen = true ∨ s.hopTurn t.toNat site li = false → exec (.linkTokenMove t site li) s = .next s)
  ∧ (at_ → SMap.get? p.cuts (8 * site + li) = some k → k.tile.toNat / 1024 = s.hub.pkg.toNat → rx.frozen = true →
      exec (.linkTokenMove t site li) s = .next s)
  ∧ ((tl.buf (lKey site li)).toks = x :: q → tl.early site x.ep = true → exec (.linkTokenMove t site li) s = .next s)
  ∧ (ring → 0 < tl.linkFree site li (swSlots w) tl.epoch → tl.linkStray site li back = false →
      ∃ u, exec (.ringRefill t site li) s = .next u ∧ (u.tile t.toNat).ringHt site li tl.epoch = (h + 1, e) ∧ u.mem = s.mem
        ∧ ((u.tile t.toNat).buf (lKey site li)).toks = (tl.buf (lKey site li)).toks ++ [back])
  ∧ (ring → 0 < tl.linkFree site li (swSlots w) tl.epoch → tl.linkStray site li back = true → tl.strict = false →
      ∃ u, exec (.ringRefill t site li) s = .next u ∧ (u.tile t.toNat).ringHt site li tl.epoch = (h + 1, e) ∧ u.mem = s.mem
        ∧ ((u.tile t.toNat).buf (lKey site li)).toks = (tl.buf (lKey site li)).toks ∧ (u.tile t.toNat).stray = sat32 tl.stray 1)
  ∧ (ring → tl.linkFree site li (swSlots w) tl.epoch = 0 → exec (.ringRefill t site li) s = .next s)
  ∧ (tl.ringHeld site li false = true ∨ tl.ringHeld site li true = true → tl.linkStray site li x = false →
      s.canTake x (.link t.toNat site li key) = true → (s.spill x (.link t.toNat site li key)).isSome = true)
  ∧ ((tl.buf key).ret ≠ 0 → exec (.creditReturn t key) s =
      .next (s.setTile t.toNat (tl.setBuf key { tl.buf key with ret := (tl.buf key).ret - 1 })))
  ∧ (tl.plane (tl.siteEp site) = some p → SMap.get? p.cuts (8 * site + li) = some k → p.link site li = some w → k.tile.toNat / 1024 = s.hub.pkg.toNat →
      SMap.get? tl.windows (eKey site li (tl.siteEp site)) ≠ none ∨ (rx.swapping = false ∧ rx.plane rx.epoch ≠ none) → rx.inq = [] → win tl (tl.siteEp site) < swSlots w →
      ∃ u, exec (.cutEdgeWindowGrant t site li) s = .next u ∧ win (u.tile t.toNat) (tl.siteEp site)
        = if SMap.get? tl.windows (eKey site li (tl.siteEp site)) = none then swSlots w else win tl (tl.siteEp site) + 1)
  ∧ (tl.frozen = false → tl.inq = z :: zs → z.tok.kind = 7 → exec (.routerIngress t) s = .next ((s.setTile t.toNat { tl with inq := zs }).countTile t.toNat 6 1))
  ∧ (tl.frozen = false → tl.inq = z :: zs → badHeader z = false → z.xe8 = none → s.canSend t.toNat z.site 6 z.tok = true →
      exec (.routerIngress t) s = .next (let u := (s.setTile t.toNat { tl with inq := zs }).send t.toNat z.site 6 z.tok
        if z.ahead then u.carry (s.dests t.toNat z.site 6 z.tok) else u))

/-- R49, R123, R156, R157: every way on of the modes RAM, FIFO, spill ring and lookup table, for any state in which the site stands in the mode and
no bank that it would access stalls it. A RAM read comes back with the words its lanes address, 0 and a count for each bad address; a RAM
write stores its pairs, each bad one dropped and counted, and no other byte changes; the FIFO sends its oldest token and takes the head of I0
in; a lookup answers word by index, beyond limit a free value (log 18); that a lane or a pair with a clear mask bit does nothing (log 77) and
that tokens of a FIFO stand beside its bank (log 14) are the model's choices; markers pass to O0, but one at I1 is consumed; what cannot be sent
waits. -/
def Obligations.SeSteps : Prop := ∀ (s : State) (t : TileId) (site j : Nat) (x y : Tok) (q : List Tok),
  let tl : Tile := s.tile t.toNat
  let w : W32 := tl.seWord site
  let e : Se := tl.se site
  let base : Nat := seBase site + seLo w
  let runs (mode : Nat) : Prop := isVe site = false ∧ tl.frozen = false ∧ tl.seMode site = mode
  let bytes (i : Nat) : Nat := (x.lanes.at i).toNat
  let good (i : Nat) : Prop := bytes i % 4 = 0 ∧ seLo w + bytes i + 4 ≤ seHi w
  let inside (i : Nat) : Prop := seLo w + 4 * bytes i + 4 ≤ seHi w
  let found (i : Nat) : W32 := if x.mask.getLsbD i = false then 0 else if inside i then tl.seW32 (base + 4 * bytes i)
    else (Config.freeWord (s.free + i)).setWidth 32
  let took (k : Nat) (u : Tile → Tile) : State := s.setTile t.toNat (u (tl.pop (qKey site k)))
  let passes (i : Instr) : Prop :=
    (s.canSend t.toNat site 4 x = true → exec i s = .next ((took 0 fun u => u.seEos site x).send t.toNat site 4 x))
    ∧ (s.canSend t.toNat site 4 x = false → exec i s = .next s)
  let answers (i : Instr) (out : Tok) (did : State) : Prop :=
    (s.canSend t.toNat site 4 out = true → exec i s = .next (did.send t.toNat site 4 out))
    ∧ (s.canSend t.toNat site 4 out = false → exec i s = .next s)
  -- RAM, reads
  (runs 1 → tl.seHead site 0 = some x → x.isMarker = true → passes (.seRamRead t site))
  ∧ (runs 1 → tl.seHead site 0 = some x → x.isMarker = false →
      (∀ i < 16, x.mask.getLsbD i = true → good i → tl.stalled (base + bytes i) = false) →
      answers (.seRamRead t site) { x with lanes := lanesOf fun i => if x.mask.getLsbD i = true ∧ good i then tl.seW32 (base + bytes i) else 0 }
        ((took 0 id).drop t.toNat ((List.range 16).filter fun i => x.mask.getLsbD i && decide (¬ good i)).length))
  ∧ (runs 1 → tl.seHead site 0 = none → exec (.seRamRead t site) s = .next s)
  -- RAM, writes
  ∧ (runs 1 → tl.seHead site 1 = some x → x.isMarker = true → exec (.seRamWrite t site) s = .next ((took 1 id).progress t.toNat))
  ∧ (let acts (j : Nat) : Prop := j < 8 ∧ x.mask.getLsbD (2 * j) = true ∧ x.mask.getLsbD (2 * j + 1) = true ∧ good (2 * j)
    runs 1 → tl.seHead site 1 = some x → x.isMarker = false → (∀ i, acts i → tl.stalled (base + bytes (2 * i)) = false) →
    ∃ u n, exec (.seRamWrite t site) s = .next ((((s.setTile t.toNat u).drop t.toNat n)).moved t.toNat)
      ∧ n = ((List.range 8).filter fun i => x.mask.getLsbD (2 * i) && x.mask.getLsbD (2 * i + 1) && decide (¬ good (2 * i))).length
      ∧ u.queue site 1 = (tl.queue site 1).drop 1
      ∧ (acts j → (∀ k, acts k → j < k → bytes (2 * k) ≠ bytes (2 * j)) →
          u.seBytes (base + bytes (2 * j)) 4 = leBytes 4 (x.lanes.at (2 * j + 1)).toNat)
      ∧ (∀ a, (∀ i, acts i → a < base + bytes (2 * i) ∨ base + bytes (2 * i) + 4 ≤ a) → u.seByte a = tl.seByte a))
  ∧ (runs 1 → tl.seHead site 1 = none → exec (.seRamWrite t site) s = .next s)
  -- FIFO and spill ring
  ∧ (let gone : State := (s.setTile t.toNat ((tl.setSe site { e with fifo := q, first := (e.first + 1) % max 1 (tl.fifoCap site) }).seEos site y)).send
        t.toNat site 4 y
    let leaves : Prop := e.fifo = y :: q ∧ tl.entryStalls site e.first = false ∧ s.canSend t.toNat site 4 y = true
    let waits : Prop := e.fifo = [] ∨ (e.fifo = y :: q ∧ s.canSend t.toNat site 4 y = false)
    let room (v : State) : Prop := ((v.tile t.toNat).se site).fifo.length < (v.tile t.toNat).fifoCap site
    let enters (v : State) : Prop := (v.tile t.toNat).seHead site 0 = some x ∧ room v
      ∧ (v.tile t.toNat).entryStalls site (((v.tile t.toNat).se site).first + ((v.tile t.toNat).se site).fifo.length) = false
    let none_ (v : State) : Prop := (v.tile t.toNat).seHead site 0 = none ∨ ¬ room v
    let taken (v : State) : State := let u := v.tile t.toNat
      (v.setTile t.toNat ((u.pop (qKey site 0)).setSe site { u.se site with fifo := (u.se site).fifo ++ [x] })).moved t.toNat
    runs 2 ∨ runs 3 →
      (leaves → enters gone → exec (.seFifoPass t site) s = .next (taken gone)) ∧ (leaves → none_ gone → exec (.seFifoPass t site) s = .next gone)
      ∧ (waits → enters s → exec (.seFifoPass t site) s = .next (taken s)) ∧ (waits → none_ s → exec (.seFifoPass t site) s = .next s)
      ∧ tl.fifoCap site = (seHi w - seLo w) / 72)
  -- lookup table
  ∧ (runs 4 → tl.seHead site 0 = some x → x.isMarker = true → passes (.seLutLookup t site))
  ∧ (runs 4 → tl.seHead site 0 = some x → x.isMarker = false →
      (∀ i < 16, x.mask.getLsbD i = true → inside i → tl.stalled (base + 4 * bytes i) = false) →
      answers (.seLutLookup t site) { x with lanes := lanesOf found } ((took 0 id).draw 16))
  ∧ (runs 4 → tl.seHead site 0 = none → exec (.seLutLookup t site) s = .next s)

/-- R49, R123, R157, R279 to R281: every way on of a warp reference store, for any state in which no bank that it would access stalls it. A set-up
token places the window, or is refused and counted; features and metadata fill its cells in order, are counted where there is no cell for
them, and EOT on both completes the fill; a request is answered with the features and the summary of each valid lane; a marker passes
behind the answers. The answer of a lane is that of the cells of non-zero weight, or `out`. How many tokens a refused, disabled or full store
counts is the model's reading (log 36); that a feature lane whose mask bit is clear is stored as 0, that set-up and metadata lanes are taken
whatever their mask, and that the answers go on the virtual channel of their request is the model's choice (log 100). -/
def Obligations.WarpStoreSteps : Prop := ∀ (s : State) (t : TileId) (site i : Nat) (x y : Tok) (q : List Tok) (f : Nat → Lanes) (g : Nat → W32) (r : W32),
  let tl : Tile := s.tile t.toNat
  let w : W32 := tl.seWord site
  let e : Se := tl.se site
  let runs : Prop := isVe site = false ∧ tl.frozen = false ∧ tl.seMode site = 5
  let la (k : Nat) : Nat := seBase site + seLo w + 72 * k
  let cells (z : Tok) : Nat := (z.lanes.at 2).toNat * (z.lanes.at 3).toNat
  let fits (z : Tok) : Prop := 0 < cells z ∧ cells z * 9 ≤ seHi w / 8 - seLo w / 8 ∧ (z.lanes.at 4).toNat ≤ 2
  let placed (z : Tok) (on : Bool) : Se := { e with
    on := on, ox := z.lanes.at 0, oy := z.lanes.at 1, ww := (z.lanes.at 2).toNat, wh := (z.lanes.at 3).toNat
    fmt := (z.lanes.at 4).toNat, fill := 0, done1 := false, done2 := false }
  let gets (k : Nat) (v : Se) : State := s.setTile t.toNat ((tl.pop (qKey site k)).setSe site v)
  let sets : Prop := runs ∧ e.outq = [] ∧ tl.seHead site 3 = some x
  -- set-up
  (sets → x.kind = 0 → fits x → exec (.warpStoreSetup t site) s = .next ((gets 3 (placed x true)).moved t.toNat))
  ∧ (sets → x.kind = 0 → ¬ fits x → exec (.warpStoreSetup t site) s = .next ((gets 3 (placed x false)).drop t.toNat 1))
  ∧ (sets → x.isMarker = true → exec (.warpStoreSetup t site) s = .next ((s.setTile t.toNat (tl.pop (qKey site 3))).progress t.toNat))
  ∧ (runs → e.outq ≠ [] ∨ tl.seHead site 3 = none → exec (.warpStoreSetup t site) s = .next s)
  -- the fill
  ∧ (let both : Prop := runs ∧ tl.seHead site 1 = some x ∧ tl.seHead site 2 = some y
    let popped : Tile := (tl.pop (qKey site 1)).pop (qKey site 2)
    (both → x.kind = 0 → y.kind = 0 → e.on = true → e.fill < e.ww * e.wh → tl.stalledIn (la e.fill) 68 = false →
      ∃ u, exec (.warpStoreFill t site) s = .next ((s.setTile t.toNat u).moved t.toNat) ∧ u.se site = { e with fill := e.fill + 1 }
        ∧ (∀ ch < 16, u.seBytes (la e.fill + 4 * ch) 4 = leBytes 4 (featureChan e.fmt x ch).toNat)
        ∧ u.seBytes (la e.fill + 64) 4 = leBytes 4 (y.lanes.at 0).toNat
        ∧ (∀ a, a < la e.fill ∨ la e.fill + 68 ≤ a → u.seByte a = tl.seByte a)
        ∧ u.queue site 1 = (tl.queue site 1).drop 1 ∧ u.queue site 2 = (tl.queue site 2).drop 1)
    ∧ (both → x.kind = 0 → y.kind = 0 → e.on = false ∨ e.ww * e.wh ≤ e.fill →
      exec (.warpStoreFill t site) s = .next ((s.setTile t.toNat popped).drop t.toNat 2))
    ∧ (runs → tl.seHead site 1 = some x → x.isMarker = true → exec (.warpStoreFill t site) s =
      .next ((gets 1 (if x.index = 2 then { e with done1 := true } else e)).progress t.toNat))
    ∧ (runs → tl.seHead site 1 = none ∨ (tl.seHead site 1 = some x ∧ x.kind = 0) → tl.seHead site 2 = some y → y.isMarker = true →
      exec (.warpStoreFill t site) s = .next ((gets 2 (if y.index = 2 then { e with done2 := true } else e)).progress t.toNat)))
  -- requests
  ∧ (let sum : Tok := ⟨mkHdr x.index x.mask.toNat 0 x.vc, x.ep, lanesOf fun i => if x.mask.getLsbD i then g i else 0⟩
    let feats : List Tok := ((List.range 16).filter fun i => x.mask.getLsbD i).map fun i => ⟨mkHdr i 0xFFFF 0 x.vc, x.ep, f i⟩
    let asked : Prop := runs ∧ e.outq = [] ∧ tl.seHead site 0 = some x ∧ x.kind = 0
      ∧ ∀ i < 16, x.mask.getLsbD i = true → tl.warpStalls site w e (x.lanes.at i) = false
    (asked → (∀ i < 16, x.mask.getLsbD i = true → warpAnswer tl site w e (x.lanes.at i) = some (f i, g i)) →
      (s.canSend t.toNat site 5 sum = true → exec (.warpStoreRequest t site) s = .next ((gets 0 { e with outq := feats }).send t.toNat site 5 sum))
      ∧ (s.canSend t.toNat site 5 sum = false → exec (.warpStoreRequest t site) s = .next s))
    ∧ (asked → i < 16 → x.mask.getLsbD i = true → warpAnswer tl site w e (x.lanes.at i) = none → exec (.warpStoreRequest t site) s = .next s))
  ∧ (runs → e.outq = y :: q → s.canSend t.toNat site 4 y = true →
      exec (.warpStoreRequest t site) s = .next ((s.setTile t.toNat (tl.setSe site { e with outq := q })).send t.toNat site 4 y))
  -- the answer of a lane
  ∧ (let sx : Int := sextNat 16 (r.toNat % 65536)
    let sy : Int := sextNat 16 (r.toNat / 65536)
    let S : List (Int × Int × Nat) := [(sx / 64, sy / 64, (64 - (sx % 64).toNat) * (64 - (sy % 64).toNat)),
      (sx / 64 + 1, sy / 64, (sx % 64).toNat * (64 - (sy % 64).toNat)), (sx / 64, sy / 64 + 1, (64 - (sx % 64).toNat) * (sy % 64).toNat),
      (sx / 64 + 1, sy / 64 + 1, (sx % 64).toNat * (sy % 64).toNat)].filter fun c => c.2.2 ≠ 0
    let out (c : Int × Int × Nat) : Prop := c.1 < 0 ∨ c.2.1 < 0 ∨ (e.ww : Int) ≤ c.1 ∨ (e.wh : Int) ≤ c.2.1
    let at_ (c : Int × Int × Nat) : Nat := c.2.1.toNat * e.ww + c.1.toNat
    let scaled (c : Int × Int × Nat) (ch : Nat) : W32 := (round32 0 ((num32 (tl.seW32 (la (at_ c) + 4 * ch))).mul (.fin false c.2.2 (-12))).1).1
    (e.on = false ∨ (∃ c ∈ S, out c) → warpAnswer tl site w e r = some (lanesOf fun _ => 0, 0x80000000))
    ∧ (e.on = true → (∀ c ∈ S, ¬ out c) → (e.done1 = false ∨ e.done2 = false) → (∃ c ∈ S, e.fill ≤ at_ c) → warpAnswer tl site w e r = none)
    ∧ (e.on = true → (∀ c ∈ S, ¬ out c) → (∀ c ∈ S, at_ c < e.fill) → ∃ fs m, warpAnswer tl site w e r = some (fs, m)
        ∧ (∀ c, S = [c] → ∀ ch < 16, fs.at ch = scaled c ch)
        ∧ (∀ c d, S = [c, d] → ∀ ch < 16, fs.at ch = (fadd 0 (scaled c ch) (scaled d ch)).1)
        ∧ (m.getLsbD 30 = true ↔ sx % 64 ≠ 0 ∨ sy % 64 ≠ 0) ∧ m.getLsbD 31 = false
        ∧ (m.getLsbD 24 = true ↔ ∃ c ∈ S, (tl.seW32 (la (at_ c) + 64)).getLsbD 24 = true)
        ∧ (m.getLsbD 25 = true ↔ ∃ c ∈ S, (tl.seW32 (la (at_ c) + 64)).getLsbD 25 = true)
        ∧ (∀ c ∈ S, (tl.seW32 (la (at_ c) + 64)).toNat % 256 ≤ m.toNat % 256)
        ∧ ∀ c ∈ S, (tl.seW32 (la (at_ c) + 64)).toNat / 256 % 65536 ≤ m.toNat / 256 % 65536))
  -- markers
  ∧ (runs → e.outq = [] → tl.seHead site 0 = some x → x.isMarker = true → s.canTakeAll x (s.dests t.toNat site 4 x ++ s.dests t.toNat site 5 x) = true →
    exec (.warpStoreMarker t site) s = .next (((s.setTile t.toNat ((tl.pop (qKey site 0)).seEos site x)).send t.toNat site 4 x).send t.toNat site 5 x))
  ∧ (runs → e.outq ≠ [] ∨ tl.seHead site 0 = none ∨ (tl.seHead site 0 = some x ∧ s.canTakeAll x (s.dests t.toNat site 4 x ++ s.dests t.toNat site 5 x) = false) →
    exec (.warpStoreMarker t site) s = .next s)
/-! ### Streams and the matrix node -/

/-- R148, R169, R170: a loader sends the reads of its next token and puts the bytes that came into the port; a storer sends the writes of the
lanes whose mask bit is set to consecutive words of the token's address, which their homes perform (HomeAccess), ends its stream after count
data tokens, drops and counts what comes behind, and takes EOS once every write before it is performed, which ends the binding; an XE8 stream of
which all has gone to the decoder ends once that has injected it. -/
def Obligations.StreamSteps : Prop := ∀ (s : State) (t : TileId) (vp : Nat) (b : Strm) (e : TlbEnt) (bs : List Byte) (x : Tok) (q : List Tok),
  let tl : Tile := s.tile t.toNat
  let va : W64 := b.addr b.issued
  let live : Prop := SMap.get? tl.ports vp = some b ∧ b.ended = false ∧ b.xe8 = false ∧ b.sent = false
  let stores : Prop := SMap.get? tl.ports vp = some b ∧ b.eosIn = false ∧ b.out = true ∧ tl.frozen = false ∧ (tl.buf (vKey vp)).toks = x :: q
  (live → b.out = false → b.issued < b.count → b.issued < b.done + 64 → va.toNat % 64 + b.bpt ≤ 64 → 0 < b.bpt →
      tlbFind (s.htlb (.engine (tileDie t.toNat) b.edge)) b.asid va = some e → e.r = true → ringed s b.asid va = false →
      ∃ u r, exec (.streamLoaderRead t vp) s = .next u ∧ u.reqs = s.reqs ++ [r] ∧ r.agent = .stream t.toNat vp b.issued 0 ∧ r.op = .read
        ∧ r.pa = e.pa + (va.toNat - e.va) ∧ r.n = b.bpt ∧ r.st = .issued ∧ SMap.get? (u.tile t.toNat).ports vp = some { b with issued := b.issued + 1 }
        ∧ u.mem = s.mem ∧ u.ctxs = s.ctxs)
  ∧ (live → b.out = false → (b.seg = true → b.sotOut = true) → b.done + 1 < b.count → b.done ≠ b.issued →
      s.engData (strmAgent t.toNat vp b.done) (b.addr b.done) b.bpt = some bs → s.canInject t.toNat vp = true →
      ∃ u b', exec (.streamLoadInject t vp) s = .next u ∧ SMap.get? (u.tile t.toNat).ports vp = some b' ∧ b'.done = b.done + 1
        ∧ u.mem = (s.inject t.toNat vp (byteTok 0 bs)).mem ∧ (u.tile t.toNat).bufs = ((s.inject t.toNat vp (byteTok 0 bs)).tile t.toNat).bufs
        ∧ ∀ r ∈ u.reqs, ∀ i ≤ 1, r.agent ≠ .stream t.toNat vp b.done i)
  ∧ (SMap.get? tl.ports vp = some b → b.ended = false → b.out = false → b.sent = true →
      exec (.streamLoadInject t vp) s = .next (if tl.decoded vp then s.endStream t.toNat vp b else s))
  ∧ (stores → x.isMarker = false → x.kind = 0 → b.done < b.count → b.wo = false → b.bpt ≤ 64 →
      s.htlb (.engine (tileDie t.toNat) (16 + b.edge)) = [e] → e.asid = b.asid → e.w = true → e.cow = false → e.kind = .normal →
      (∀ a, ringed s b.asid a = false) → (b.addr b.done).toNat % 4 = 0 → e.va ≤ (b.addr b.done).toNat →
      (b.addr b.done).toNat + 64 ≤ e.va + e.size → e.va + e.size ≤ 2 ^ 64 →
      let pa : Nat := e.pa + ((b.addr b.done).toNat - e.va)
      let sent (r : Req) (j : Nat) : Prop := r.agent = .stream t.toNat vp b.done 0 ∧ r.op = .write ∧ r.pa = pa + 4 * j ∧ r.n = 4
        ∧ r.dat = leBytes 4 (x.lanes.at j).toNat ∧ r.kind = .normal ∧ r.st = .issued
      ∃ u rs, exec (.streamStore t vp) s = .next u ∧ ((u.tile t.toNat).buf (vKey vp)).toks = q ∧ u.ctxs = s.ctxs ∧ u.mem = s.mem
        ∧ SMap.get? (u.tile t.toNat).ports vp = some { b with done := b.done + 1, ended := b.count == b.done + 1 }
        ∧ u.reqs = s.reqs ++ rs
        ∧ (∀ j < b.bpt / 4, j < 16 → x.mask.getLsbD j = true → ∃ r ∈ rs, sent r j)
        ∧ (∀ r ∈ rs, ∃ j < b.bpt / 4, x.mask.getLsbD j = true ∧ sent r j))
  ∧ (stores → x.isMarker = false → x.kind = 0 → b.count ≤ b.done →
      exec (.streamStore t vp) s = .next (((s.setTile t.toNat (tl.pop (vKey vp))).moved t.toNat).countTile t.toNat 4 1))
  ∧ (stores → x.isMarker = true → x.index = 3 → s.engWriting (Agent.isStream t.toNat vp) = true → exec (.streamStore t vp) s = .next s)
  ∧ (stores → x.isMarker = true → x.index = 3 → s.engWriting (Agent.isStream t.toNat vp) = false → b.cmd = none → ∃ u,
      exec (.streamStore t vp) s = .next u ∧ u.mem = s.mem ∧ SMap.get? (u.tile t.toNat).ports vp = some { b with ended := true, eosIn := true }
      ∧ ((u.tile t.toNat).buf (vKey vp)).toks = q)

/-- R223 to R227: MTOK and MBLD put a valid token into the matrix queue and answer 0, or count an invalid one and answer 1; MTOK waits for a
place in the queue, and in that wait its port is not asked about again (R172); MSTAT answers a macro's word or the node's, sel 5 clearing the
node's counts and record bits but for what the present island cycle has recorded; MBLD's pages are checked as it issues, and in its wait only a free
entry ends it (R172); MWAIT waits for the tokens that select its macros, and goes on waiting while the tile is frozen (R356). -/
def Obligations.MatrixWords : Prop := ∀ (d a b : Reg) (n : BitVec 6) (sel : BitVec 3) (m : BitVec 4),
  let mx (s : State) : Matrix := (s.tile s.cur.toNat).mx
  let set (s : State) (x : Matrix) : State := s.setTile s.cur.toNat { s.tile s.cur.toNat with mx := x }
  let open_ (s : State) (c : Ctx) : Prop := c.segOpen = true ∨ s.latched s.cur.toNat = false
  let put (x : Matrix) (w : W64) (vp : Nat) (at_ : Option (W64 × BitVec 16)) : Matrix :=
    { x with q := x.q ++ [{ word := w, vp := vp, mem := at_, seq := x.seq }], seq := x.seq + 1 }
  let may (s : State) (c : Ctx) : Prop := (c.wait = .again ∧ c.segOpen = true) ∨ s.mtokRefused s.cur.toNat n.toNat (bits64 (c.r a) 63 60) = false
  let invalid (s u : State) : Prop := (u.tile s.cur.toNat).mx = (mx s).invalid
    ∧ u.ctr = (s.countTile s.cur.toNat 8 1).ctr ∧ u.mem = s.mem ∧ u.reqs = s.reqs
  Does (.mtok d a n) (fun s c => open_ s c ∧ mtokValid (c.r a) = true ∧ may s c ∧ (mx s).q.length < 8) (fun s c => (set s (put (mx s) (c.r a) n.toNat none)).setCtx s.cur.toNat ({ c with segOpen := true }.w d 0).next)
  ∧ Does (.mtok d a n) (fun s c => open_ s c ∧ mtokValid (c.r a) = true ∧ may s c ∧ 8 ≤ (mx s).q.length)
      (fun s c => s.setCtx s.cur.toNat { c with segOpen := true, wait := .again })
  ∧ Goes (.mtok d a n) (fun s c => open_ s c ∧ mtokValid (c.r a) = false) (fun s c u => u.ctxAt s.cur.toNat = some ({ c with segOpen := true }.w d 1).next
      ∧ invalid s u)
  ∧ Does (.mtok d a n) (fun s c => open_ s c ∧ mtokValid (c.r a) = true ∧ s.mtokRefused s.cur.toNat n.toNat (bits64 (c.r a) 63 60) = true
      ∧ (c.wait ≠ .again ∨ c.segOpen = false))
      (fun s c => s.trap c 6 4 (n.setWidth 64))
  ∧ Does (.mtok d a n) (fun s c => c.segOpen = false ∧ s.latched s.cur.toNat = true) (fun s c => s.setCtx s.cur.toNat { c with wait := .again })
  ∧ (let checked (s : State) (c : Ctx) : Prop := c.wait ≠ .ready ∧ s.outstanding s.cur.toNat = false ∧ mtokValid (c.r b) = true
      ∧ bits64 (c.r b) 63 60 = 2 ∧ (c.r a).toNat % 64 = 0
      ∧ ∀ p ∈ pageStarts (c.r a) (64 * ({ word := c.r b, vp := 0, seq := 0 } : MTok).need), ∃ e,
          checkPage s s.cur.toNat c.asid p = .ok e ∧ e.kind ≠ .device
    Does (.mbld d a b) (fun s c => (checked s c ∨ c.wait = .ready) ∧ (mx s).q.length < 8)
      (fun s c => (set s (put (mx s) (c.r b) 0 (some (c.r a, c.asid)))).setCtx s.cur.toNat (c.w d 0).next)
    ∧ Does (.mbld d a b) (fun s c => (checked s c ∨ c.wait = .ready) ∧ 8 ≤ (mx s).q.length)
      (fun s c => s.setCtx s.cur.toNat { c with wait := .ready })
    ∧ Goes (.mbld d a b) (fun s c => c.wait ≠ .ready ∧ s.outstanding s.cur.toNat = false ∧ (mtokValid (c.r b) = false ∨ bits64 (c.r b) 63 60 ≠ 2))
      (fun s c u => u.ctxAt s.cur.toNat = some (c.w d 1).next ∧ invalid s u))
  ∧ Answers (.mstat d sel) d (fun _ _ => sel.toNat < 4) (fun s _ => (mx s).macroWord sel.toNat)
  ∧ Goes (.mstat d 4) (fun _ _ => True) (fun s c u => u.ctxAt s.cur.toNat = some (c.w d (mx s).nodeWord).next ∧ u.tile s.cur.toNat = s.tile s.cur.toNat
      ∧ u.mem = s.mem)
  ∧ Goes (.mstat d 5) (fun _ _ => True) (fun s c u => u.ctxAt s.cur.toNat = some (c.w d (mx s).nodeWord).next ∧ (u.tile s.cur.toNat).mx = (mx s).clear
      ∧ ((mx s).now = {} → (mx s).clear =
        { mx s with cinv := 0, crr := 0, cdmg := 0, spec := false, clip := false, skip := false, lerr := false, short := false, lost := false }))
  ∧ Does (.mwait m) (fun s c => ((s.tile s.cur.toNat).frozen = false ∨ c.wait ≠ .again) ∧ ∀ i < 4, (m = 0 ∨ m.getLsbD i = true) → ∀ k ∈ (mx s).q, k.selects i = false) (fun s c => s.setCtx s.cur.toNat c.next)
  ∧ Does (.mwait m) (fun s c => (∃ i < 4, (m = 0 ∨ m.getLsbD i = true) ∧ ∃ k ∈ (mx s).q, k.selects i = true)
      ∨ ((s.tile s.cur.toNat).frozen = true ∧ c.wait = .again))
      (fun s c => s.setCtx s.cur.toNat { c with wait := .again })

/-- R77, R211 to R219: with one token in the queue: MMA and MMAC commit, for every selected macro, row and column, the sum of its blocks with
one rounding a block, where the checks pass; BLD takes its blocks in order and loads the loading plane with the last one; BSWP exchanges planes;
DRN injects one group of sixteen elements, and with its last token clears, where acc is set, the elements drained, and no damaged bit; CLR
clears elements and damage; CHK marks a damaged plane. Nothing else of a bank changes. -/
def Obligations.MatrixSteps : Prop := ∀ (s : State) (t : TileId) (k : MTok) (x y : Tok) (q : List Tok),
  let tl : Tile := s.tile t.toNat
  let mx : Matrix := tl.mx
  let mx' (u : State) : Matrix := (u.tile t.toNat).mx
  let only (op : Nat) (started : Bool) : Prop := tl.frozen = false ∧ mx.q = [k] ∧ k.op = op ∧ k.started = started ∧ k.done = false ∧ mx.act.length = 4 ∧ mx.ld.length = 4
  let bank (mac : Nat) : Nat := 8 * mac + k.bank
  let keeps (u : State) : Prop := u.mem = s.mem ∧ u.ctxs = s.ctxs
    ∧ ∀ bk m n, n < 128 → (bk ∉ k.macs.map bank ∨ k.rows ≤ m ∨ k.cols ≤ n) → (mx' u).acc bk m n = mx.acc bk m n
  let commits (i : Instr) (op : Nat) : Prop := only op true → k.need ≤ k.taken → mx.passes k [] = true → ∃ u, exec i s = .next u
    ∧ (∀ mac ∈ k.macs, ∀ m < k.rows, ∀ n < k.cols, (mx' u).acc (bank mac) m n = (List.range k.kbs).foldl (contribute k.rb (mx.active mac) [] m n)
        (if k.acc then mx.acc (bank mac) m n else 0)) ∧ keeps u ∧ ∃ k', (mx' u).q = [k'] ∧ k'.done = true
  commits (.mma t []) 0 ∧ commits (.mmac t []) 1
  ∧ (only 2 true → k.mem = none → k.taken + 1 = k.need → (tl.buf (vKey k.vp)).toks = x :: q → x.kind = 0 →
      ∃ u, exec (.bld t) s = .next u ∧ u.mem = s.mem ∧ ((u.tile t.toNat).buf (vKey k.vp)).toks = q
        ∧ (∀ mac ∈ k.macs, (mx' u).loading mac = { k.pl.put k.fb (k.taken / k.kbs) (k.taken % k.kbs) x with valid := true })
        ∧ (∀ mac, mac ∉ k.macs → (mx' u).loading mac = mx.loading mac) ∧ (mx' u).act = mx.act)
  ∧ (only 2 true → k.mem = none → k.taken + 1 < k.need → (tl.buf (vKey k.vp)).toks = x :: q → x.kind = 0 →
      ∃ u, exec (.bld t) s = .next u ∧ u.mem = s.mem ∧ ((u.tile t.toNat).buf (vKey k.vp)).toks = q
        ∧ (mx' u).q = [{ k with taken := k.taken + 1, pl := k.pl.put k.fb (k.taken / k.kbs) (k.taken % k.kbs) x }]
        ∧ (mx' u).ld = mx.ld ∧ (mx' u).act = mx.act ∧ (mx' u).ac = mx.ac)
  ∧ (only 3 false → ∃ u, exec (.bswp t) s = .next u ∧ u.mem = s.mem ∧ (mx' u).ac = mx.ac
      ∧ (∀ mac ∈ k.macs, (mx' u).active mac = mx.loading mac ∧ (mx' u).loading mac = mx.active mac)
      ∧ (∀ mac, mac ∉ k.macs → (mx' u).active mac = mx.active mac ∧ (mx' u).loading mac = mx.loading mac))
  ∧ (only 4 true → k.need ≤ k.taken → mx.drainTok k = some y → s.canInject t.toNat k.vp = true → mx.drainTok { k with pos := k.pos + 1 } ≠ none →
      ∃ u, exec (.drn t) s = .next u ∧ (mx' u).q = [{ k with pos := k.pos + 1 }] ∧ u.mem = (s.inject t.toNat k.vp y).mem
        ∧ (u.tile t.toNat).bufs = ((s.inject t.toNat k.vp y).tile t.toNat).bufs
        ∧ (k.macs = [0] → k.pos < k.cols / 16 → 0 < k.rows → y.mask = 0xFFFF ∧ y.lanes = lanesOf fun i => mx.acc k.bank 0 (16 * k.pos + i)))
  ∧ (only 4 true → k.need ≤ k.taken → mx.drainTok k = some y → s.canInject t.toNat k.vp = true → mx.drainTok { k with pos := k.pos + 1 } = none →
      ∃ u, exec (.drn t) s = .next u ∧ (mx' u).q = [{ k with pos := k.pos + 1, done := true }] ∧ u.mem = (s.inject t.toNat k.vp y).mem
        ∧ (u.tile t.toNat).bufs = ((s.inject t.toNat k.vp y).tile t.toNat).bufs ∧ (mx' u).dmg = mx.dmg
        ∧ ∀ bk m n, n < 128 → (mx' u).acc bk m n =
            if k.acc = true ∧ bk ∈ k.macs.map bank ∧ m < k.rows ∧ n < k.cols then 0 else mx.acc bk m n)
  ∧ (only 5 false → ∃ u, exec (.clr t) s = .next u ∧ keeps u
      ∧ (∀ mac ∈ k.macs, (∀ m < k.rows, ∀ n < k.cols, (mx' u).acc (bank mac) m n = 0) ∧ (mx' u).dmg.getLsbD (bank mac) = false))
  ∧ (only 6 false → (∀ mac ∈ k.macs, (mx.active mac).valid = true) → ∃ u, exec (.chk t) s = .next u ∧ u.mem = s.mem ∧ u.ctxs = s.ctxs
      ∧ (∀ mac ∈ k.macs, ((mx' u).active mac).bad = true ↔ (mx.active mac).bad = true ∨ ∃ r < 128,
          (((List.range 128).filter fun n => !(mx.active mac).special (r / 32) n).map fun n => (mx.active mac).at r n).sum ≠ SMap.getD (mx.active mac).b1 r 0)
      ∧ (mx' u).ac = mx.ac)
  ∧ (tl.frozen = false → mx.q = [k] → k.done = true → exec (.matrixTokenComplete t) s = .next (s.setTile t.toNat { tl with mx := { mx with q := [] } }))
  ∧ (∀ mac i n δ, mac < 4 → i < 128 → n < 128 → mx.act.length = 4 → ∃ u, exec (.planeSoftError t mac i n δ) s = .next u
      ∧ ((mx' u).active mac).at i n = (mx.active mac).at i n + δ ∧ (mx' u).ac = mx.ac
      ∧ ∀ j m, j < 128 → m < 128 → j ≠ i ∨ m ≠ n → ((mx' u).active mac).at j m = (mx.active mac).at j m)
/-! ### The rill array -/

/-- R243, R244, R246, R247: RLOAD of an accepted graph loads it and answers 0, of an image whose header is bad it answers 1; RSEL writes the
mode maps and the control word, answering the old value, or traps on the checks that it makes once, before it waits; RSTAT answers the array, its counters or a signature, sel 2 clearing the
counters but for what the present island cycle has counted; RFREE frees the slots of its mask, or answers 4 for a bound slot and 5 for a cut graph. Which refusals of RSEL take sub-code 8 and
which 4 the model reads from R359 (log 47). -/
def Obligations.RillWords : Prop := ∀ (d a : Reg) (n : BitVec 2) (sel : BitVec 3) (m : BitVec 4) (h bs : List Byte) (ns : List RNode),
  let rill (s : State) : Rill := (s.tile s.cur.toNat).rill
  let set (s : State) (r : Rill) : State := s.setTile s.cur.toNat { s.tile s.cur.toNat with rill := r }
  let reads (s : State) (c : Ctx) : Prop := (c.r a).toNat % 64 = 0 ∧ s.ownRead s.cur.toNat c (c.r a) 64 = .ok h
  let fresh (s : State) (c : Ctx) : Prop := (rill s).closing = false ∧ c.wait ≠ .again
  Does (.rload d a n) (fun s c => reads s c ∧ graphHeader h = true ∧ s.ownRead s.cur.toNat c (c.r a) (imgWord h 1).toNat = .ok bs
      ∧ graphStatus bs (rill s) n.toNat = ((0, 0), ns) ∧ routeFault ns (2 ^ (graphOf bs).ii) = none
      ∧ ∀ j, n.toNat ≤ j → j < n.toNat + 2 ^ (graphOf bs).ii → j < 4 → (rill s).bound j = false)
      (fun s c => (set s ((rill s).load bs ns n.toNat (c.r a) c.asid)).setCtx s.cur.toNat (c.w d 0).next)
  ∧ Goes (.rload d a n) (fun s c => reads s c ∧ graphHeader h = false) (fun s c u => u.ctxAt s.cur.toNat = some (c.w d 1).next ∧ u.tiles = s.tiles)
  ∧ Traps (.rload d a n) (fun _ c => (c.r a).toNat % 64 ≠ 0) 2 0 (fun c => c.r a)
  ∧ Does (.rsel d a 1) (fun _ _ => True) (fun s c => (set s { rill s with map1 := c.r a }).setCtx s.cur.toNat (c.w d (rill s).map1).next)
  ∧ Does (.rsel d a 2) (fun _ _ => True) (fun s c => (set s { rill s with map2 := c.r a }).setCtx s.cur.toNat (c.w d (rill s).map2).next)
  ∧ Does (.rsel d a 0) (fun s c => ((s.tile s.cur.toNat).frozen = false ∨ c.wait ≠ .again) ∧ rselValue (c.r a) = false ∧ s.rselRefused s.cur.toNat (c.r a) = false
      ∧ (rill s).half = none ∧ (rill s).infl = [])
      (fun s c => (set s { rill s with closing := false, ctl := c.r a }).setCtx s.cur.toNat (c.w d (rill s).ctl).next)
  ∧ Does (.rsel d a 0) (fun s c => c.wait = .again ∧ (s.tile s.cur.toNat).frozen = false ∧ (rill s).half = none ∧ (rill s).infl = [])
      (fun s c => (set s { rill s with closing := false, ctl := c.r a }).setCtx s.cur.toNat (c.w d (rill s).ctl).next)
  ∧ Traps (.rsel d a 0) (fun s c => fresh s c ∧ rselValue (c.r a) = true) 6 8 (fun c => c.r a)
  ∧ Traps (.rsel d a 0) (fun s c => fresh s c ∧ rselValue (c.r a) = false ∧ s.rselRefused s.cur.toNat (c.r a) = true) 6 4 (fun _ => 0)
  ∧ Answers (.rstat d sel) d (fun _ _ => sel ≠ 2) (fun s _ => if sel = 0 then (rill s).arrayWord
      else if sel.toNat < 4 then (rill s).drop.setWidth 64 <<< 16 ||| (rill s).skip.setWidth 64 ||| (rill s).sato.setWidth 64 <<< 32 ||| (rill s).brc.setWidth 64 <<< 48
      else ((rill s).at (sel.toNat - 4)).sig)
  ∧ Does (.rstat d 2) (fun _ _ => True) (fun s c =>
      (set s { rill s with brc := (rill s).now.c3, sato := (rill s).now.c2, drop := (rill s).now.c1, skip := (rill s).now.c0 }).setCtx s.cur.toNat
        (c.w d (rill s).countWord).next)
  ∧ Answers (.rfree d m) d (fun s _ => ∃ j < 4, m.getLsbD j = true ∧ (rill s).bound j = true) (fun _ _ => 4)
  ∧ Answers (.rfree d m) d (fun s _ => (∀ j < 4, m.getLsbD j = true → (rill s).bound j = false) ∧ (rill s).cuts m.getLsbD = true) (fun _ _ => 5)
  ∧ Goes (.rfree d m) (fun s _ => (∀ j < 4, m.getLsbD j = true → (rill s).bound j = false) ∧ (rill s).cuts m.getLsbD = false) (fun s c u =>
      u.ctxAt s.cur.toNat = some (c.w d 0).next ∧ u.mem = s.mem ∧ ∀ j < 4, (u.tile s.cur.toNat).rill.at j = if m.getLsbD j then {} else (rill s).at j)

/-- R232, R237 to R241: an armed array takes the data token at its port as a vector of the selected graph, whose nodes compute exactly and
saturate at their width; the results leave in order at the output port; a marker passes behind them; where a DRN has a token for that port, its
token enters first (R245). That a vector's result and its counts are fixed as the vector starts is the model's choice (log 92). -/
def Obligations.RillSteps : Prop := ∀ (s : State) (t : TileId) (x y : Tok) (q ys : List Tok) (vs : List (List Tok)) (taps : SMap Int) (p : Phase) (n : RNode),
  let tl : Tile := s.tile t.toNat
  let r : Rill := tl.rill
  let armed : Prop := r.run = true ∧ r.closing = false ∧ tl.frozen = false ∧ (tl.buf (vKey r.ivp)).toks = x :: q
  let taken (u : State) : Prop := ((u.tile t.toNat).buf (vKey r.ivp)).toks = q ∧ u.mem = s.mem ∧ u.ctxs = s.ctxs
  let source (k : Nat) : Int := if n.taps k then SMap.getD taps (k % 32) 0 else SMap.getD p.vals k 0
  let exact : Int := if n.op = 0 then source n.a * 2 ^ n.sa + source n.b * 2 ^ n.sb
    else if n.op = 1 then source n.a * 2 ^ n.sa - source n.b * 2 ^ n.sb
    else if n.op = 2 then source n.b * 2 ^ n.sb - source n.a * 2 ^ n.sa
    else if n.op = 4 then (source n.a + 2 ^ (n.sa - 1)) / 2 ^ n.sa
    else source n.a * 2 ^ n.sa
  (armed → x.isMarker = false → x.kind = 0 → r.half = none → r.sel = false → (r.at r.slot).nin ≤ 16 → r.infl.length < rillDepth →
      ∃ u, exec (.rillVectorStart t) s = .next u ∧ taken u ∧ (u.tile t.toNat).rill.infl = r.infl ++ [(r.vector r.slot [x]).1]
        ∧ (u.tile t.toNat).rill.brc = BitVec.ofNat 16 (min 65535 (r.brc.toNat + (r.vector r.slot [x]).2.1))
        ∧ (u.tile t.toNat).rill.sato = BitVec.ofNat 16 (min 65535 (r.sato.toNat + (r.vector r.slot [x]).2.2)))
  ∧ (armed → x.isMarker = false → x.kind = 0 → r.half = none → r.sel = true → ((r.at (r.map (x.index % 64))).valid = false) →
      ∃ u, exec (.rillVectorStart t) s = .next u ∧ taken u ∧ (u.tile t.toNat).rill.infl = r.infl
        ∧ (u.tile t.toNat).rill.drop = BitVec.ofNat 16 (min 65535 (r.drop.toNat + 1)))
  ∧ (r.infl = (y :: ys) :: vs → tl.drains r.ovp = true → exec (.rillOutputInject t) s = .next s)
  ∧ (r.run = true → r.infl = (y :: ys) :: vs → tl.drains r.ovp = false → s.canInject t.toNat r.ovp = true → exec (.rillOutputInject t) s =
      .next ((s.setTile t.toNat { tl with rill := { r with infl := if ys = [] then vs else ys :: vs } }).inject t.toNat r.ovp y))
  ∧ (armed → x.isMarker = true → r.half = none → r.infl = [] → tl.drains r.ovp = true → exec (.rillMarker t) s = .next s)
  ∧ (armed → x.isMarker = true → r.half = none → r.infl = [] → tl.drains r.ovp = false → s.canInject t.toNat r.ovp = true → exec (.rillMarker t) s =
      .next (((s.setTile t.toNat (tl.pop (vKey r.ivp))).inject t.toNat r.ovp (mkMarker x.index 0 false)).moved t.toNat))
  ∧ (1 ≤ n.w → SMap.getD (phaseNode taps p n).vals (32 * n.col + n.row) 0 = max (-2 ^ (n.w - 1)) (min exact (2 ^ (n.w - 1) - 1))
      ∧ (n.ot = true → SMap.getD (phaseNode taps p n).outs n.row 0 = max (-2 ^ (n.w - 1)) (min exact (2 ^ (n.w - 1) - 1))))
/-! ### The copy engine and the barriers -/

/-- R264 to R267: CPARM arms a slot with its template or answers the first failing check; CPFIRE puts a fire token into the queue of a slot
of its region, and counts one that no slot serves; CPSTAT answers the slot's words; CPRES lets a suspended slot go on, and answers 1 of a free slot whoever
asks; CPKILL kills a slot. What CPRES says of a free slot, and that it clears the cause, is the model's reading (log 48). -/
def Obligations.CopyWords : Prop := ∀ (d a b : Reg) (n : BitVec 6) (bs : List Byte) (x : CSlot),
  let die (s : State) : Nat := tileDie s.cur.toNat
  let h (s : State) : Nat := (s.tile s.cur.toNat).region
  let tpl (s : State) (c : Ctx) : CSlot := { region := h s, tile := s.cur.toNat, asid := c.asid, tpl := doublesOf 16 bs }
  let reads (s : State) (c : Ctx) : Prop := s.outstanding s.cur.toNat = false ∧ (c.r a).toNat % 64 = 0 ∧ s.ownRead s.cur.toNat c (c.r a) 128 = .ok bs
  let q (c : Ctx) : Nat := (c.r a).toNat % 256
  let fires (s : State) (c : Ctx) : Prop := s.outstanding s.cur.toNat = false ∧ (c.r a).toNat / 256 % 256 = 0
  let tok (c : Ctx) : Tok := ⟨mkHdr 0 1 0 0, false, lanesOf fun j => if j = 0 then (c.r b).setWidth 32 else 0⟩
  let has (s : State) : Prop := s.slot? (die s) n.toNat = some x
  let mine (s : State) (c : Ctx) : Prop := c.lvl = true ∨ (h s = x.region ∧ x.region ≠ 0)
  Does (.cparm d a n) (fun s c => reads s c ∧ s.cparmStatus s.cur.toNat n.toNat (tpl s c) = 0 ∧ s.slot? (die s) n.toNat = none) (fun s c =>
      (s.setSlot (die s) n.toNat (tpl s c)).setCtx s.cur.toNat (c.w d 0).next)
  ∧ Does (.cparm d a n) (fun s c => reads s c ∧ s.cparmStatus s.cur.toNat n.toNat (tpl s c) ≠ 0) (fun s c =>
      s.setCtx s.cur.toNat (c.w d (BitVec.ofNat 64 (s.cparmStatus s.cur.toNat n.toNat (tpl s c)))).next)
  ∧ Traps (.cparm d a n) (fun s c => s.outstanding s.cur.toNat = false ∧ (c.r a).toNat % 64 ≠ 0) 2 0 (fun c => c.r a)
  ∧ Goes (.cpfire d a b) (fun s c => fires s c ∧ h s ≠ 0 ∧ s.serves (die s) (q c) (h s) = true ∧ (s.fireq (die s) (q c)).length < 16) (fun s c u =>
      u.ctxAt s.cur.toNat = some (c.w d 0).next ∧ u.fireq (die s) (q c) = s.fireq (die s) (q c) ++ [tok c] ∧ u.mem = s.mem)
  ∧ Answers (.cpfire d a b) d (fun s c => fires s c ∧ h s ≠ 0 ∧ s.serves (die s) (q c) (h s) = true ∧ 16 ≤ (s.fireq (die s) (q c)).length) (fun _ _ => 1)
  ∧ Does (.cpfire d a b) (fun s c => fires s c ∧ (h s = 0 ∨ s.serves (die s) (q c) (h s) = false)) (fun s c =>
      (s.countTile s.cur.toNat 10 1).setCtx s.cur.toNat (c.w d 2).next)
  ∧ Answers (.cpstat d a n) d (fun s c => has s ∧ mine s c) (fun s c =>
      if (c.r a).toNat % 4 = 0 then s.slotWord (die s) x else if (c.r a).toNat % 4 = 1 then x.fva else if (c.r a).toNat % 4 = 2 then x.doneMask
      else x.cfir ++ x.cdrop ++ x.czf ++ x.cwor)
  ∧ Answers (.cpstat d a n) d (fun s c => s.slot? (die s) n.toNat = none ∨ (has s ∧ ¬ mine s c)) (fun _ _ => 0)
  ∧ Goes (.cpres d n) (fun s c => has s ∧ mine s c ∧ x.st = 3) (fun s c u => u.ctxAt s.cur.toNat = some (c.w d 0).next ∧ u.mem = s.mem
      ∧ ∃ y, u.slot? (die s) n.toNat = some y ∧ y.st = 2 ∧ y.tpl = x.tpl ∧ y.cause = 0 ∧ (y.fir.map fun f => (f.k, f.tok, f.low, f.perf)) = x.fir.map fun f => (f.k, f.tok, f.low, f.perf))
  ∧ Answers (.cpres d n) d (fun s c => s.slot? (die s) n.toNat = none ∨ (has s ∧ mine s c ∧ x.st ≠ 3)) (fun _ _ => 1)
  ∧ Answers (.cpres d n) d (fun s c => has s ∧ ¬ mine s c) (fun _ _ => 3)
  ∧ Goes (.cpkill d n) (fun s c => has s ∧ mine s c ∧ s.slotBusy (die s) n.toNat = false) (fun s c u =>
      u.ctxAt s.cur.toNat = some (c.w d 0).next ∧ u.slot? (die s) n.toNat = none ∧ u.fireq (die s) x.fq = [] ∧ u.mem = s.mem)
  ∧ Answers (.cpkill d n) d (fun s _ => s.slot? (die s) n.toNat = none) (fun _ _ => 1)
  ∧ Answers (.cpkill d n) d (fun s c => has s ∧ ¬ mine s c) (fun _ _ => 3)

/-- R148, R253 to R260, R267: a fire token enters its queue from the feed port; the head starts a firing; reads are issued in order, slot
by slot in turn; a piece, of a gather too, whose data and those of the pieces before it have come sends one write of them to its destination, which
the home performs (HomeAccess); a piece whose write has been performed is performed and tells the barrier; pieces for a region port are injected
there in piece order, and where the port is detached, dropped and counted (R261); the firing completes once its pieces are
performed and its barrier has had every update; a fault suspends the slot with its cause, address and offset, one of the barrier's page once
every piece is performed; a killed slot is freed once its requests are answered. That an update refused by the barrier's page is owed until
then is the model's choice (log 87), and so are the order of the reads of a gather (log 48) and that a piece dropped at a detached port counts as
performed (log 99). -/
def Obligations.CopySteps : Prop := ∀ (s : State) (d i pc : Nat) (c : CSlot) (f : CopyFir) (p : Piece) (x : Tok) (xs : List Tok) (e : TlbEnt) (bs : List Byte) (src : W64) (w : Req)
    (bad : Bool),
  s.slot? d i = some c →
  let tl : Tile := s.tile c.tile
  let moving : Prop := c.st = 2 ∧ c.fir = some f ∧ c.piece? f pc = some p
  let firing : Prop := moving ∧ c.gather = false
  let dst : W64 := c.rowDst f p.row + BitVec.ofNat 64 p.off
  (c.fe = true → c.detFvp = false → c.st ≠ 4 → tl.frozen = false → s.slotRuns c = true → (s.fireq d c.fq).length < 16 →
      (tl.buf (vKey c.fvp)).toks = x :: xs → ∃ u, exec (.fireTokenEnqueue d (.feed i)) s = .next u ∧ u.fireq d c.fq = s.fireq d c.fq ++ [x]
        ∧ ((u.tile c.tile).buf (vKey c.fvp)).toks = xs ∧ u.mem = s.mem ∧ u.ctxs = s.ctxs)
  ∧ (s.fireq d c.fq = x :: xs → c.st = 1 → s.slotRuns c = true → x.isMarker = false → x.kind = 0 → c.gather = false → x.mask = 1 →
      ∃ u c', exec (.copyFiringStart d i) s = .next u ∧ u.fireq d c.fq = xs ∧ u.slot? d i = some c' ∧ c'.st = 2
        ∧ c'.fir = some { k := (x.lanes.at 0).toNat, tok := x } ∧ c'.count = (c.count + 1) % 2 ^ 32 ∧ u.mem = s.mem ∧ u.ctxs = s.ctxs)
  ∧ (s.fireq d c.fq = x :: xs → c.st = 1 → s.slotRuns c = true → x.isMarker = true → c.dk = false → exec (.copyMarker d i) s = .next (s.setFireq d c.fq xs))
  ∧ (s.fireq d c.fq = x :: xs → c.st = 1 → s.slotRuns c = true → x.isMarker = true → c.dk = true → c.detVp = false → s.canInject c.tile c.vp = true →
      exec (.copyMarker d i) s = .next ((s.setFireq d c.fq xs).inject c.tile c.vp (mkMarker x.index 0 false)))
  ∧ (firing → s.copyReadable c f pc = some src → src.toNat % 64 + p.n ≤ 64 → 0 < p.n → tlbFind (s.htlb (.copy d)) c.asid src = some e → e.r = true →
      ringed s c.asid src = false → s.copyTurn d i c 0 = true → ∃ u r, exec (.copyReadIssue d i pc) s = .next u ∧ u.reqs = s.reqs ++ [r] ∧ r.agent = .copy d i pc 0
        ∧ r.op = .read ∧ r.pa = e.pa + (src.toNat - e.va) ∧ r.n = p.n ∧ u.slot? d i = some { c with lastq := 0, fir := some { f with issued := insRising f.issued pc } }
        ∧ (u.die d).lastSlot = i ∧ u.mem = s.mem ∧ u.ctxs = s.ctxs)
  ∧ (firing → s.copyTurn d i c 0 = false → exec (.copyReadIssue d i pc) s = .next s)
  ∧ (moving → f.has pc = false → s.inOrder d i c f pc = true → c.dk = false → s.pieceOut d i pc = none → s.pieceData d i c f pc p = some (bs, bad) →
      (∀ j < bs.length, c.inSource f (dst + BitVec.ofNat 64 j) = false) →
      tlbFind (s.htlb (.copy d)) c.asid dst = some e → e.w = true → e.cow = false → e.kind = .normal → ringed s c.asid dst = false →
      ∃ u r, exec (.copyPiecePerformed d i pc) s = .next u ∧ u.reqs = s.reqs ++ [r] ∧ r.agent = .copy d i pc 0 ∧ r.op = .write ∧ r.st = .issued
        ∧ r.pa = e.pa + (dst.toNat - e.va) ∧ r.n = bs.length ∧ r.dat = bs ∧ u.slot? d i = some c ∧ u.mem = s.mem ∧ u.ctxs = s.ctxs)
  ∧ (moving → f.has pc = false → s.pieceOut d i pc = some w → w.st = .issued → exec (.copyPiecePerformed d i pc) s = .next s)
  ∧ (let port : Prop := moving ∧ f.has pc = false ∧ s.inOrder d i c f pc = true ∧ c.dk = true ∧ s.pieceOut d i pc = none
        ∧ s.pieceData d i c f pc p = some (bs, bad)
    let index : Nat := if c.gather = true then (16 * f.k + p.row) % 256 else pc % 256
    let tok : Tok := ⟨mkHdr index (2 ^ (p.n / 4) - 1) 0 0, false, lanesOf fun j => BitVec.ofNat 32 (leNat ((bs.drop (4 * j)).take 4))⟩
    let one (x : BitVec 16) (b : Bool) : BitVec 16 := if b = true then BitVec.ofNat 16 (min 65535 (x.toNat + 1)) else x
    let done (u : State) (drop : Bool) : Prop := exec (.copyPiecePerformed d i pc) s = .next u ∧ ∃ c' f', u.slot? d i = some c' ∧ c'.fir = some f'
      ∧ f'.has pc = true ∧ c'.czf = one c.czf bad ∧ c'.cdrop = one c.cdrop drop ∧ c'.st = c.st
    (port → pc = f.low → c.detVp = false → s.slotRuns c = true → s.canInject c.tile c.vp = true → ∃ u, done u false
      ∧ u.mem = (s.inject c.tile c.vp tok).mem ∧ (u.tile c.tile).bufs = ((s.inject c.tile c.vp tok).tile c.tile).bufs)
    ∧ (port → pc = f.low → c.detVp = true → ∃ u, done u true ∧ u.mem = s.mem ∧ u.ctxs = s.ctxs ∧ (u.tile c.tile).bufs = tl.bufs)
    ∧ (port → pc ≠ f.low ∨ (c.detVp = false ∧ (s.slotRuns c = false ∨ s.canInject c.tile c.vp = false)) →
      exec (.copyPiecePerformed d i pc) s = .next s))
  ∧ (moving → f.has pc = false → s.pieceOut d i pc = some w → w.st = .performed → ∃ u c' f', exec (.copyPiecePerformed d i pc) s = .next u
      ∧ u.slot? d i = some c' ∧ c'.fir = some f' ∧ f'.has pc = true ∧ u.mem = s.mem ∧ u.ctxs = s.ctxs
      ∧ (c.tb = 0 → u.bars = s.bars ∧ c'.owed = c.owed)
      ∧ (c.tb ≠ 0 → (s.copyBarrier d c).2 = none → u.bars = s.bars ∧ c'.owed = c.owed + 1)
      ∧ (c.tb ≠ 0 → s.copyBarrier d c = (s, some e) → ringed s c.asid c.tb = false →
          u.bars = s.bars ++ [⟨s.nextId, c.tb, c.asid, e.phys c.tb, 1, 0, d, i⟩] ∧ c'.owed = c.owed))
  ∧ (c.st = 2 → c.fir = some f → c.piece? f f.low = none → s.barsDone d i = true → c.done = 2 → c.chen = false → ∃ u c',
      exec (.copyFiringComplete d i) s = .next u ∧ u.slot? d i = some c' ∧ c'.st = 1 ∧ c'.fir = none
        ∧ c'.cfir = BitVec.ofNat 16 (min 65535 (c.cfir.toNat + 1)) ∧ u.mem = s.mem ∧ u.ctxs = s.ctxs)
  ∧ (c.st = 2 → c.fir = some f → c.piece? f f.low = none → s.barsDone d i = true → c.done = 0 → c.tb ≠ 0 → s.copyBarrier d c = (s, some e) → ringed s c.asid c.tb = false → ∃ u,
      exec (.copyFiringComplete d i) s = .next u ∧ u.mem = s.mem ∧ u.ctxs = s.ctxs
        ∧ (c.owed = 0 → u.bars = s.bars ++ [⟨s.nextId, c.tb, c.asid, e.phys c.tb, 0, 1, d, i⟩] ∧ u.slot? d i = some { c with done := 1 })
        ∧ (0 < c.owed → u.bars = s.bars ++ [⟨s.nextId, c.tb, c.asid, e.phys c.tb, 1, 0, d, i⟩] ∧ u.slot? d i = some { c with owed := c.owed - 1 }))
  ∧ (firing → s.copyReadable c f pc = some src → src.toNat % 64 + p.n ≤ 64 → 0 < p.n → tlbFind (s.htlb (.copy d)) c.asid src = some e → e.r = false → s.pieceOut d i f.low = none →
      ∃ u, exec (.copyFault d i pc) s = .next u ∧ u.slot? d i = some { c with st := 3, cause := 3, fva := src, off := c.offset f f.low }
        ∧ u.mem = s.mem ∧ u.ctxs = s.ctxs ∧ ∃ t, u.ftoks = s.ftoks ++ [t] ∧ t.cause = 0x31 ∧ t.tval = src)
  ∧ (c.st = 2 → c.fir = some f → c.piece? f pc = none → c.piece? f f.low = none → c.done = 0 → c.tb ≠ 0 → (s.copyBarrier d c).2 = none →
      ∃ u, exec (.copyFault d i pc) s = .next u ∧ u.slot? d i = some { c with st := 3, cause := 5, fva := c.tb, off := c.bytes f }
        ∧ u.mem = s.mem ∧ u.ctxs = s.ctxs ∧ ∃ t, u.ftoks = s.ftoks ++ [t] ∧ t.cause = 0x31 ∧ t.tval = c.tb)
  ∧ (c.st = 4 → s.slotBusy d i = false → ∃ u, exec (.copyKillDrained d i) s = .next u ∧ u.slot? d i = none
      ∧ u.mem = s.mem ∧ u.ctxs = s.ctxs)

/-- R262, R268, R269: TBINIT, TBARR and TBEXP send their update of a barrier to its home; TBTEST and TBWAIT send a read and write the answer;
a home performs an update as one step and answers the old value: TBINIT sets the counts, TBEXP adds to the pending ones, TBARR and an engine's
update take from them, a count that would pass its end stops there and is counted, and a phase whose counts are both 0 ends and the expected
counts are set again; TBTEST's read, and TBWAIT's once the phase differs from its operand, are performed at their home; an engine's update over a
port that is down is lost and counted (R118, R388). -/
def Obligations.BarrierWords : Prop := ∀ (d a b : Reg) (sc : BitVec 2) (e : TlbEnt) (t : TileId) (id : Nat),
  let ok (s : State) (c : Ctx) (wr rd : Bool) : Prop := checkAtomic s s.cur.toNat c.asid (c.r a) 16 wr rd = .ok e ∧ s.loadsOut s.cur.toNat < 16
  let update (i : Instr) (op : HomeOp) (legal : W64 → Prop) : Prop :=
    Does i (fun s c => ok s c true false ∧ legal (c.r b) ∧ s.released s.cur.toNat sc.toNat = true) (fun s c =>
      sends s c { mkReq s s.cur.toNat op e (c.r a) 16 with reg := some d, dat := leBytes 8 (c.r b).toNat } false)
  update (.tbinit d a b sc) .tbInit (fun v => v.toNat / 2 ^ 28 % 16 = 0) ∧ update (.tbarr d a b sc) .tbArr (fun _ => True)
  ∧ update (.tbexp d a b sc) .tbExp (fun _ => True)
  ∧ Traps (.tbinit d a b sc) (fun s c => checkAtomic s s.cur.toNat c.asid (c.r a) 16 true false = .ok e ∧ (c.r b).toNat / 2 ^ 28 % 16 ≠ 0) 6 8 (fun c => c.r b)
  ∧ Does (.tbtest d a sc) (fun s c => Fresh c ∧ ok s c false true) (fun s c => sends s c { mkReq s s.cur.toNat .tbTest e (c.r a) 16 with reg := some d } true)
  ∧ Does (.tbtest d a sc) (fun s c => c.wait = .access id ∧ ∀ q ∈ s.reqs, q.id ≠ id) (fun s c => s.setCtx s.cur.toNat c.next)
  ∧ Goes (.tbwait d a b sc) (fun s c => c.wait = .idle ∧ ok s c false true) (fun s c u => u.mem = s.mem
      ∧ u.ctxAt s.cur.toNat = some { c with wait := .until (s.cycles (islandOf s.cur.toNat) + 4096) }
      ∧ ∃ q, u.reqs = s.reqs ++ [q] ∧ q.op = .tbWait ∧ q.agent = .ctx s.cur.toNat ∧ q.reg = some d ∧ q.expect = c.r b &&& 15 ∧ q.pa = e.pa + ((c.r a).toNat - e.va))
  ∧ Does (.tbwait d a b sc) (fun s c => (∃ v, c.wait = .until v) ∧ s.tbWaiting s.cur.toNat = false) (fun s c => s.setCtx s.cur.toNat c.next)
  ∧ (∀ s c q v, s.ctxAt t.toNat = some c → c.wait = .until v → v.toNat ≤ (s.cycles (islandOf t.toNat)).toNat →
      s.reqs = [q] → q.agent = .ctx t.toNat → q.op = .tbWait → q.st = .issued →
      exec (.tbwaitTimeout t) s = .next { s with reqs := [{ q with st := .performed, dat := s.mem.bytes q.pa 8 }] })
  ∧ (∀ (s : State) (x : BarUpd) (q : Req) (at_ es ea ps pa ph : Nat), s.mem.nat at_ 16 = es * 2 ^ 96 + ea * 2 ^ 64 + ps * 2 ^ 32 + pa * 16 + ph →
      es < 2 ^ 32 → ea < 2 ^ 32 → ps < 2 ^ 32 → pa < 2 ^ 28 → ph < 16 →
      let after (ds da : Nat) : Nat := if 0 < ds + da ∧ ps ≤ ds ∧ pa ≤ da then es * 2 ^ 96 + ea * 2 ^ 64 + es * 2 ^ 32 + ea % 2 ^ 28 * 16 + (ph + 1) % 16
        else es * 2 ^ 96 + ea * 2 ^ 64 + (ps - ds) * 2 ^ 32 + (pa - da) * 16 + ph
      let below (ds da : Nat) : Nat := (if ps < ds then 1 else 0) + if pa < da then 1 else 0
      let leaves (i : Instr) (u : State) (new clamps : Nat) : Prop := exec i s = .next u ∧ u.ctxs = s.ctxs ∧ u.mem.nat at_ 16 = new
        ∧ (∀ z, z < at_ ∨ at_ + 16 ≤ z → u.mem.get z = s.mem.get z) ∧ u.ctr = (s.countHome at_ 13 clamps).ctr
      (s.bars[id]? = some x → x.pa = at_ → s.peerDown at_ = false →
        ∃ u, leaves (.barrierUpdate id) u (after x.ds x.da) (below x.ds x.da) ∧ u.bars = s.bars.eraseIdx id)
      ∧ (s.bars[id]? = some x → x.pa = at_ → s.peerDown at_ = true →
        exec (.barrierUpdate id) s = .next ({ s with bars := s.bars.eraseIdx id }.count (ctrTile (rootTile x.die) 3) 1))
      ∧ (s.req? id = some q → q.st = .issued → s.blocked q = false → s.channelStalled q = false → s.cut q = false → q.pa = at_ →
          let read : State := s.setReq { q with st := .performed, dat := s.mem.bytes at_ 8 }
          (q.op = .tbTest → exec (.homeAccessPerform id) s = .next read)
          ∧ (q.op = .tbWait → q.expect.toNat % 16 ≠ ph → exec (.homeAccessPerform id) s = .next read)
          ∧ (q.op = .tbWait → q.expect.toNat % 16 = ph → exec (.homeAccessPerform id) s = .next s))
      ∧ (s.req? id = some q → q.st = .issued → s.blocked q = false → s.cut q = false → q.pa = at_ → q.n = 16 → leNat q.dat < 2 ^ 64 →
          let v : Nat := leNat q.dat
          let up (new clamps : Nat) : Prop := ∃ u, leaves (.atomicPerform id) u new clamps
            ∧ u.req? id = some { q with st := .performed, dat := leBytes 8 (s.mem.nat at_ 16) }
          (q.op = .tbInit → up (v / 2 ^ 32 * 2 ^ 96 + v % 2 ^ 28 * 2 ^ 64 + v / 2 ^ 32 * 2 ^ 32 + v % 2 ^ 28 * 16) 0)
          ∧ (q.op = .tbArr → up (after (v % 2 ^ 32) 1) (below (v % 2 ^ 32) 1))
          ∧ (q.op = .tbExp → up (es * 2 ^ 96 + ea * 2 ^ 64 + min (ps + v % 2 ^ 32) (2 ^ 32 - 1) * 2 ^ 32 + min (pa + v / 2 ^ 32 % 2 ^ 28) (2 ^ 28 - 1) * 16 + ph)
              ((if 2 ^ 32 ≤ ps + v % 2 ^ 32 then 1 else 0) + if 2 ^ 28 ≤ pa + v / 2 ^ 32 % 2 ^ 28 then 1 else 0))))
/-! ### Codec lanes -/

/-- R286, R292 to R294, R296, R297: binding a free lane with a legal descriptor answers 0 and arms it, another answers the first failing check;
an address of 0 lets a suspended lane go on; SLREL ends a lane's streams; SPHDR stages a template; the status words answer the lane's words,
sel 2 clearing its counters but for what the present island cycle has counted; WARPSET answers and replaces the warp double, or traps. That SPHDR answers 1 for a bad template whatever the lane
is, is the model's reading (log 51). -/
def Obligations.LaneWords : Prop := ∀ (d a : Reg) (n : BitVec 4) (bs h : List Byte) (l : Lane),
  let die (s : State) : Nat := tileDie s.cur.toNat
  let mine (s : State) : Prop := l.region = (s.tile s.cur.toNat).region
  let quiet (s : State) : Prop := s.outstanding s.cur.toNat = false
  let bind (i : Instr) (spout : Bool) : Prop :=
    let new (s : State) (c : Ctx) : Lane := { region := (s.tile s.cur.toNat).region, tile := s.cur.toNat, asid := c.asid, desc := doublesOf 8 bs }
    let reads (s : State) (c : Ctx) : Prop := quiet s ∧ c.r a ≠ 0 ∧ (c.r a).toNat % 64 = 0 ∧ s.ownRead s.cur.toNat c (c.r a) 64 = .ok bs
    Does i (fun s c => reads s c ∧ s.laneStatus spout n.toNat (new s c) = 0) (fun s c =>
        (s.setLane (die s) spout n.toNat (new s c)).setCtx s.cur.toNat (c.w d 0).next)
    ∧ Answers i d (fun s c => reads s c ∧ s.laneStatus spout n.toNat (new s c) ≠ 0) (fun s c => BitVec.ofNat 64 (s.laneStatus spout n.toNat (new s c)))
    ∧ Does i (fun s c => quiet s ∧ c.r a = 0 ∧ s.lane? (die s) spout n.toNat = some l ∧ mine s ∧ l.st = 2) (fun s c =>
        (s.setLane (die s) spout n.toNat { l with st := 1, cause := 0, fva := 0 }).setCtx s.cur.toNat (c.w d 0).next)
    ∧ Answers i d (fun s c => quiet s ∧ c.r a = 0 ∧ s.lane? (die s) spout n.toNat = none) (fun _ _ => 5)
    ∧ Traps i (fun s c => quiet s ∧ (c.r a).toNat % 64 ≠ 0) 2 0 (fun c => c.r a)
  let stat (i : Instr) (spout : Bool) : Prop :=
    Answers i d (fun s c => s.lane? (die s) spout n.toNat = some l ∧ (c.lvl = true ∨ mine s) ∧ (c.r a).toNat % 4 ≠ 2) (fun _ c =>
        if (c.r a).toNat % 4 = 0 then l.word spout else if (c.r a).toNat % 4 = 3 then l.fva else l.c3 ++ l.c2 ++ l.c1 ++ l.c0)
    ∧ Does i (fun s c => s.lane? (die s) spout n.toNat = some l ∧ (c.lvl = true ∨ mine s) ∧ (c.r a).toNat % 4 = 2) (fun s c =>
        (s.setLane (die s) spout n.toNat { l with c3 := l.now.c3, c2 := l.now.c2, c1 := l.now.c1, c0 := l.now.c0 }).setCtx s.cur.toNat
          (c.w d (l.c3 ++ l.c2 ++ l.c1 ++ l.c0)).next)
    ∧ Answers i d (fun s c => s.lane? (die s) spout n.toNat = none ∨ (s.lane? (die s) spout n.toNat = some l ∧ c.lvl = false ∧ ¬ mine s)) (fun _ _ => 0)
  bind (.slbind d a n) false ∧ bind (.spbind d a n) true ∧ stat (.slstat d a n) false ∧ stat (.spstat d a n) true
  ∧ Goes (.slrel d n) (fun s _ => quiet s ∧ s.lane? (die s) false n.toNat = some l ∧ mine s ∧ l.st ≠ 3) (fun s c u =>
      u.ctxAt s.cur.toNat = some (c.w d 0).next ∧ u.mem = s.mem ∧ ∃ l', u.lane? (die s) false n.toNat = some l' ∧ l'.st = 3
        ∧ l'.outq.drop (l'.outq.length - 4) = l.mark 3 [0, 1, 2, 3])
  ∧ Answers (.slrel d n) d (fun s _ => quiet s ∧ s.lane? (die s) false n.toNat = none) (fun _ _ => 1)
  ∧ Answers (.slrel d n) d (fun s _ => quiet s ∧ s.lane? (die s) false n.toNat = some l ∧ ¬ mine s) (fun _ _ => 2)
  ∧ Does (.sphdr d a n) (fun s c => quiet s ∧ (c.r a).toNat % 64 = 0 ∧ s.ownRead s.cur.toNat c (c.r a) 72 = .ok h
      ∧ tplLegal (h ++ List.replicate 4096 0) = true ∧ s.ownRead s.cur.toNat c (c.r a) (72 + tplSeq h + tplPic h) = .ok bs
      ∧ s.lane? (die s) true n.toNat = some l ∧ mine s) (fun s c =>
        (s.setLane (die s) true n.toNat { l with nextTpl := some bs }).setCtx s.cur.toNat (c.w d 0).next)
  ∧ Answers (.sphdr d a n) d (fun s c => quiet s ∧ (c.r a).toNat % 64 = 0 ∧ s.ownRead s.cur.toNat c (c.r a) 72 = .ok h
      ∧ tplLegal (h ++ List.replicate 4096 0) = false) (fun _ _ => 1)
  ∧ Does (.warpset d a) (fun _ c => bits64 (c.r a) 63 48 = 0 ∧ bits64 (c.r a) 15 12 = 0) (fun s c =>
      (s.setTile s.cur.toNat { s.tile s.cur.toNat with warp := c.r a }).setCtx s.cur.toNat (c.w d (s.tile s.cur.toNat).warp).next)
  ∧ Traps (.warpset d a) (fun _ c => bits64 (c.r a) 63 48 ≠ 0 ∨ bits64 (c.r a) 15 12 ≠ 0) 6 8 (fun c => c.r a)

/-- R142, R271 to R277, R290, R295, R338: a Sluice lane reads its bitstream ahead of what it parses; under a supported header it opens a picture with
SOT on its four streams; it sends a leaf, its motion and coefficients, a damaged leaf where a reference has no slot, and EOR with a row; it closes
the picture with its side tokens and EOT, and the stream with EOS; it counts a syntax error and covers the area of its picture that was not parsed with damaged leaves, skips a picture that it does not support,
and injects what it owes in order, holding a picture's first SOT under a latched request; it parses no bytes that were lost; a fault of its next
read suspends it, and off in its word is then the first byte that has not been read. Its intra modes have the codes of the tables. What the bitstream says comes with the step (log 13); reading ahead a sector at
a time and taking the answers in order is the model's choice (log 52). -/
def Obligations.SluiceSteps : Prop := ∀ (s : State) (d n used row vp k : Nat) (l : Lane) (h : PicHead) (g : SeqHead) (x : LeafData) (b : Block) (m : Motion)
    (area : List (Nat × Nat)) (z : Tok) (rest : List (Nat × Tok)) (e : TlbEnt) (q : Req) (dir : IntraDir) (δ : Int),
  s.lane? d false n = some l → n < 16 →
  let runs : Prop := l.outq = [] ∧ l.st = 1 ∧ s.laneRuns l = true
  let ready (need : Nat) : Prop := runs ∧ need ≤ l.answered ∧ ∀ b ∈ l.bad, need ≤ b.1
  let inside (u : Nat) : Prop := l.off ≤ u ∧ u ≤ l.len
  let more : Prop := l.open_ = false ∧ l.off < l.len ∧ (l.nfr = 0 ∨ l.pics < l.nfr) ∧ s.latched l.tile = false
  let frame (u : State) : Prop := u.mem = s.mem ∧ u.ctxs = s.ctxs ∧ u.tiles = s.tiles
  let count (c : BitVec 16) (k : Nat) : BitVec 16 := BitVec.ofNat 16 (min 65535 (c.toNat + k))
  let place : W32 := BitVec.ofNat 32 (x.x4 % 4096 * 2 ^ 20 + x.y4 % 4096 * 2 ^ 8 + x.lw % 8 * 2 ^ 5 + x.lh % 8 * 2 ^ 2)
  let leaf (mode : Nat) (w1 : W32) : Nat × Tok := (l.port false 0, ⟨mkHdr mode 3 5 0, false, lanesOf fun i => if i = 0 then place else if i = 1 then w1 else 0⟩)
  let eor : List (Nat × Tok) := if x.rowEnd then l.mark 1 [0, 1, 2] else []
  let parses : Prop := ready x.used ∧ l.open_ = true ∧ inside x.used ∧ l.head = some h ∧ (x.rowEnd = true → l.rows < picRows h) ∧ l.chroma = false
      ∧ l.parsed h (x.x4 / 4, x.y4 / 4) = false
  (ready h.used → more → inside h.used → seqSupported h.seq l.codec = true → exec (.sluicePictureStart d ⟨n, h⟩) s =
      .next (s.setLane d false n { l with
        off := h.used, open_ := true, leaves := 0, rows := 0, errs := 0, seen := [], head := some h, dpb := l.startSlots h
        outq := l.mark 0x10 [0, 1, 2, 3] }))
  ∧ (parses → l.motion x.pred = some (some m) → x.blocks = [b] → ∃ u l', exec (.sluiceLeaf d n x) s = .next u ∧ frame u ∧ u.lane? d false n = some l'
      ∧ l'.off = x.used ∧ l'.leaves = l.leaves + 1 ∧ l'.rows = l.rows + (if x.rowEnd then 1 else 0) ∧ l'.c2 = l.c2 ∧ l'.c3 = l.c3
      ∧ l'.c1 = count l.c1 (m.sats + if x.last then blockSats b else 0)
      ∧ l'.outq = [leaf m.mode (BitVec.ofNat 32 (m.mode % 64 * 2 ^ 26 + (if blockCoded b then 1 else 0) * 2 ^ 25 + m.r0 % 8 * 2 ^ 22 + m.r1 % 8 * 2 ^ 19
          + (if l.codec = 2 then x.qp / 4 else x.qp) % 64 * 2 ^ 13 + l.leaves % 8192)), (l.port false 2, ⟨mkHdr m.mode m.mask.toNat 0 0, false, m.mv⟩)]
          ++ (if x.last then blockToks b m.mode else []).map (fun y => (l.port false 1, y)) ++ l.mark 0 [1] ++ eor)
  ∧ (parses → l.motion x.pred = some none → ∃ u l', exec (.sluiceLeaf d n x) s = .next u ∧ frame u ∧ u.lane? d false n = some l'
      ∧ l'.off = x.used ∧ l'.leaves = l.leaves + 1 ∧ l'.c2 = count l.c2 1 ∧ l'.c3 = l.c3
      ∧ l'.outq = [leaf 63 (BitVec.ofNat 32 (63 * 2 ^ 26 + 7 * 2 ^ 22 + 7 * 2 ^ 19 + l.leaves % 8192)),
          (l.port false 2, ⟨mkHdr 63 0 0 0, false, lanesOf fun _ => 0⟩)] ++ l.mark 0 [1] ++ eor)
  ∧ (let coded (c : Nat) (m : IntraMode) (code : Nat) : Prop := l.codec = c → l.motion (.intra m) = some (some { mode := code })
    let along : Nat := match dir with
      | .vertical => 26 | .horizontal => 10 | .downLeft => 34 | .downRight => 18
      | .verticalRight => 22 | .horizontalDown => 14 | .verticalLeft => 30 | .horizontalUp => 6
    coded 0 .avcDc 0 ∧ coded 0 .avcPlane 1 ∧ coded 0 (.avcDir dir) along ∧ coded 1 (.hevc 0) 1 ∧ coded 1 (.hevc 1) 0 ∧ (2 ≤ k → k ≤ 34 → coded 1 (.hevc k) k)
    ∧ coded 2 .av1Dc 0 ∧ coded 2 .av1Cfl 0 ∧ coded 2 .av1Smooth 1 ∧ coded 2 .av1SmoothV 1 ∧ coded 2 .av1SmoothH 1 ∧ coded 2 .av1Paeth 1
    ∧ coded 2 (.av1Dir dir δ) along)
  ∧ (ready used → l.open_ = true → inside used → l.head = some h → picRows h ≤ l.rows → l.whole h = true → ∃ u l' side grain, exec (.sluicePictureEnd d n used) s = .next u
      ∧ frame u ∧ u.lane? d false n = some l' ∧ l'.open_ = false ∧ l'.pics = l.pics + 1 ∧ l'.off = used ∧ l'.dpb = l.endSlots h
      ∧ l'.outq = (side :: grain).map (fun y => (l.port false 3, y)) ++ l.mark 2 [0, 1, 2, 3]
      ∧ side.index = 1 ∧ side.mask = 0x3FFF ∧ side.lanes.at 0 = BitVec.ofNat 32 l.pics ∧ side.lanes.at 1 = BitVec.ofNat 32 h.typ
      ∧ side.lanes.at 3 = h.order ∧ side.lanes.at 12 = BitVec.ofNat 32 l.errs ∧ side.lanes.at 13 = BitVec.ofNat 32 h.qp ∧ (l.codec ≠ 2 → grain = []))
  ∧ (ready (s.streamNeed d n) → l.open_ = false →
      exec (.sluiceStreamEnd d n) s = .next (s.setLane d false n { l with st := 3, outq := l.mark 3 [0, 1, 2, 3] }))
  ∧ (runs → used ≤ l.answered → l.open_ = true → inside used → l.head = some h → row ≤ picRows h → l.planes.length = k →
      ∃ u l', exec (.sluiceSyntaxError d n used ⟨area, row⟩) s = .next u ∧ frame u ∧ u.lane? d false n = some l' ∧ l'.off = used ∧ l'.errs = l.errs + 1
      ∧ l'.rows = max l.rows row ∧ l'.leaves = l.leaves + (l.lost h area).length * k ∧ l'.c3 = count l.c3 1
      ∧ l'.c2 = count l.c2 ((l.lost h area).length * k) ∧ l'.bad = l.bad.filter fun b => used < b.2)
  ∧ (runs → used ≤ l.answered → l.open_ = false → inside used → ∃ u, exec (.sluiceSyntaxError d n used ⟨area, row⟩) s = .next u ∧ frame u
      ∧ u.lane? d false n = some { l with off := used, bad := l.bad.filter fun b => used < b.2, c3 := count l.c3 1, now := l.now.add 1 0 0 0 })
  ∧ (h.w4 ≤ 2 ^ 18 → ∀ p, p ∈ l.lost h area ↔ (p ∈ area ∧ 4 * p.1 < h.w4 ∧ 4 * p.2 < h.h4 ∧ l.parsed h p = false))
  ∧ (ready used → more → inside used → seqSupported g l.codec = false → ∃ u l', exec (.sluiceUnsupportedSkip d n ⟨g, used⟩) s = .next u ∧ frame u
      ∧ u.lane? d false n = some l' ∧ l'.off = used ∧ l'.pics = l.pics + 1 ∧ l'.c0 = count l.c0 1
      ∧ l'.outq.map (·.2.index) = [16, 16, 16, 16, 3, 2, 2, 2, 2])
  -- what it owes
  ∧ (l.outq = (vp, z) :: rest → rest ≠ [] → s.laneRuns l = true → s.canInject l.tile vp = true → s.latched l.tile = false ∨ z.isMarker = false ∨ z.index ≠ 0x10 ∨ l.mid = true →
      exec (.sluiceLeaf d n x) s =
      .next ((s.inject l.tile vp z).setLane d false n { l with
        outq := rest
        mid := (z.isMarker && z.index == 0x10) || (l.mid && !(z.isMarker && z.index == 2 && !(rest.any fun y => y.2.isMarker && y.2.index == 2)))
        inLeaf := z.kind == 5 || (l.inLeaf && !(z.isMarker && z.index == 0)) }))
  ∧ (l.outq = (vp, z) :: rest → s.latched l.tile = true → z.isMarker = true → z.index = 0x10 → l.mid = false → exec (.sluiceLeaf d n x) s = .next s)
  ∧ (runs → used ≤ l.answered → (∃ b ∈ l.bad, b.1 < used) → exec (.sluicePictureEnd d n used) s = .next s)
  -- its reads
  ∧ (runs → l.answered < used → s.laneRead? d n = none → l.asked < used → tlbFind (s.htlb (.engine d (32 + n))) l.asid (l.nextRead).1 = some e → e.r = true →
      ringed s l.asid (l.nextRead).1 = false → ∃ u r, exec (.sluicePictureEnd d n used) s = .next u ∧ u.reqs = s.reqs ++ [r] ∧ r.op = .read
      ∧ r.agent = .lane d false n l.asked ∧ r.pa = e.pa + ((l.nextRead).1.toNat - e.va) ∧ r.n = (l.nextRead).2 ∧ r.st = .issued ∧ frame u
      ∧ u.lane? d false n = some { l with asked := l.asked + (l.nextRead).2 })
  ∧ (runs → l.answered < used → s.laneRead? d n = some q → q.st = .performed → ∃ u, exec (.sluicePictureEnd d n used) s = .next u
      ∧ frame u ∧ u.lane? d false n = some { l with answered := l.answered + q.n, bad := l.bad ++ if q.failed then [(l.answered, l.answered + q.n)] else [] } ∧ u.reqs = s.reqs.filter fun r => r.id != q.id)
  ∧ (l.st = 1 → s.laneRuns l = true → l.asked < l.len → tlbFind (s.htlb (.engine d (32 + n))) l.asid (l.nextRead).1 = some e → e.r = false →
      ∃ u, exec (.laneFault d n false true (l.nextRead).1) s = .next u ∧ u.lane? d false n = some { l with st := 2, cause := 2, fva := (l.nextRead).1 } ∧ u.mem = s.mem
        ∧ (({ l with st := 2, cause := 2, fva := (l.nextRead).1 } : Lane).word false).toNat % 2 ^ 32 = l.asked % 2 ^ 32
        ∧ u.ctxs = s.ctxs ∧ ∃ t, u.ftoks = s.ftoks ++ [t] ∧ t.cause = 0x32 ∧ t.tval = (l.nextRead).1)

/-- R287, R288, R290, R294, R295: a Spout lane takes SOT from its four ports and the staged template with it; it takes the coefficient tokens of a
leaf and, with their EOB, the leaf and its motion, which it codes where R288 allows it and drops and counts elsewhere; at EOT it owes the
writes of the picture's bytes behind their length in its slot, or of length 0 where they do not fit, sends them, and completes the picture once
they are performed; it is free after EOS. The bits that code the blocks are a free value, and which blocks it codes by merge or skip comes with the step (log 13); that the writes are
cut at sectors, and that a picture completes once all writes of its slot are performed, with no other picture begun before (log 52), and which
modes av1Mode takes as candidates (log 101), are the model's choices. -/
def Obligations.SpoutSteps : Prop := ∀ (s : State) (d n lg rnd vp : Nat) (l : Lane) (t bs : List Byte) (a x m : Tok) (b : CodedBlock) (va : W64)
    (rest : List (W64 × List Byte)) (e : TlbEnt) (whole : Bool) (merged skipped : List Nat),
  s.lane? d true n = some l → l.st = 1 → s.laneRuns l = true → (s.tile l.tile).frozen = false → l.tpl.isSome = true ∨ l.nextTpl.isSome = true →
  tileDie l.tile = d →
  let ready : Prop := l.out = [] ∧ l.fin = false ∧ s.spConsume d n l = none
  let all (code : Nat) : Prop := ∀ i < 4, s.spMark l i code = true
  let popped (u : State) (i : Nat) : Prop := l.spoutPorts.Nodup → ((u.tile l.tile).buf (vKey (l.port true i))).toks = ((s.tile l.tile).buf (vKey (l.port true i))).toks.drop 1
  let frame (u : State) : Prop := u.mem = s.mem ∧ u.ctxs = s.ctxs
  let count (c : BitVec 16) (k : Nat) : BitVec 16 := BitVec.ofNat 16 (min 65535 (c.toNat + k))
  let w0 : Nat := (a.lanes.at 0).toNat
  let mode : Nat := (a.lanes.at 1).toNat / 2 ^ 26
  let px : Nat := w0 / 2 ^ 20
  let py : Nat := w0 / 2 ^ 8 % 4096
  let slot : Nat := (m.lanes.at 2).toNat
  (ready → l.open_ = false → all 0x10 → ∃ u, exec (.spoutPictureStart d n) s = .next u ∧ (∀ i < 4, popped u i) ∧ frame u ∧ u.lane? d true n = some
      { l with open_ := true, toks := [], blocks := [], pos := 0, fill := 0, side := none, nextTpl := none
               tpl := match l.nextTpl with
                 | some y => some y
                 | none => l.tpl })
  ∧ (ready → l.open_ = true → s.spHead l 1 = some x → x.isMarker = false → ∃ u, exec (.spoutLeaf d n false) s = .next u ∧ popped u 1 ∧ frame u
      ∧ u.lane? d true n = some { l with toks := l.toks ++ [x] })
  ∧ (let eob : Prop := ready ∧ l.open_ = true ∧ s.spHead l 0 = some a ∧ s.spHead l 1 = some x ∧ s.spHead l 2 = some m ∧ x.isMarker = true ∧ x.index = 0
      ∧ a.kind = 5 ∧ m.kind = 0 ∧ (l.side.isSome = true ∨ s.spMark l 3 2 = true)
    (eob → l.codes a m = none → ∃ u, exec (.spoutLeaf d n true) s = .next u ∧ (∀ i < 3, popped u i) ∧ frame u
      ∧ u.lane? d true n = some { l with toks := [], c3 := count l.c3 1, now := l.now.add 1 0 0 0 })
    ∧ (eob → l.codes a m = some (b, rnd) → ∃ u l', exec (.spoutLeaf d n true) s = .next u ∧ (∀ i < 3, popped u i) ∧ frame u ∧ u.lane? d true n = some l'
      ∧ l'.toks = [] ∧ l'.c3 = l.c3 ∧ l'.c1 = count l.c1 rnd ∧ l'.pos = l.order b.x4 b.y4 + 4 ^ b.lw
      ∧ ∃ fill, l'.blocks = l.blocks ++ fill ++ [b] ∧ ∀ c ∈ fill, c.mode = (if l.typ = 0 then 0 else 43) ∧ c.slot = 0 ∧ c.x = 0 ∧ c.y = 0 ∧ c.levels = []))
  ∧ (w0 % 4 ≠ 0 ∨ w0 / 32 % 8 ≠ w0 / 4 % 8 ∨ mode = 63 ∨ l.order px py < l.pos ∨ (34 < mode ∧ (l.typ = 0 ∨ 7 ≤ slot)) ∨ px % 2 ^ (w0 / 32 % 8) ≠ 0
      → l.codes a m = none)
  ∧ (w0 % 4 = 0 → w0 / 32 % 8 = lg → w0 / 4 % 8 = lg → l.blockLegal px py lg = true → l.pos ≤ l.order px py → mode ≤ 34 → l.av1 = false → l.toks = [] →
      l.codes a m = some (⟨px, py, lg, mode, 7, 0, 0, []⟩, 0))
  ∧ (w0 % 4 = 0 → w0 / 32 % 8 = lg → w0 / 4 % 8 = lg → l.blockLegal px py lg = true → l.pos ≤ l.order px py → mode ≤ 34 → l.av1 = true → l.toks = [] →
      l.codes a m = some (⟨px, py, lg, av1Mode mode, 7, 0, 0, []⟩, if av1Mode mode = mode then 0 else 1))
  ∧ (ready → l.open_ = true → l.tpl = some t → all 2 →
      let pic : List Byte := pictureBytes l t l.pics
        (Config.codedBits s.free l.av1 l.typ l.baseQp l.w4 l.h4 (l.blocks ++ l.fillBlocks (l.endPos - l.pos) l.pos l.endPos) merged skipped)
      let out : List Byte := if l.slotsz < 8 + pic.length then leBytes 8 0 else leBytes 8 pic.length ++ pic
      ∃ u l', exec (.spoutPictureComplete d n merged skipped) s = .next u ∧ u.lane? d true n = some l' ∧ l'.open_ = false ∧ l'.fin = true ∧ l'.pics = l.pics
        ∧ l'.out = slotPieces (out.length / 64 + 1) (l.dbl 0 + BitVec.ofNat 64 (l.pics % l.nslot * l.slotsz)) out
        ∧ l'.c0 = count l.c0 (if l.slotsz < 8 + pic.length then 1 else 0) ∧ (∀ i < 4, popped u i) ∧ frame u)
  ∧ (l.out = (va, bs) :: rest → 0 < bs.length → va.toNat % 64 + bs.length ≤ 64 → tlbFind (s.htlb (.engine d (48 + n))) l.asid va = some e →
      e.w = true → e.cow = false → e.kind = .normal → ringed s l.asid va = false → ∃ u r, exec (.spoutLeaf d n whole) s = .next u ∧ frame u
      ∧ u.lane? d true n = some { l with out := rest } ∧ u.reqs = s.reqs ++ [r] ∧ r.agent = .lane d true n (rest.length + 1) ∧ r.op = .write
      ∧ r.pa = e.pa + (va.toNat - e.va) ∧ r.n = bs.length ∧ r.dat = bs ∧ r.st = .issued)
  ∧ (l.out = [] → l.fin = true → s.spWriting d n = true → exec (.spoutLeaf d n whole) s = .next s)
  ∧ (l.out = [] → l.fin = true → s.spWriting d n = false → ∃ u, exec (.spoutLeaf d n whole) s = .next u ∧ frame u
      ∧ u.lane? d true n = some { l with fin := false, pics := l.pics + 1 }
      ∧ (l.fireq true = none → (u.die d).fwait = (s.die d).fwait)
      ∧ (l.fireq true = some vp → ∃ w, (u.die d).fwait = (s.die d).fwait ++ [w] ∧ w.q = vp ∧ w.region = l.region
          ∧ w.tok.lanes.at 0 = BitVec.ofNat 32 (l.pics % l.nslot)))
  ∧ (ready → l.open_ = false → all 3 → ∃ u, exec (.spoutEnd d n) s = .next u ∧ u.lane? d true n = none ∧ frame u)
/-! ### The Cascade -/

/-- R299, R302, R305, R306, R312 to R316, R319 to R322, R328: WPUSH accepts a pip, visible at once where its basin is not below T_d, else after its
LOW; WPOP and WTRY hand a poppable pip of the lowest basin to the context, which holds it under its lowest free index; WDONE retires a held
pip; WDONE.F replays it or records and drops it; WPROMO gives it a new order, and a lowering below T_d waits for its LOW. Every failure code
is answered in its order; a word that waits goes on under the membership that it issued under, and a held pip is of the domain that it was popped
in; WPUSH, as the other words of R314 do by State.effects, sets the effects bit of every pip held. A pip of the ring whose access is lost is dropped
and the word goes on. Status 6 is R342's. That an interruption comes before a poppable pip (log 26), the answers in a domain that has ceased (log
86), the count of each refused push, and when a ring access is lost (log 28), are the model's. -/
def Obligations.PipWords : Prop := ∀ (d a b : Reg) (sc : BitVec 2) (n e e' id k code : Nat) (m : Domain) (p : Pip) (old : W64),
  let in_ (s : State) : Prop := s.casc s.cur.toNat = some (n, m, e)
  let still (s : State) : Prop := s.cascOf s.cur.toNat n = some (n, m, e)
  let noRing (s : State) : Prop := ∀ x ∈ s.domains, x.2.lg = 0
  let la (s : State) (c : Ctx) : Option Nat := checkLocal s s.cur.toNat (c.r a) 32 32
  let rec_ (s : State) (c : Ctx) : List W64 := pipOfBytes ((s.tile s.cur.toNat).seBytes (c.r a).toNat 32)
  let w0 (s : State) (c : Ctx) : W64 := acceptWord e 0 (setField ((rec_ s c).getD 0 0) 7 4 n)
  let newId (s : State) : Prop := s.unsettled s.nextId = false ∧ ∀ x ∈ s.domains, ∀ q ∈ x.2.pips, q.id ≠ s.nextId
  let takes (s : State) : Bool := s.cascTakes n m e
  let asks (s : State) (c : Ctx) : Prop := la s c = none ∧ ((c.wait = .idle ∧ in_ s) ∨ (c.wait = .release n ∧ still s))
  let pushes (s : State) (c : Ctx) : Prop := asks s c ∧ takes s = true ∧ s.released s.cur.toNat sc.toNat = true ∧ c.holds = [] ∧ newId s
  let pip (s : State) (c : Ctx) (x : PipAt) : Pip := { id := s.nextId, w := w0 s c :: (rec_ s c).drop 1, at_ := x, tile := s.cur.toNat }
  let fresh (s : State) (c : Ctx) : Prop := c.wait = .idle ∧ la s c = none ∧ c.holds.length < 4
  let tries (s : State) (c : Ctx) : Prop := (fresh s c ∧ in_ s) ∨ (c.wait = .pop n ∧ still s)
  let pops (s : State) (c : Ctx) : Prop := tries s c ∧ m.term = false
  let gives (i : Instr) (waits : Bool) : Prop :=
    let may (s : State) (c : Ctx) : Prop := pops s c ∧ (waits = true → s.interrupted s.cur.toNat c = false) ∧ (m.pips.map fun q => q.id).Nodup
    let good (s : State) : Prop := (s.draw 1).ringLost = false ∧ (s.ringSlot m e (m.ringIx e p.id)).isSome
    let alone : Prop := m.lowestPoppable e = [p] ∧ p.at_ = .ring e ∧ m.ring e = [p]
    Goes i (fun s c => may s c ∧ m.lowestPoppable e ≠ [] ∧ ((∀ q ∈ m.lowestPoppable e, q.at_ ≠ .ring e) ∨ (alone ∧ good s))
        ∧ SMap.get? c.holds k = none ∧ k < 4 ∧ ∀ j < k, (SMap.get? c.holds j).isSome)
      (fun s c u => ∃ q ∈ m.lowestPoppable e, ∃ m' q', u.dom? n = some m' ∧ m'.pip? q.id = some q' ∧ q'.at_ = .held e ∧ q'.tile = s.cur.toNat
        ∧ q'.w = setField q.word0 11 10 k :: q.w.drop 1 ∧ (m'.at e).pop = BitVec.ofNat 16 (min 65535 ((m.at e).pop.toNat + 1))
        ∧ u.ctxAt s.cur.toNat = some ({ c with holds := SMap.put c.holds k q.id }.w d (BitVec.ofNat 64 k)).next
        ∧ (u.tile s.cur.toNat).seBytes (c.r a).toNat 32 = pipBytes q'.w ∧ u.mem = s.mem)
    ∧ Goes i (fun s c => may s c ∧ alone ∧ ¬ good s ∧ m.pips = [p]) (fun s c u => u.mem = s.mem
        ∧ u.ctxAt s.cur.toNat = some (if waits then { c with wait := .pop n } else (c.w d 4).next)
        ∧ ∃ m' t, u.dom? n = some m' ∧ m'.pips = [] ∧ (m'.at e).r = (m.at e).r + 1
          ∧ (m'.at e).drp = BitVec.ofNat 16 (min 65535 ((m.at e).drp.toNat + 1)) ∧ u.ftoks = s.ftoks ++ [t] ∧ t.cause = 0x33)
    ∧ Answers i d (fun s c => fresh s c ∧ s.casc s.cur.toNat = none) (fun _ _ => 7)
    ∧ Answers i d (fun s c => tries s c ∧ m.term = true) (fun _ _ => 5)
    ∧ Answers i d (fun s c => c.wait = .pop n ∧ s.dom? n = none) (fun _ _ => 5)
    ∧ Answers i d (fun _ c => c.wait = .told old) (fun _ _ => old)
    ∧ Does i (fun s c => pops s c ∧ (waits = true → s.interrupted s.cur.toNat c = false) ∧ m.lowestPoppable e = []) (fun s c =>
        (if m.bounded e then s.setDom n { m with asked := true } else s).setCtx s.cur.toNat (if waits then { c with wait := .pop n } else (c.w d 4).next))
    ∧ Traps i (fun s c => c.wait = .idle ∧ la s c = none ∧ 4 ≤ c.holds.length) 6 4 (fun _ => sc.setWidth 64)
    ∧ Traps i (fun s c => c.wait = .idle ∧ la s c = some code) code 0 (fun c => c.r a)
  let has (s : State) (c : Ctx) : Prop := SMap.get? c.holds ((c.r b).toNat % 4) = some id ∧ s.domOf id = some (n, m) ∧ s.dom? n = some m
    ∧ m.pip? id = some p ∧ p.at_ = .held e'
  let drops (c : Ctx) : Ctx := { c with holds := SMap.del c.holds ((c.r b).toNat % 4) }
  let none_ (s : State) (c : Ctx) : Prop := (SMap.get? c.holds ((c.r b).toNat % 4)).bind s.domOf = none
  let new (c : Ctx) : Pip := p.setWord0 (setField p.word0 63 48 ((c.r a).toNat % 65536))
  let lowers (c : Ctx) : Prop := m.basin (new c) < m.basin p ∧ m.basin (new c) < (m.at e').t
  Goes (.wpush d a sc) (fun s c => pushes s c ∧ (m.at e).t ≤ m.basin (pip s c (.visible e))) (fun s c u => u.ctxAt s.cur.toNat = some (c.w d 0).next
      ∧ ∃ m', u.dom? n = some m' ∧ m'.term = false ∧ (m'.at e).p = (m.at e).p + 1 ∧ (m'.at e).psh = BitVec.ofNat 16 (min 65535 ((m.at e).psh.toNat + 1))
        ∧ (noRing s → m'.pips = m.pips ++ [pip s c (.visible e)] ∧ u.mem = s.mem))
  ∧ Goes (.wpush d a sc) (fun s c => pushes s c ∧ m.basin (pip s c (.visible e)) < (m.at e).t) (fun s c u =>
      u.ctxAt s.cur.toNat = some { c with wait := .push s.nextId } ∧ ∃ m', u.dom? n = some m' ∧ m'.lows = m.lows ++ [(s.nextId, e)]
        ∧ (noRing s → m'.pips = m.pips ++ [pip s c (.pending e)] ∧ u.mem = s.mem))
  ∧ Goes (.wpush d a sc) (fun s c => asks s c ∧ takes s = true ∧ s.released s.cur.toNat sc.toNat = true ∧ newId s ∧ noRing s) (fun s c u => u.mem = s.mem
      ∧ ∃ m', u.dom? n = some m' ∧ m'.pips = m.pips.map (fun q => if q.id ∈ c.holds.map (·.2) then q.setWord0 (setField q.word0 1 1 1) else q)
        ++ [pip s c (if (m.at e).t ≤ m.basin (pip s c (.visible e)) then .visible e else .pending e)])
  ∧ (∀ (s : State) t c, s.ctxAt t = some c → s.dom? n = some m → ∃ m', (s.effects t).dom? n = some m'
      ∧ m'.pips = m.pips.map (fun q => if q.id ∈ c.holds.map (·.2) then q.setWord0 (setField q.word0 1 1 1) else q)
      ∧ (s.effects t).mem = s.mem ∧ (s.effects t).ctxs = s.ctxs ∧ (c.holds = [] → s.effects t = s))
  ∧ Does (.wpush d a sc) (fun s c => asks s c ∧ takes s = true ∧ s.released s.cur.toNat sc.toNat = false) (fun s c =>
      s.setCtx s.cur.toNat { c with wait := .release n })
  ∧ Answers (.wpush d a sc) d (fun s c => c.wait = .push id ∧ s.unsettled id = false) (fun _ _ => 0)
  ∧ Answers (.wpush d a sc) d (fun s c => c.wait = .idle ∧ la s c = none ∧ s.casc s.cur.toNat = none) (fun _ _ => 2)
  ∧ Does (.wpush d a sc) (fun s c => asks s c ∧ takes s = false) (fun s c =>
      (s.countTile s.cur.toNat 12 1).setCtx s.cur.toNat (c.w d 1).next)
  ∧ Answers (.wpush d a sc) d (fun s c => c.wait = .release n ∧ la s c = none ∧ s.dom? n = none) (fun _ _ => 2)
  ∧ Answers (.wpush d a sc) d (fun _ c => c.wait = .told old) (fun _ _ => old)
  ∧ Traps (.wpush d a sc) (fun s c => c.wait = .idle ∧ la s c = some code) code 0 (fun c => c.r a)
  ∧ gives (.wpop d a sc) true ∧ gives (.wtry d a sc) false
  ∧ Answers (.wpop d a sc) d (fun s c => pops s c ∧ s.interrupted s.cur.toNat c = true) (fun _ _ => 6)
  ∧ Goes (.wdone d b sc) (fun s c => has s c ∧ s.released s.cur.toNat sc.toNat = true) (fun s c u => u.ctxAt s.cur.toNat = some ((drops c).w d 0).next
      ∧ u.mem = s.mem ∧ ∃ m', u.dom? n = some m' ∧ m'.pips = m.pips.filter (fun q => q.id != id) ∧ (m'.at e').r = (m.at e').r + 1)
  ∧ Goes (.wdoneF d b sc) (fun s c => has s c ∧ s.released s.cur.toNat sc.toNat = true ∧ newId s) (fun s c u =>
      u.ctxAt s.cur.toNat = some ((drops c).w d 0).next ∧ ∃ m', u.dom? n = some m'
        ∧ (p.word0.toNat % 4 = 1 → p.word0.toNat / 256 % 4 < 3 → (m'.at e').rpl = BitVec.ofNat 16 (min 65535 ((m.at e').rpl.toNat + 1))
            ∧ (noRing s → u.mem = s.mem ∧ (m'.at e').r = (m.at e').r + 1 ∧ ∃ q ∈ m'.pips, q.id = s.nextId
                ∧ q.word0 = acceptWord e' (p.word0.toNat / 256 % 4 + 1) p.word0))
        ∧ (p.word0.toNat % 4 ≠ 1 ∨ p.word0.toNat / 256 % 4 = 3 → m'.pips = m.pips.filter (fun q => q.id != id) ∧ (m'.at e').last = p.word0
            ∧ (m'.at e').r = (m.at e').r + 1 ∧ (m'.at e').drp = BitVec.ofNat 16 (min 65535 ((m.at e').drp.toNat + 1)) ∧ u.mem = s.mem))
  ∧ Answers (.wdone d b sc) d none_ (fun _ _ => 1) ∧ Answers (.wdoneF d b sc) d none_ (fun _ _ => 1)
  ∧ Does (.wpromo d a b) (fun s c => has s c ∧ (∀ i v, c.wait ≠ .promo i v) ∧ ¬ lowers c) (fun s c =>
      (s.setDom n (m.setPip (new c))).setCtx s.cur.toNat (c.w d p.word0).next)
  ∧ Does (.wpromo d a b) (fun s c => has s c ∧ (∀ i v, c.wait ≠ .promo i v) ∧ lowers c) (fun s c =>
      (s.setDom n { m.setPip (new c) with lows := m.lows ++ [(id, e')] }).setCtx s.cur.toNat { c with wait := .promo id p.word0 })
  ∧ Answers (.wpromo d a b) d (fun s c => c.wait = .promo id old ∧ s.unsettled id = false) (fun _ _ => old)
  ∧ Answers (.wpromo d a b) d (fun s c => (∀ i v, c.wait ≠ .promo i v) ∧ none_ s c) (fun _ _ => 0xFFFFFFFFFFFFFFFF)

/-- R300, R301, R309, R312, R323 to R326, R328: WFLOOR answers m_d and F_d; WFLOOR.R asks for a round and answers after it; WDOM joins a domain, leaves it
and names it; WSTAT answers a die's words, sel 2 clearing its counters but for what the present island cycle has counted; WDRAIN waits for
termination; a word that waits goes on under the membership that it issued under, a WDOM that waits for its descriptor too; the last member's leaving ends the domain, and what waits in it is told. What it is told
(log 86), the low 16 bits of F_d in the word, and that a round under way does not end a WFLOOR.R (log 28), are the model's. -/
def Obligations.DomainWords : Prop := ∀ (d a : Reg) (sc : BitVec 2) (n e k h : Nat) (m : Domain) (r : Region) (bs : List Byte),
  let in_ (s : State) : Prop := s.casc s.cur.toNat = some (n, m, e)
  let out (s : State) : Prop := s.casc s.cur.toNat = none
  let still (s : State) : Prop := s.cascOf s.cur.toNat n = some (n, m, e)
  let idle (c : Ctx) : Prop := c.wait = .idle
  let word : W64 := BitVec.ofNat 64 (m.low e * 65536 + (m.at e).f % 65536)
  let mine (s : State) : Prop := s.regionOf s.cur.toNat = some (h, r)
  let reads (s : State) (c : Ctx) : Prop := mine s ∧ (c.r a).toNat % 64 = 0 ∧ s.ownRead s.cur.toNat c (c.r a) 64 = .ok bs
  let num : Nat := bits64 (imgDouble bs 0) 3 0
  let ok (s : State) : Prop := domLegal s.hub.pkg.toNat bs = true
  let x : DomDie := m.at e
  let counts : W64 := x.psh ++ x.pop ++ x.rpl ++ x.drp
  let left : List Nat := m.members.filter fun y => y != h
  let member (c : Ctx) : Prop := r.domain ≠ none ∨ (c.wait ≠ .idle ∧ c.dom0 ≠ none)
  Answers (.wfloor d) d (fun s _ => in_ s) (fun _ _ => word) ∧ Answers (.wfloor d) d (fun s _ => out s) (fun _ _ => 0xFFFFFFFFFFFFFFFF)
  ∧ Goes (.wfloorR d) (fun s c => in_ s ∧ idle c) (fun s c u => u.mem = s.mem ∧ u.dom? n = some { m with asked := true }
      ∧ ∃ i, u.ctxAt s.cur.toNat = some { c with wait := .round n i } ∧ m.rounds < i)
  ∧ Answers (.wfloorR d) d (fun s c => still s ∧ c.wait = .round n k ∧ k ≤ m.rounds) (fun _ _ => word)
  ∧ Does (.wfloorR d) (fun s c => still s ∧ c.wait = .round n k ∧ m.rounds < k) (fun s _ => s)
  ∧ Answers (.wfloorR d) d (fun s c => out s ∧ idle c) (fun _ _ => 0xFFFFFFFFFFFFFFFF)
  ∧ Answers (.wfloorR d) d (fun s c => c.wait = .round n k ∧ s.dom? n = none) (fun _ _ => 0xFFFFFFFFFFFFFFFF)
  ∧ Answers (.wfloorR d) d (fun _ c => c.wait = .told x.last) (fun _ _ => x.last)
  ∧ Goes (.wdomJoin d a) (fun s c => reads s c ∧ ok s ∧ ¬ member c ∧ s.dom? num = none) (fun s c u =>
      u.ctxAt s.cur.toNat = some (c.w d 0).next ∧ u.region? h = some { r with domain := some num } ∧ u.mem = s.mem
        ∧ ∃ m', u.dom? num = some m' ∧ m'.desc = doublesOf 8 bs ∧ m'.members = [h] ∧ m'.pips = [] ∧ m'.floor = 0 ∧ m'.term = false)
  ∧ Goes (.wdomJoin d a) (fun s c => reads s c ∧ ok s ∧ ¬ member c ∧ s.dom? num = some m ∧ m.desc = doublesOf 8 bs) (fun s c u =>
      u.ctxAt s.cur.toNat = some (c.w d 0).next ∧ u.region? h = some { r with domain := some num } ∧ u.mem = s.mem
        ∧ u.dom? num = some { m with members := m.members ++ [h] })
  ∧ Answers (.wdomJoin d a) d (fun s c => reads s c ∧ ¬ ok s) (fun _ _ => 1)
  ∧ Answers (.wdomJoin d a) d (fun s c => reads s c ∧ ok s ∧ member c) (fun _ _ => 2)
  ∧ Answers (.wdomJoin d a) d (fun s c => reads s c ∧ ok s ∧ ¬ member c ∧ s.dom? num = some m ∧ m.desc ≠ doublesOf 8 bs) (fun _ _ => 3)
  ∧ Traps (.wdomJoin d a) (fun _ c => (c.r a).toNat % 64 ≠ 0) 2 0 (fun c => c.r a)
  ∧ Goes (.wdomLeave d) (fun s _ => mine s ∧ r.domain = some n ∧ s.dom? n = some m ∧ (∀ y ∈ s.regionCtxs r, y.2.holds = []))
      (fun s c u => u.ctxAt s.cur.toNat = some (c.w d 0).next ∧ u.mem = s.mem
        ∧ u.region? h = some { r with domain := none, sctx := if left = [] then r.sctx.map fun x => (x.1, x.2.unhold m) else r.sctx }
        ∧ u.dom? n = (if left = [] then none else some { m with members := left })
        ∧ ∀ t y, t ≠ s.cur.toNat → s.ctxAt t = some y → u.ctxAt t = some (if left = [] then { y.unhold m with wait := y.wait.ended n true } else y))
  ∧ (∀ (y : Ctx) x, x ∈ (y.unhold m).holds ↔ x ∈ y.holds ∧ m.pip? x.2 = none)
  ∧ (∀ w : Wait, w.ended n true = match w with
      | .pop j => if j = n then .told 5 else w
      | .drain j => if j = n then .told 0 else w
      | .release j => if j = n then .told 2 else w
      | .round j _ => if j = n then .told 0xFFFFFFFFFFFFFFFF else w
      | _ => w)
  ∧ Answers (.wdomLeave d) d (fun s _ => mine s ∧ (r.domain = none ∨ ∃ y ∈ s.regionCtxs r, y.2.holds ≠ [])) (fun _ _ => 2)
  ∧ Answers (.wdomQuery d) d (fun s _ => in_ s) (fun _ _ => BitVec.ofNat 64 n)
  ∧ Answers (.wdomQuery d) d (fun s _ => out s) (fun _ _ => 0xFFFFFFFFFFFFFFFF)
  ∧ Answers (.wstat d a) d (fun s c => out s ∨ 5 ≤ (c.r a).toNat % 8) (fun _ _ => 0)
  ∧ Answers (.wstat d a) d (fun s c => in_ s ∧ (c.r a).toNat % 8 < 5 ∧ (c.r a).toNat % 8 ≠ 2) (fun _ c => match (c.r a).toNat % 8 with
      | 0 => m.dieWord n e
      | 1 => counts
      | 3 => x.last
      | _ => x.p.extractLsb' 0 32 ++ x.r.extractLsb' 0 32)
  ∧ Does (.wstat d a) (fun s c => in_ s ∧ (c.r a).toNat % 8 = 2) (fun s c =>
      (s.setDom n (m.setAt e { x with psh := x.now.c3, pop := x.now.c2, rpl := x.now.c1, drp := x.now.c0 })).setCtx s.cur.toNat (c.w d counts).next)
  ∧ (let drains (s : State) (c : Ctx) : Prop := (idle c ∧ in_ s) ∨ (c.wait = .drain n ∧ s.dom? n = some m)
    Answers (.wdrain d sc) d (fun s c => idle c ∧ out s) (fun _ _ => 7)
    ∧ Answers (.wdrain d sc) d (fun s c => drains s c ∧ m.term = true) (fun _ _ => 0)
    ∧ Answers (.wdrain d sc) d (fun s c => drains s c ∧ m.term = false ∧ s.interrupted s.cur.toNat c = true) (fun _ _ => 6)
    ∧ Does (.wdrain d sc) (fun s c => drains s c ∧ m.term = false ∧ s.interrupted s.cur.toNat c = false) (fun s c =>
        s.setCtx s.cur.toNat { c with wait := .drain n })
    ∧ Answers (.wdrain d sc) d (fun s c => c.wait = .drain n ∧ s.dom? n = none) (fun _ _ => 0)
    ∧ Answers (.wdrain d sc) d (fun _ c => c.wait = .told x.last) (fun _ _ => x.last))
/-! ### The floor, balancing and termination -/

/-- R306, R307, R309, R316: the master lowers the floor for a LOW below it and acknowledges it once every die has applied SETF; a round asks
every die for m_d, opening its pushes, and the least reply with the LOWs of the round raises the floor; an acknowledged pip becomes visible. -/
def Obligations.FloorSteps : Prop := ∀ (s : State) (n e id v : Nat) (m : Domain) (p : Pip) (rest : List (Nat × Nat)) (back : Bool),
  s.dom? n = some m →
  let sent (m' : Domain) (f : Nat) : Prop := m'.floor = f ∧ (∀ x ∈ m.dies, (m'.at x).setf = some f) ∧ m'.pips = m.pips
  let turns (i : Instr) (q : Domain → Prop) : Prop := ∃ m', exec i s = .next (s.setDom n m') ∧ q m'
  (m.lows = (id, e) :: rest → m.pip? id = some p → m.st = .rest ∨ m.st = .collecting → m.basin p < m.floor → turns (.floorLowMessage n) fun m' =>
      sent m' (m.basin p) ∧ m'.st = .lowering id e (m.st == .collecting) ∧ m'.lows = rest
        ∧ m'.pend = if m.st = .collecting then min m.pend (m.basin p) else m.pend)
  ∧ (m.lows = (id, e) :: rest → m.pip? id = some p → m.st = .rest ∨ m.st = .collecting → m.floor ≤ m.basin p →
      exec (.floorLowMessage n) s = .next (s.setDom n { m with
        lows := rest
        acks := m.acks ++ [(id, e)]
        pend := if m.st = .collecting then min m.pend (m.basin p) else m.pend }))
  ∧ (m.st = .spreading ∨ m.st = .lowering id v back → exec (.floorLowMessage n) s = .next s)
  ∧ ((m.at e).setf = some v → exec (.setfApply n e) s = .next (s.setDom n (m.setAt e { m.at e with f := v, t := v, setf := none })))
  ∧ ((∀ x ∈ m.dies, (m.at x).setf = none) → m.st = .lowering id e back → exec (.setfApplied n) s =
      .next (s.setDom n { m with st := if back then .collecting else .rest, acks := m.acks ++ [(id, e)] }))
  ∧ ((∀ x ∈ m.dies, (m.at x).setf = none) → m.st = .spreading → exec (.setfApplied n) s = .next (s.setDom n { m with st := .rest, rounds := m.rounds + 1 }))
  ∧ ((∃ x ∈ m.dies, (m.at x).setf ≠ none) → exec (.setfApplied n) s = .next s)
  ∧ (m.acks = (id, e) :: rest → m.pip? id = some p → p.at_ = .pending e → ∃ u m', exec (.lowAck n e) s = .next u ∧ u.dom? n = some m'
      ∧ (m'.at e).p = (m.at e).p + 1 ∧ m'.acks = rest ∧ u.ctxs = s.ctxs
      ∧ ((∀ x ∈ s.domains, x.2.lg = 0) → u.mem = s.mem ∧ m'.pip? id = some { p with at_ := if p.deep then .ring e else .visible e, src := none, deep := false }))
  ∧ (m.acks = (id, e) :: rest → m.pip? id = some p → p.at_ = .held e → exec (.lowAck n e) s = .next (s.setDom n { m with acks := rest }))
  ∧ (m.st = .rest → m.asked = true ∨ ((∃ q ∈ m.pips, ∃ x ∈ m.dies, q.visibleAt x = true) ∧ m.lastRound.toNat + 1024 ≤ (s.masterNow m).toNat) →
      turns (.floorRoundStart n) fun m' => m'.st = .collecting ∧ m'.asked = false ∧ m'.pend = 65536 ∧ m'.got = 65536 ∧ m'.lastRound = s.masterNow m
        ∧ (∀ x ∈ m.dies, (m'.at x).query = true ∧ (m'.at x).reply = none) ∧ m'.floor = m.floor ∧ m'.pips = m.pips)
  ∧ ((m.at e).query = true → exec (.floorQuery n e) s =
      .next (s.setDom n (m.setAt e { m.at e with query := false, t := 65536, reply := some (m.low e) })))
  ∧ (m.st = .collecting → (m.at e).reply = some v → (m.at e).query = false → (∀ x ∈ m.dies, x ≠ e → (m.at x).query = false ∧ (m.at x).reply = none) →
      turns (.floorReply n e) fun m' => sent m' (max m.floor (min (min m.got v) m.pend)) ∧ m'.st = .spreading)
  ∧ (m.st = .collecting → (m.at e).reply = some v → (∃ x ∈ m.dies, (m.at x).query = true ∨ (x ≠ e ∧ (m.at x).reply ≠ none)) →
      exec (.floorReply n e) s = .next (s.setDom n { m.setAt e { m.at e with reply := none } with got := min m.got v }))

/-- R302, R303, R308, R310 to R312: an idle die asks the next die for work, and half the surplus moves, 32 pips at most, lowest basins first; a
moved pip is inserted as a push at its new home and reported; two passes over idle dies whose counts agree, begun while a WPOP or a WDRAIN waits
on each of them, end the domain; pips above the window spill and return in their order. Asking one die at a time and when a ring access is lost
(log 28), and what a die of another package reports of its waiting words (log 86), are the model's. -/
def Obligations.BalanceSteps : Prop := ∀ (s : State) (n e o ix b pa : Nat) (m : Domain) (p : Pip) (rest : List Nat) (lost : Bool),
  s.dom? n = some m → (m.pips.map fun q => q.id).Nodup →
  let noRing : Prop := ∀ x ∈ s.domains, x.2.lg = 0
  let now : W64 := s.cycles (cascIsland e)
  let sur : Nat := (m.poppable o).length - s.domWaiters m o (fun w => w == .pop n)
  let out : List Pip := (m.byBasin ((m.poppable o).filter fun q => q.word0.getLsbD 12 == false)).take (min 32 ((sur + 1) / 2))
  let moving : List (Pip × Nat) := m.pips.filterMap fun q => match q.at_ with
    | .moving _ b => some (q, b)
    | _ => none
  let q : Pip := p.setWord0 (setField p.word0 3 2 (b % 4))
  let idle (x : Nat) : Prop := s.domIdle m x = true
  let total (f : DomDie → W64) : W64 := (m.dies.map fun x => f (m.at x)).foldl (· + ·) 0
  ((m.at e).asks = [] → (m.at e).askedAll = [] → m.poppable e = [] → m.askOrder e = o :: rest → e / 4 ≠ m.here ∨ s.domWaiters m e (fun w => w == .pop n) ≠ 0 →
      (m.at e).askedAt = none ∨ (∃ a, (m.at e).askedAt = some a ∧ a.toNat + 256 ≤ now.toNat) →
      exec (.balanceRequest n e o) s = .next (s.setDom n (m.setAt e { m.at e with asks := [o], askedAt := some now })))
  ∧ (o ∈ (m.at e).asks → (∀ q ∈ m.pips, q.at_ ≠ .ring o) → ∃ u m', exec (.balanceAnswer n e o) s = .next u ∧ u.dom? n = some m' ∧ u.mem = s.mem
      ∧ u.ctxs = s.ctxs ∧ (∀ q ∈ out, m'.pip? q.id = some { q with at_ := .moving o e, src := some o })
      ∧ (∀ q ∈ m.pips, q ∉ out → m'.pip? q.id = some q) ∧ (e ≠ o → (m'.at o).r = (m.at o).r + BitVec.ofNat 64 out.length) ∧ o ∉ (m'.at e).asks)
  ∧ (moving[ix]? = some (p, b) → b / 4 = m.here → s.cascTakes n m b = false → exec (.pipMoveArrive n ix) s = .next s)
  ∧ (moving[ix]? = some (p, b) → b / 4 ≠ m.here ∨ s.cascTakes n m b = true → m.basin q < (m.at b).t → ∃ u m', exec (.pipMoveArrive n ix) s = .next u
      ∧ u.dom? n = some m' ∧ m'.lows = m.lows ++ [(p.id, b)] ∧ m'.term = false ∧ m'.reports = m.reports
      ∧ (noRing → u.mem = s.mem ∧ m'.pip? p.id = some { q with at_ := .pending b }))
  ∧ (moving[ix]? = some (p, b) → b / 4 ≠ m.here ∨ s.cascTakes n m b = true → (m.at b).t ≤ m.basin q → ∃ u m', exec (.pipMoveArrive n ix) s = .next u
      ∧ u.dom? n = some m' ∧ (noRing → u.mem = s.mem ∧ m'.pip? p.id = some { q with at_ := if p.deep then .ring b else .visible b, src := none, deep := false }) ∧ (m'.at b).p = (m.at b).p + 1
      ∧ m'.term = false ∧ m'.reports = m.reports ++ (match p.src with
        | some a => [(a, m.basin q)]
        | none => []))
  ∧ exec (.moveVisibleReport n ix) s = .next (s.setDom n { m with reports := m.reports.eraseIdx ix })
  ∧ (m.term = false → m.pass1 = true → (∀ x ∈ m.dies, idle x ∧ (m.at x).idle1 = some ((m.at x).p, (m.at x).r)) →
      ∃ u, exec (.terminationPass n) s = .next u ∧ u.dom? n = some { m with pass1 := false, term := true } ∧ u.mem = s.mem
        ∧ ∀ t c, s.ctxAt t = some c →
          u.ctxAt t = some { c with wait := if c.wait = .pop n then .told 5 else if c.wait = .drain n then .told 0 else c.wait })
  ∧ (m.term = false → m.pass1 = true → (∃ x ∈ m.dies, ¬ idle x ∨ (m.at x).idle1 ≠ some ((m.at x).p, (m.at x).r)) →
      exec (.terminationPass n) s = .next (s.setDom n { m with pass1 := false }))
  ∧ (m.term = false → m.pass1 = false → (∀ x ∈ m.dies, idle x) → s.domWaits n m = true →
      m.lastTerm = none ∨ (∃ a, m.lastTerm = some a ∧ a.toNat + 1024 ≤ (s.masterNow m).toNat) →
      ∃ m', exec (.terminationPass n) s = .next ((s.draw 1).setDom n m') ∧ m'.term = false ∧ m'.lastTerm = some (s.masterNow m) ∧ (m'.pass1 = true ↔ total (fun x => x.p) = total (fun x => x.r))
        ∧ ∀ x ∈ m.dies, (m'.at x).idle1 = some ((m.at x).p, (m.at x).r))
  ∧ (m.term = false → m.pass1 = false → (∃ x ∈ m.dies, ¬ idle x) → exec (.terminationPass n) s = .next s)
  ∧ (m.term = false → m.pass1 = false → (∀ x ∈ m.dies, idle x) → s.domWaits n m = false → m.lastTerm = none → exec (.terminationPass n) s = .next (s.draw 1))
  ∧ ((∀ x ∈ m.dies, x / 4 = m.here) → (s.domWaits n m = true ↔ ∀ x ∈ m.dies, ∃ t c, (t, c) ∈ s.ctxs ∧ c.halted = false
      ∧ (c.wait = .pop n ∨ c.wait = .drain n) ∧ m.serving (tileDie t) = x))
  ∧ (m.highest e = some p → m.ringFree e = true → (m.at e).f + 63 < m.basin p → s.ringSlot m e (m.spilled e) = some pa →
      exec (.spillRefill n ⟨e, false⟩) s = .next { (s.setDom n { m with pips := (m.pips.filter fun q => q.id != p.id) ++ [p.sink e] }) with
        mem := s.mem.putBytes pa (pipBytes p.w) })
  ∧ (p.at_ = .visible e → p.sink e = { p with at_ := .ring e }) ∧ (p.at_ = .pending e → p.sink e = { p with deep := true })
  ∧ (p.at_ = .ring e → p.rise e = { p with at_ := .visible e }) ∧ (p.at_ = .pending e → p.rise e = { p with deep := false })
  ∧ (m.highest e = some p → m.ringFree e = true → (m.at e).f + 63 < m.basin p → lost = true ∨ s.ringSlot m e (m.spilled e) = none →
      ∃ u m' t, exec (.spillRefill n ⟨e, lost⟩) s = .next u ∧ u.dom? n = some m' ∧ m'.pips = m.pips.filter (fun q => q.id != p.id) ∧ u.mem = s.mem
        ∧ (m'.at e).r = (m.at e).r + 1 ∧ (m'.at e).drp = BitVec.ofNat 16 (min 65535 ((m.at e).drp.toNat + 1)) ∧ u.ftoks = s.ftoks ++ [t] ∧ t.cause = 0x33)
  ∧ (m.highest e = none → m.lowest e = some p → m.basin p ≤ (m.at e).f + 63 → s.chipAll m e < 8192 → (s.ringSlot m e (m.ringIx e p.id)).isSome →
      ∃ u m', exec (.spillRefill n ⟨e, false⟩) s = .next u ∧ u.dom? n = some m' ∧ u.ctxs = s.ctxs ∧ m'.pip? p.id = some (p.rise e)
        ∧ (m.spilled e = 1 → u = s.setDom n (m.setPip (p.rise e))))
  ∧ (m.highest e = none → m.lowest e = some p → m.basin p ≤ (m.at e).f + 63 → s.chipAll m e < 8192 →
      lost = true ∨ s.ringSlot m e (m.ringIx e p.id) = none →
      ∃ u m', exec (.spillRefill n ⟨e, lost⟩) s = .next u ∧ u.dom? n = some m' ∧ u.ctxs = s.ctxs ∧ m'.pip? p.id = none
        ∧ (m.spilled e = 1 → u.mem = s.mem ∧ (m'.at e).r = (m.at e).r + 1 ∧ ∃ t, u.ftoks = s.ftoks ++ [t] ∧ t.cause = 0x33))
/-! ### Groups, segments and PARK -/

/-- R336, R337, R342, R350 to R355: GJOIN and GLEAVE move a context into a group and out of it; GBAR arrives, is withdrawn by an interruption,
waits as a pending member, and completes with the episode, which ends for every member in one step; GSIZE, SEGEND and CTRACT answer;
PARK answers the ports that hold a head. The 0 of csr.tval at PARK's capacity trap and an interruption before a head (log 26), an episode with
no member left (log 27), what CTRACT sel 3 does without an overrun (log 64), and that a port bound or lost while PARK waits is looked at no more
(log 104), are the model's. -/
def Obligations.GroupWords : Prop := ∀ (d a : Reg) (sc sel : BitVec 2) (s₀ : State) (h : Nat) (r : Region) (k : BitVec 3) (q : Contract),
  let mine (s : State) : Prop := s.regionOf s.cur.toNat = some (h, r)
  let none_ (s : State) (c : Ctx) : Prop := c.group = none ∨ s.regionOf s.cur.toNat = none
  let in_ (s : State) (c : Ctx) : Prop := c.group = some k ∧ mine s
  let fresh (c : Ctx) : Prop := c.wait = .idle
  let cut (s : State) (c : Ctx) : Prop := s.interrupted s.cur.toNat c = true
  let free_ (s : State) (c : Ctx) : Prop := s.interrupted s.cur.toNat c = false ∧ s.released s.cur.toNat sc.toNat = true
  let port (s : State) (vp : Nat) : Bool := !((s.tile s.cur.toNat).buf (vKey vp)).toks.isEmpty
  let named (c : Ctx) (vp : Nat) : Bool := vp < 64 && (c.r a).getLsbD vp
  let legal (s : State) (c : Ctx) : Prop := c.r a ≠ 0 ∧ (c.wait = .park ∨ ∀ vp, named c vp = true → s.parkable s.cur.toNat vp = true)
  let has (s : State) : Prop := mine s ∧ r.contract = some q
  Does (.gjoin d a) (fun s c => c.group = none ∧ mine s) (fun s c => s.setCtx s.cur.toNat ({ c with
      group := some ((c.r a).setWidth 3)
      pendingMember := r.gArr.contains ((c.r a).toNat % 8)
      arrivedAt := false }.w d 0).next)
  ∧ Answers (.gjoin d a) d (fun s c => c.group ≠ none ∧ mine s) (fun _ _ => 1)
  ∧ Goes (.gleave d) in_ (fun s c u => u.ctxAt s.cur.toNat = some { (c.w d 0).next with group := none, pendingMember := false, arrivedAt := false }
      ∧ u.mem = s.mem ∧ (r.gArr.contains k.toNat = true → (∀ x ∈ s.members r k, x.1 ≠ s.cur.toNat → x.2.pendingMember = true ∨ x.2.arrivedAt = true) →
        ∀ x ∈ s.members r k, x.1 ≠ s.cur.toNat → x.2.wait = .arrived →
          u.ctxAt x.1 = some { x.2 with wait := .episode, arrivedAt := false, pendingMember := false }))
  ∧ Answers (.gleave d) d (fun _ c => c.group = none) (fun _ _ => 1)
  ∧ Answers (.gbar d sc) d none_ (fun _ _ => 1)
  ∧ Answers (.gbar d sc) d (fun s c => in_ s c ∧ fresh c ∧ cut s c) (fun _ _ => 6)
  ∧ Does (.gbar d sc) (fun s c => in_ s c ∧ fresh c ∧ free_ s c ∧ c.pendingMember = true) (fun s c => s.setCtx s.cur.toNat { c with wait := .later })
  ∧ Does (.gbar d sc) (fun s c => in_ s c ∧ fresh c ∧ free_ s c ∧ c.pendingMember = false) (fun s c =>
      (s.setRegion h { r with gArr := insRising r.gArr k.toNat }).setCtx s.cur.toNat { c with arrivedAt := true, wait := .arrived })
  ∧ Does (.gbar d sc) (fun s c => in_ s c ∧ c.wait = .arrived ∧ cut s c ∧ s.allArrived r k = false) (fun s c =>
      s.setCtx s.cur.toNat ({ c with arrivedAt := false }.w d 6).next)
  ∧ Goes (.gbar d sc) (fun s c => in_ s c ∧ c.wait = .arrived ∧ cut s c ∧ s.allArrived r k = true) (fun s c u => u.mem = s.mem
      ∧ u.ctxAt s.cur.toNat = some ({ c with arrivedAt := false }.w d 0).next)
  ∧ Answers (.gbar d sc) d (fun s c => in_ s c ∧ c.wait = .episode) (fun _ _ => 0)
  ∧ (s₀.region? h = some r → s₀.allArrived r k = true → ∃ u, exec (.gbarEpisodeComplete h k) s₀ = .next u ∧ u.mem = s₀.mem ∧ u.tiles = s₀.tiles
      ∧ u.region? h = some { r with gArr := r.gArr.filter fun j => j != k.toNat }
      ∧ ∀ x ∈ s₀.members r k, u.ctxAt x.1 = some { x.2 with
          wait := if x.2.wait = .arrived then .episode else x.2.wait
          arrivedAt := false
          pendingMember := false })
  ∧ (s₀.region? h = some r → s₀.allArrived r k = false → exec (.gbarEpisodeComplete h k) s₀ = .next s₀)
  ∧ Answers (.gsize d) d in_ (fun s _ =>
      BitVec.ofNat 64 (((s.members r k).takeWhile fun x => x.1 != s.cur.toNat).length * 256 + (s.members r k).length))
  ∧ Answers (.gsize d) d none_ (fun _ _ => 0xFFFFFFFFFFFFFFFF)
  ∧ Does (.segend d) (fun _ _ => True) (fun s c =>
      s.setCtx s.cur.toNat ({ c with segOpen := false }.w d (if s.latched s.cur.toNat then 1 else 0)).next)
  ∧ Answers (.park d a) d (fun s c => c.r a = 0 ∨ (legal s c ∧ cut s c)) (fun _ _ => 0)
  ∧ Traps (.park d a) (fun s c => c.wait ≠ .park ∧ ∃ vp, named c vp = true ∧ s.parkable s.cur.toNat vp = false) 6 4 (fun _ => 0)
  ∧ Goes (.park d a) (fun s c => legal s c ∧ ¬ cut s c ∧ ∃ vp, named c vp = true ∧ port s vp = true) (fun s c u =>
      ∃ v : W64, u = s.setCtx s.cur.toNat (c.w d v).next ∧ ∀ vp, v.getLsbD vp = (named c vp && port s vp))
  ∧ Does (.park d a) (fun s c => legal s c ∧ ¬ cut s c ∧ ∀ vp, named c vp = true → port s vp = false) (fun s c => s.setCtx s.cur.toNat { c with wait := .park })
  ∧ Answers (.ctract d sel) d (fun s _ => s.regionOf s.cur.toNat = none ∨ (mine s ∧ r.contract = none)) (fun _ _ => 0)
  ∧ Answers (.ctract d sel) d (fun s _ => has s ∧ sel ≠ 3) (fun _ _ => match sel.toNat with
      | 0 => packBits [(63, 1), (62, if q.frames then 1 else 0), (48, r.island), (32, q.ovr.toNat)]
      | 1 => packBits [(32, q.p), (0, q.b)]
      | _ => packBits [(32, q.num.toNat), (0, q.left)])
  ∧ Does (.ctract d sel) (fun s _ => has s ∧ sel = 3) (fun s c =>
      (s.setRegion h { r with contract := some { q with left := 0 } }).setCtx s.cur.toNat (c.w d (BitVec.ofNat 64 q.left)).next)

/-! ### Exceptions and system words -/

/-- R357, R360, R361, R369, R370, R374, R375: taking a synchronous cause saves the resume address, the cause, the value and the level, and goes to
csr.tvec at the monitor level; at the monitor level it stops the context, freezes its region, whose other contexts take cause 0x24 (log 84), and
sends the double fault; TRAP and SYSC raise theirs at the image level and only ask at the monitor level; ERET returns, and on a root core ends
its request once its stores are performed; HALT stops; INVR and INVA send an invalidation to every holder and wait for all of them. That the
ERET of a root core aborts the region of an aborting fault and sends another one on (log 23), that a suspension on a page that no host homes
ends there (log 89), and that an ORD kept apart by a fetch fault stands again behind ERET (log 37), are the model's. -/
def Obligations.SystemWords : Prop := ∀ (d a b : Reg) (v : W64) (h id code sub : Nat) (r : Region) (x : Inval) (f : FaultTok) (g : W64),
  let t (s : State) : Nat := s.cur.toNat
  let entry (c : Ctx) (cause : BitVec 16) (tval epc : W64) : Ctx := { c with
    epc := epc
    tcause := cause
    tval := tval
    plvl := c.lvl
    lvl := true
    pc := c.tvec
    mloop := []
    ord := none
    eord := none
    wait := .idle
    own := []
    awaiting := true }
  let image (c : Ctx) : Prop := c.lvl = false ∧ c.isRoot = false
  let from_ (s : State) (c : Ctx) (u : Nat) : BitVec 16 := (s.setCtx u c).faultAsid u (s.tile u).region
  let asks (i : Instr) (p : State → Ctx → Prop) (asid : Ctx → Option (BitVec 16)) (lo hi : Ctx → Nat) : Prop :=
    Goes i (fun s c => p s c ∧ s.outstanding (t s) = false ∧ ∀ n, c.wait ≠ .flush n) (fun s c u =>
        u = { s with
          invals := s.invals ++ [(⟨s.nextId, asid c, lo c, hi c, s.holders, s.holders, []⟩ : Inval)]
          nextId := s.nextId + 1 }.setCtx (t s) { c with wait := .flush s.nextId })
    ∧ Does i (fun s c => c.wait = .flush id ∧ s.invals.find? (fun y => y.id == id) = some x ∧ x.acks = []) (fun s c =>
        { s with invals := s.invals.filter fun y => y.id != id }.setCtx (t s) c.next)
    ∧ Does i (fun s c => c.wait = .flush id ∧ s.invals.find? (fun y => y.id == id) = some x ∧ x.acks ≠ []) (fun s _ => s)
  (∀ (s : State) (c : Ctx) (u : Nat), image c → code ≠ 0x10 → sub < 128 → code < 256 → ∃ s', s.raise u c code sub g v = s'
      ∧ s'.ctxAt u = some { entry c (BitVec.ofNat 16 (sub * 256 + code)) g v with src := u } ∧ s'.mem = s.mem ∧ (∀ w, w ≠ u → s'.ctxAt w = s.ctxAt w)
      ∧ s'.ftoks = s.ftoks ++ [⟨BitVec.ofNat 16 (sub * 256 + code), g, v, u, (s.tile u).region, 0, true, from_ s c u⟩] ∧ (code ≤ 8 → (s'.tile u).frozen = true))
  ∧ (∀ (s : State) (c : Ctx) (u : Nat), c.lvl = true → c.isRoot = false →
      ∃ s', s.raise u c code sub g v = s' ∧ s'.ctxAt u = some { c with halted := true } ∧ s'.mem = s.mem
        ∧ s'.ftoks = s.ftoks ++ [⟨0x34, 0, c.here, u, (s.tile u).region, 0, true, from_ s c u⟩]
        ∧ (s.regionOf u = some (h, r) → s'.region? h = some { r with frozen := true } ∧ (∀ w ∈ r.tiles, (s'.tile w).frozen = true)
          ∧ ∀ y ∈ s.regionCtxs r, y.1 ≠ u → y.2.halted = false → y.2.pend = [] → s'.ctxAt y.1 = some { y.2 with pend := [⟨0x24, 0x34, u⟩] }))
  ∧ Goes (.trap a) (fun s c => image c ∧ s.loadsOut (t s) = 0 ∧ s.regionOf (t s) = some (h, r)) (fun s c u => u.mem = s.mem
      ∧ u.ctxAt (t s) = some { entry c 0x10 (c.r a) (c.pc + 4) with src := t s } ∧ u.region? h = some { r with frozen := true } ∧ (∀ w ∈ r.tiles, (u.tile w).frozen = true)
      ∧ u.ftoks = s.ftoks ++ [⟨0x10, c.r a, c.pc + 4, t s, h, 0, true, from_ s c (t s)⟩]
      ∧ (∀ y ∈ s.regionCtxs r, y.1 ≠ t s → y.2.halted = false → y.2.pend = [] → u.ctxAt y.1 = some { y.2 with pend := [⟨0x10, c.r a, t s⟩] }))
  ∧ Does (.trap a) (fun _ c => c.lvl = true) (fun s c =>
      (s.token ⟨0x10, c.r a, c.pc, t s, (s.tile (t s)).region, startStage c (t s), false, c.asid⟩).setCtx (t s) c.next)
  ∧ Does (.sysc d a) (fun s c => image c ∧ c.wait = .idle ∧ s.outstanding (t s) = false) (fun s c =>
      { s with rootq := s.rootq ++ [(0, RootReq.sysc (t s) (s.tile (t s)).region d (c.r a))] }.setCtx (t s) (entry c 0x11 (c.r a) (c.pc + 4)))
  ∧ Does (.sysc d a) (fun s c => c.lvl = true ∧ c.wait = .idle ∧ s.outstanding (t s) = false) (fun s c =>
      { s with rootq := s.rootq ++ [(0, RootReq.sysc (t s) (s.tile (t s)).region d (c.r a))] }.setCtx (t s) { c with wait := .answer })
  ∧ Answers (.sysc d a) d (fun _ c => c.wait = .answered v) (fun _ _ => v)
  ∧ Does .halt (fun s c => s.storesOut (t s) = 0 ∧ c.group = none) (fun s c => s.setCtx (t s) { c.next with halted := true })
  ∧ Goes .halt (fun s c => s.storesOut (t s) = 0 ∧ c.group ≠ none ∧ s.regionOf (t s) = some (h, r)) (fun s c u => u.mem = s.mem
      ∧ u.ctxAt (t s) = some { c.next with halted := true, group := none, pendingMember := false, arrivedAt := false })
  ∧ Does .halt (fun s _ => s.storesOut (t s) ≠ 0) (fun s c => s.setCtx (t s) { c with wait := .again })
  ∧ Does .eret (fun _ c => c.isRoot = false) (fun s c => s.setCtx (t s) { c with
      pc := c.epc
      lvl := c.plvl
      mloop := []
      ret := c.ret + 1
      ord := c.eord
      eord := none
      wait := if c.redo = [] then .idle else .redo
      awaiting := false })
  ∧ Goes .eret (fun s c => c.isRoot = true ∧ s.outstanding (t s) = false ∧ SMap.get? s.roots (tileDie (t s)) = some (.sysc id h d v)) (fun s c u =>
      u.rootq = s.rootq ++ [(0, RootReq.answer id h d (c.r 1))] ∧ SMap.get? u.roots (tileDie (t s)) = none ∧ u.mem = s.mem)
  ∧ Goes .eret (fun s c => c.isRoot = true ∧ SMap.get? s.roots (tileDie (t s)) = some (.fault f) ∧ (aborting (f.cause.toNat % 256) && f.asks) = false ∧ s.settledHere f = false) (fun s _ u =>
      u.ftoks = s.ftoks ++ [{ f with stage := if tileDie (t s) = 0 then 2 else 1 }] ∧ u.mem = s.mem)
  ∧ Goes .eret (fun s c => c.isRoot = true ∧ SMap.get? s.roots (tileDie (t s)) = some (.fault f) ∧ aborting (f.cause.toNat % 256) = true ∧ f.asks = true) (fun s _ u =>
      u.ftoks = s.ftoks ++ [{ f with stage := 3 }] ∧ u.mem = s.mem)
  ∧ Goes .eret (fun s c => c.isRoot = true ∧ SMap.get? s.roots (tileDie (t s)) = some (.fault f) ∧ s.settledHere f = true) (fun s _ u =>
      u.ftoks = s.ftoks ++ [{ f with stage := 4 }] ∧ u.mem = s.mem)
  ∧ Does .eret (fun s c => c.isRoot = true ∧ s.outstanding (t s) = true ∧ SMap.get? s.roots (tileDie (t s)) = some (.sysc id h d v)) (fun s c =>
      s.setCtx (t s) { c with wait := .again })
  ∧ asks (.invr a b) (fun _ c => (c.r a).toNat % 4096 = 0 ∧ (c.r b).toNat / 2 ^ 45 % 8 = 0) (fun c => some ((c.r b).extractLsb' 48 16)) (fun c => (c.r a).toNat)
      (fun c => min ((c.r a).toNat + 4096 * ((c.r b).toNat % 2 ^ 45)) (2 ^ 57))
  ∧ Traps (.invr a b) (fun _ c => (∀ n, c.wait ≠ .flush n) ∧ (c.r a).toNat % 4096 ≠ 0) 2 0 (fun c => c.r a)
  ∧ Traps (.invr a b) (fun _ c => (∀ n, c.wait ≠ .flush n) ∧ (c.r a).toNat % 4096 = 0 ∧ (c.r b).toNat / 2 ^ 45 % 8 ≠ 0) 6 8 (fun c => c.r b)
  ∧ asks (.inva a) (fun _ _ => True) (fun c => if (c.r a).getLsbD 16 then none else some ((c.r a).setWidth 16)) (fun _ => 0) (fun _ => 2 ^ 57)
/-! ### Faults, root cores and invalidations -/

/-- R11, R356, R361, R362, R364, R370, R375: a fault token climbs from the root core of its die to the package root and the host, past root cores
that take no request (log 10, 11); the record of R364 is written when it leaves the package root unless that write is lost, and a fault that
asks is held for the host's reply, of suspensions the first; the report 0x30 of a damaged commit is recorded and holds nothing; a cause that
aborts, a double fault, and what a root core has condemned abort the region; a root core takes one request at a time, entering at csr.tvec with
the address space that the fault's context had as it was reported; the answer of a SYSC resumes its context, all ones where the package root
takes no request. The
stages behind a root core (log 23), that one without csr.tvec takes no request (log 25), csr.ret at a resumption (log 81), and memory as its
fetch sees it (log 72), are the model's. -/
def Obligations.FaultTree : Prop := ∀ (s : State) (ix d h : Nat) (f : FaultTok) (r : Region) (c rc : Ctx) (e : TlbEnt) (t : TileId) (x : Reg) (v : W64)
    (rest : List (Nat × RootReq)) (q : RootReq) (lost : List Nat),
  let code : Nat := f.cause.toNat % 256
  let entered (u : State) (cause : BitVec 16) (tval : W64) (asid : BitVec 16) : Prop :=
    u.ctxAt (rootTile d) = some { rc with
      pc := rc.tvec
      tcause := cause
      tval := tval
      asid := asid
      lvl := true
      mloop := []
      ord := none
      wait := .idle
      mem0 := s.mem }
    ∧ u.mem = s.mem ∧ u.tiles = s.tiles
  let takes : Prop := SMap.get? s.roots d = none ∧ s.rootReady d = true ∧ s.ctxAt (rootTile d) = some rc ∧ s.rootq = (d, q) :: rest
  let asks (arg : W64) : Prop := takes ∧ q = .sysc t.toNat h x arg ∧ s.ctxAt t.toNat = some c
  (s.ftoks[ix]? = some f → f.stage ≤ 1 → d = (if f.stage = 0 then tileDie f.tile else 0) → s.rootReady d = false →
      exec (.faultTokenRoute ⟨ix, lost⟩) s = .next { s with ftoks := s.ftoks.eraseIdx ix ++ [{ f with stage := if d = 0 then 2 else 1 }] })
  ∧ (s.ftoks[ix]? = some f → f.stage ≤ 1 → d = (if f.stage = 0 then tileDie f.tile else 0) → s.rootReady d = true →
      exec (.faultTokenRoute ⟨ix, lost⟩) s = .next { s with ftoks := s.ftoks.eraseIdx ix, rootq := s.rootq ++ [(d, .fault f)] })
  ∧ (s.ftoks[ix]? = some f → f.stage = 2 → f.asks = true → s.region? f.region = some r → code ∈ [3, 7, 0x10, 0x20, 0x21, 0x22, 0x23] →
      ∃ u, exec (.faultTokenRoute ⟨ix, lost⟩) s = .next u ∧ u.ftoks = s.ftoks.eraseIdx ix ∧ u.ctxs = s.ctxs
        ∧ u.region? f.region = some { r with nfaults := BitVec.ofNat 32 (min 4294967295 (r.nfaults.toNat + 1)), faults := r.faults ++ [f] }
        ∧ (code ≠ 0x20 → 0 ∈ lost → u.mem = s.mem ∧ u.ctr = (s.count (ctrTile (rootTile 0) 15) 1).ctr)
        ∧ (code ≠ 0x20 → 0 ∉ lost → r.recVa.toNat % 64 = 0 → walkTables s r.asid r.recVa = some e → e.w = true → e.cow = false → e.kind = .normal →
          ringed s r.asid r.recVa = false → populated (e.phys r.recVa) = true → populated (e.phys r.recVa + 63) = true →
          inDevice (e.phys r.recVa) = false →
            u.mem.bytes (e.phys r.recVa) 64 = faultHeader s f (BitVec.ofNat 32 (min 4294967295 (r.nfaults.toNat + 1)))))
  ∧ (s.ftoks[ix]? = some f → f.stage = 4 ∨ (f.stage = 2 ∧ f.asks = true ∧ 0x30 ≤ code ∧ code ≤ 0x33) → s.region? f.region = some r →
      let held : Prop := f.stage = 2 ∧ 0x31 ≤ code ∧ ∀ g ∈ r.faults, g.cause.toNat % 256 < 0x30
      ∃ u x, exec (.faultTokenRoute ⟨ix, lost⟩) s = .next u ∧ u.ftoks = s.ftoks.eraseIdx ix ∧ u.ctxs = s.ctxs ∧ u.region? f.region = some x
        ∧ x = { r with nfaults := BitVec.ofNat 32 (min 4294967295 (r.nfaults.toNat + 1)), faults := x.faults }
        ∧ (held → x.faults = r.faults ++ [f]) ∧ (¬ held → x.faults = r.faults))
  ∧ (s.ftoks[ix]? = some f → (f.stage = 2 ∧ f.asks = true ∧ code ∈ [1, 2, 4, 5, 6, 8, 0x34]) ∨ f.stage = 3 → s.region? f.region = some r →
      ∃ u, exec (.faultTokenRoute ⟨ix, lost⟩) s = .next u ∧ u.region? f.region = none)
  ∧ (s.ftoks[ix]? = some f → f.stage = 2 → f.asks = false → s.region? f.region = none → exec (.faultTokenRoute ⟨ix, lost⟩) s = .next { s with ftoks := s.ftoks.eraseIdx ix })
  ∧ (takes → q = .fault f → ∃ u, exec (.rootRequest d) s = .next u ∧ entered u f.cause f.tval f.asid
      ∧ u.rootq = rest ∧ SMap.get? u.roots d = some q)
  ∧ (∀ cause epc, (s.report cause v epc t.toNat h).ftoks = s.ftoks ++ [⟨cause, v, epc, t.toNat, h, 0, true, s.faultAsid t.toNat h⟩])
  ∧ (s.region? h = some r → (r.st = .running → t.toNat ∈ r.tiles → s.ctxAt t.toNat = some c → s.faultAsid t.toNat h = c.asid)
      ∧ (r.st ≠ .running → s.faultAsid t.toNat h = r.asid))
  ∧ (s.region? h = none → s.ctxAt t.toNat = some c → s.faultAsid t.toNat h = c.asid)
  ∧ (asks v → v.toNat % 64 = 0 → (s.vBytes c.asid v 64).isSome → ∃ u, exec (.rootRequest d) s = .next u ∧ entered u 0x11 v c.asid
      ∧ u.rootq = rest ∧ SMap.get? u.roots d = some q)
  ∧ (asks v → v.toNat % 64 ≠ 0 ∨ s.vBytes c.asid v 64 = none →
      exec (.rootRequest d) s = .next { s with rootq := rest ++ [(0, .answer t.toNat h x 0xFFFFFFFFFFFFFFFC)] })
  ∧ (SMap.get? s.roots d ≠ none ∨ s.rootReady d = false → exec (.rootRequest d) s = .next s)
  ∧ (s.rootq = (d, q) :: rest → q = .answer t.toNat h x v ∨ ((∃ arg, q = .sysc t.toNat h x arg) ∧ s.rootReady 0 = false ∧ v = 0xFFFFFFFFFFFFFFFF) →
      s.ctxAt t.toNat = some c → c.halted = false → (s.tile t.toNat).region = h →
      (c.wait = .answer → exec (.syscAnswer t) s = .next ({ s with rootq := rest }.setCtx t.toNat (c.w x v).next))
      ∧ (c.wait = .idle → c.awaiting = true → c.tcause = 0x11 → exec (.syscAnswer t) s = .next ({ s with rootq := rest }.setCtx t.toNat { c.w x v with
          pc := c.epc
          lvl := c.plvl
          mloop := []
          ret := c.ret + 1
          ord := c.eord
          eord := none
          wait := if c.redo = [] then .idle else .redo
          awaiting := false })))

/-- R171, R348, R361, R365, R366, R369: a holder that receives an invalidation drops what it names, and acknowledges once earlier accesses have
drained; an upset of the configuration store is corrected, or freezes the region until the image is read again, and longer while another tile
reloads or a fault that froze the region is open, each tile whose own fault is open staying frozen; a region without progress for its limit raises its fault, which freezes it; a store to an error counter clears it.
The accesses that a holder waits for (log 31), and that a reload freezes the region without a trap (log 32), are the model's. -/
def Obligations.FaultUnits : Prop := ∀ (s : State) (id h ix pa : Nat) (t : TileId) (r : Region) (x : Inval) (w : EccWhere) (p : Plane) (bs : List Byte) (c : Ctx),
  let mine : Prop := s.regionOf t.toNat = some (h, r)
  let freezes (u : State) : Prop := (∃ r', u.region? h = some r' ∧ r'.frozen = true) ∧ ∀ y ∈ r.tiles, (u.tile y).frozen = true
  let faults (i : Instr) (tile : Nat) (code : Nat) (tval : W64) : Prop := ∃ u, exec i s = .next u ∧ freezes u ∧ u.mem = s.mem
    ∧ (∃ y, u.ftoks = s.ftoks ++ [y] ∧ y.cause = BitVec.ofNat 16 (0x8000 + code) ∧ y.tval = tval ∧ y.tile = tile ∧ y.region = h ∧ y.asks = true)
    ∧ ∀ y ∈ s.regionCtxs r, y.2.halted = false → y.2.pend = [] → u.ctxAt y.1 = some { y.2 with pend := [⟨BitVec.ofNat 8 code, tval, tile⟩] }
  let detects (i : Instr) (count limit : Nat) (code : Nat) (tval : W64) : Prop :=
    (s.region? h = some r → r.st = .running → r.frozen = false → s.ctxAt r.sw = some c → 0 < limit → limit ≤ count → faults i r.sw code tval)
    ∧ (s.region? h = some r → r.st ≠ .running ∨ r.frozen = true ∨ (s.ctxAt r.sw = some c ∧ (limit = 0 ∨ count < limit)) → exec i s = .next s)
  let all_ : Prop := (∃ f ∈ s.openFaults h r, 0x10 ≤ f.cause.toNat % 256) ∨ ∃ y ∈ r.tiles, y ≠ t.toNat ∧ (s.tile y).reload ≠ none
  (s.invals.find? (fun y => y.id == id) = some x → t.toNat ∈ x.todo → ∃ u x', exec (.invalidationReceive id t.toNat) s = .next u
      ∧ u.tlbOf t.toNat = (s.tlbOf t.toNat).filter (fun e => !x.hits e) ∧ u.invals.find? (fun y => y.id == id) = some x'
      ∧ x'.todo = x.todo.filter (fun y => y != t.toNat) ∧ x'.acks = x.acks ∧ u.mem = s.mem ∧ u.ctxs = s.ctxs
      ∧ (∀ y ∈ u.walks, y.tile = t.toNat → x.names y.asid = true → y.stale = true))
  ∧ (s.invals.find? (fun y => y.id == id) = some x → ix ∉ x.todo → (∀ i ∈ SMap.getD x.wait ix [], s.onItsWay i = false) →
      ∃ u, exec (.invalidationAck id ix) s = .next u ∧ u.invals.find? (fun y => y.id == id) = some { x with acks := x.acks.filter fun y => y != ix }
        ∧ u.mem = s.mem ∧ u.ctxs = s.ctxs)
  ∧ (s.invals.find? (fun y => y.id == id) = some x → ix ∈ x.todo ∨ (∃ i ∈ SMap.getD x.wait ix [], s.onItsWay i = true) →
      exec (.invalidationAck id ix) s = .next s)
  ∧ exec (.configStoreEccError t w true) s = .next (s.countTile t.toNat 0 1)
  ∧ (mine → (s.tile t.toNat).reload = none → (s.tile t.toNat).struck w = true → t.toNat ∈ r.tiles → ∃ u, exec (.configStoreEccError t w false) s = .next u
      ∧ freezes u ∧ (u.tile t.toNat).reload = some w ∧ u.mem = s.mem ∧ u.ctxs = s.ctxs)
  ∧ (mine → (s.tile t.toNat).reload = some (.plane false ix) → (s.tile t.toNat).plane (s.tile t.toNat).epoch = some p → t.toNat ∈ r.tiles →
      s.reread r.asid p.addr 28 p.sig = some bs → ∃ u, exec (.configStoreReloadDone t) s = .next u ∧ (u.tile t.toNat).reload = none
        ∧ (u.tile t.toNat).plane (s.tile t.toNat).epoch = some (planeOf bs p.addr p.asid) ∧ u.mem = s.mem ∧ u.ctxs = s.ctxs
        ∧ (all_ → u.region? h = some { r with frozen := true } ∧ ∀ y ∈ r.tiles, (u.tile y).frozen = true)
        ∧ (¬ all_ → u.region? h = some { r with frozen := false } ∧ ∀ y ∈ r.tiles, ((u.tile y).frozen = true ↔ ∃ f ∈ s.openFaults h r, f.tile = y)))
  ∧ (mine → (s.tile t.toNat).reload = some (.plane false ix) → (s.tile t.toNat).plane (s.tile t.toNat).epoch = some p →
      s.reread r.asid p.addr 28 p.sig = none → faults (.configStoreReloadDone t) t.toNat 0x23 (BitVec.ofNat 64 (2 ^ 60 + ix)))
  ∧ detects (.qwcFault h) r.quiet c.qwc.toNat 0x20 0
  ∧ detects (.watchdogFault h) r.idle c.wdog.toNat 0x21 (c.wdog.setWidth 64)
  ∧ (inDevice pa = true → isCounter ((pa - 0x3F000000000) / 8) = true → ∃ u, exec (.counterClearStore pa) s = .next u
      ∧ SMap.getD u.ctr ((pa - 0x3F000000000) / 8) 0 = 0 ∧ u = { s with ctr := u.ctr }
      ∧ ∀ j, j ≠ (pa - 0x3F000000000) / 8 → SMap.get? u.ctr j = SMap.get? s.ctr j)
/-! ### The hub -/

/-- R329, R331, R335, R343, R344, R356, R362, R363, R380 to R382, R385, R390, R391: the command at the head of a conduit is performed: LAUNCH
accepts a region under a new handle, BIND, SEED, CONTRACT, PREEMPT, ABORT and REPLY act on the region they name, a resumption settling
its oldest fault that froze it: detector or stray token go, each context that awaits that fault goes on, and what other faults and reloads keep
frozen stays; CHECKPOINT begins one, and PARAM sets its parameter; a command refused answers its status, with the handle of the region
that it names, and every answer is a journal entry and a completion record; one fetched before the journal was lost is refused like one that
comes after. How launch sets come (log 53), SEED's statuses and wait (log 29), PREEMPT of a saved region (log 54), CONTRACT before a placement and
on a saved region (log 55), malformed BIND and PARAM, that BIND of a saved region waits and of a waiting one answers 3, and that REPLY with an
action above 1 answers 2 (log 58), CHECKPOINT's target (log 59), csr.ret at a resumption (log 81), and which fault a REPLY settles and what stays
frozen (log 105), are the model's. -/
def Obligations.HubCommands : Prop := ∀ (s : State) (die n e t st : Nat) (c : Cmd) (cs : List Cmd) (r : Region) (m : Domain) (bs : List Byte) (s' : State)
    (f : FaultTok) (set : Option (Nat × Nat)) (y : Tok) (tl : Tile) (pl : Plane) (w : W32),
  (s.die die).cmds = c :: cs →
  let s₁ : State := s.setDie die { s.die die with cmds := cs }
  let h : Nat := (c.dbl 1).toNat
  let is_ (k : Nat) : Prop := c.code = k
  let names (k : Nat) : Prop := c.code = k ∧ s.region? h = some r ∧ (s.hub.queue r.queue).owner = (s.hub.queue c.q).owner
  let ends (i : Instr) (u : State) : Prop := exec i s = .next u
  let refused (i : Instr) (status : Nat) : Prop := exec i s = .next (s₁.reply c status 2 (s.handleOf c))
  let gone (i : Instr) : Prop := ∃ u, exec i s = .next u ∧ u.region? h = none
  let d (k : Nat) : W64 := c.dbl k
  let tile : Option Nat := r.tileAt ((d 2).toNat / 256 % 256) ((d 2).toNat % 256)
  let k : Contract := { frames := false, tile := t, vp := (d 2).toNat / 256 % 64, p := (d 3).toNat, b := (d 4).toNat, start := s.cycles r.island
                        began := true, num := 0, left := (d 4).toNat, ovr := 0 }
  let frame : Prop := r.tileAt ((d 2).toNat / 2 ^ 16 % 256) ((d 2).toNat / 2 ^ 24 % 256) = some t ∧ s.tile t = tl ∧ tl.plane tl.epoch = some pl
    ∧ SMap.get? pl.vps ((d 2).toNat / 256 % 64) = some w ∧ vpOut w = false
  let noFrame : Prop := ∀ z ∈ r.tileAt ((d 2).toNat / 2 ^ 16 % 256) ((d 2).toNat / 2 ^ 24 % 256), ∀ q ∈ (s.tile z).plane (s.tile z).epoch,
    ∀ v ∈ SMap.get? q.vps ((d 2).toNat / 256 % 64), vpOut v = true
  let code (f : FaultTok) : Nat := f.cause.toNat % 256
  let oldest : Prop := r.faults.find? (fun g => code g < 0x30) = some f ∨ ((∀ g ∈ r.faults, 0x30 ≤ code g) ∧ r.faults.head? = some f)
  let settled (b : Bool) : Region := { r with
    faults := r.faults.erase f, frozen := b, quiet := if code f = 0x20 then 0 else r.quiet, idle := if code f = 0x21 then 0 else r.idle }
  let left : List FaultTok := s.openFaults h (settled true)
  let stays : Prop := (∃ g ∈ left, 0x10 ≤ code g) ∨ ∃ y ∈ r.tiles, (s.tile y).reload ≠ none
  let back (x : Ctx) : Ctx :=
    let y : Ctx := { x with pend := x.pend.filter fun p => !(p.code.toNat == code f && p.src == f.tile) }
    if x.awaiting = true ∧ x.src = f.tile ∧ x.tcause.toNat % 256 = code f ∧ x.tcause ≠ 0x11 then { y with
      pc := x.epc
      lvl := x.plvl
      mloop := []
      ret := x.ret + 1
      ord := x.eord
      eord := none
      wait := if x.redo = [] then .idle else .redo
      awaiting := false } else y
  let w0 : W64 := setField (d 2) 7 4 n
  let rsv : Prop := (d 2).toNat / 2 % 128 = 0 ∧ (d 2).toNat / 2 ^ 14 % 4 = 0 ∧ (d 2).toNat / 2 ^ 32 = 0 ∧ (d 3).toNat < 2 ^ 32 ∧ (d 4).toNat < 2 ^ 32
  let sets (i : Instr) (sel : Nat) (ok : Prop) (u : State) : Prop :=
    (is_ 9 → d 1 = BitVec.ofNat 64 sel → ok → ends i (u.reply c 0 0 0)) ∧ (is_ 9 → d 1 = BitVec.ofNat 64 sel → ¬ ok → refused i 2)
  (c.malformed s.hub = true → ∀ x ∈ [(1, Instr.launch ⟨die, set⟩), (2, .bind die), (3, .seed die), (4, .contract die), (5, .preempt die), (6, .abort die), (8, .checkpoint die)],
      is_ x.1 → refused x.2 2)
  ∧ ((2 ≤ c.code ∧ c.code ≤ 7 → names c.code → s.handleOf c = h) ∧ (c.code < 2 ∨ 7 < c.code ∨ s.region? h = none → s.handleOf c = 0))
  ∧ (c.malformed s.hub = false →
  (is_ 1 → (d 2).toNat / 2 ^ 55 ≠ 0 → refused (.launch ⟨die, set⟩) 2)
  ∧ (is_ 1 → (d 2).toNat / 2 ^ 55 = 0 → (d 2).toNat / 2 ^ 48 % 16 = 0 ∨ s.imageAt ((d 2).extractLsb' 32 16) (d 1) = none → refused (.launch ⟨die, set⟩) 5)
  ∧ (is_ 1 → (d 2).toNat / 2 ^ 55 = 0 → (d 2).toNat / 2 ^ 48 % 16 ≠ 0 → (s.imageAt ((d 2).extractLsb' 32 16) (d 1)).isSome → ∃ u x, ends (.launch ⟨die, set⟩) u
      ∧ u.region? s.nextHandle = some x ∧ u.nextHandle = s.nextHandle + 1 ∧ u.ctxs = s.ctxs ∧ x.st = .waiting ∧ x.set = set ∧ x.queue = c.q ∧ x.asid = (d 2).extractLsb' 32 16
      ∧ x.dies = (d 2).toNat / 2 ^ 48 % 16 ∧ x.lprio = (d 2).toNat / 2 ^ 52 % 8 ∧ x.lp = (d 2).toNat % 2 ^ 32 ∧ x.image = d 1 ∧ x.recVa = d 3 ∧ x.saveVa = d 4
      ∧ x.live = d 6 ++ d 5 ∧ x.tag = (d 0).extractLsb' 32 32)
  ∧ (∀ x ∈ [(2, Instr.bind die), (3, .seed die), (4, .contract die), (5, .preempt die), (6, .abort die)], is_ x.1 →
      s.region? h = none ∨ (s.region? h = some r ∧ (s.hub.queue r.queue).owner ≠ (s.hub.queue c.q).owner) → refused x.2 3)
  ∧ (names 2 → r.st = .running → tile = some t → (d 2).toNat / 2 ^ 22 = 0 → (d 3).toNat % 32 = 0 → s.vBytes r.asid (d 3) 32 = some bs →
      s₁.bindPort t ((d 2).toNat / 2 ^ 16 % 64) (doublesOf 4 bs) r.asid (some (c.q, (d 0).extractLsb' 32 32, (d 1).setWidth 32)) = (s', st) →
      (st = 0 → ends (.bind die) (s'.reply c 0 0 h)) ∧ (st ≠ 0 → refused (.bind die) st))
  ∧ (names 2 → r.st = .running → tile = none ∨ (d 2).toNat / 2 ^ 22 ≠ 0 ∨ (d 3).toNat % 32 ≠ 0 ∨ s.vBytes r.asid (d 3) 32 = none → refused (.bind die) 2)
  ∧ (names 2 → r.st = .saved → ends (.bind die) s) ∧ (names 2 → r.st = .waiting → refused (.bind die) 3)
  ∧ (names 3 → r.domain = none → refused (.seed die) 2)
  ∧ (names 3 → r.domain = some n → s.dom? n = some m → m.serving r.die = e → s.cascTakes n m e = false → ends (.seed die) s)
  ∧ (names 3 → r.domain = some n → s.dom? n = some m → m.serving r.die = e → s.cascTakes n m e = true →
      (∀ q ∈ m.pips, q.id ≠ s.nextId) → ∃ u m', ends (.seed die) u ∧ u.dom? n = some m' ∧ m'.term = false
        ∧ (m'.at e).psh = BitVec.ofNat 16 (min 65535 ((m.at e).psh.toNat + 1))
        ∧ ((∀ x ∈ s.domains, x.2.lg = 0) → (m.at e).t ≤ basinOf m.bsh w0 →
          m'.pips = m.pips ++ [{ id := s.nextId, w := [acceptWord e 0 w0, d 3, d 4, d 5], at_ := .visible e, tile := rootTile (e % 4) }]))
  ∧ (names 4 → r.st = .waiting → refused (.contract die) 3)
  ∧ (names 4 → r.st ≠ .waiting → ¬ rsv → refused (.contract die) 2)
  ∧ (names 4 → r.st ≠ .waiting → rsv → (d 2).getLsbD 0 = false → s.admitted h r (d 4).toNat (d 3).toNat = false → refused (.contract die) 1)
  ∧ (names 4 → r.st ≠ .waiting → rsv → (d 2).getLsbD 0 = false → s.admitted h r (d 4).toNat (d 3).toNat = true →
      t = (r.tileAt ((d 2).toNat / 2 ^ 16 % 256) ((d 2).toNat / 2 ^ 24 % 256)).getD r.sw →
      ends (.contract die) ((s₁.setRegion h { r with contract := some k }).countOver.clearFor.reply c 0 0 h))
  ∧ (let ready : Prop := names 4 ∧ rsv ∧ (d 2).getLsbD 0 = true
    (ready → r.st = .saved → ends (.contract die) s)
    ∧ (ready → r.st = .running → noFrame → refused (.contract die) 2)
    ∧ (ready → r.st = .running → frame → s.admitted h r (d 4).toNat (d 3).toNat = false → refused (.contract die) 1)
    ∧ (ready → r.st = .running → frame → s.admitted h r (d 4).toNat (d 3).toNat = true → ends (.contract die)
        ((s₁.setRegion h { r with contract := some { k with frames := true, began := false, left := 0 } }).countOver.clearFor.reply c 0 0 h)))
  ∧ (names 5 → r.st ≠ .saved → ends (.preempt die) ((s₁.reply c 0 0 h).setRegion h { r with latched := true, preCmds := r.preCmds ++ [(c.q, (d 0).extractLsb' 32 32)] }))
  ∧ (names 5 → r.st = .saved → ends (.preempt die) ((s₁.reply c 0 0 h).reply c 0 1 h))
  ∧ (names 6 → gone (.abort die))
  ∧ (∀ i ∈ [Instr.replyResume die, .replyAbort die], is_ 7 → 2 ≤ (d 2).toNat → refused i 2)
  ∧ (is_ 7 → s.region? h = none ∨ (s.region? h = some r ∧ (s.hub.queue r.queue).owner ≠ (s.hub.queue c.q).owner) →
      (d 2 = 0 → refused (.replyResume die) 3) ∧ (d 2 = 1 → refused (.replyAbort die) 3))
  ∧ (names 7 → d 2 = 0 → r.faults = [] → refused (.replyResume die) 6) ∧ (names 7 → d 2 = 1 → r.faults = [] → refused (.replyAbort die) 6)
  ∧ (names 7 → d 2 = 1 → r.faults ≠ [] → gone (.replyAbort die))
  ∧ (names 7 → d 2 = 0 → oldest → 0x30 ≤ code f → ends (.replyResume die) ((s₁.reply c 0 0 h).setRegion h { r with faults := r.faults.erase f }))
  ∧ (names 7 → d 2 = 0 → oldest → code f < 0x30 → ∃ u, ends (.replyResume die) u
      ∧ (stays → u.region? h = some (settled true) ∧ ∀ y ∈ r.tiles, (u.tile y).frozen = true)
      ∧ (¬ stays → u.region? h = some (settled false) ∧ ∀ y ∈ r.tiles, ((u.tile y).frozen = true ↔ ∃ g ∈ left, g.tile = y))
      ∧ ((∀ g ∈ left, code g ≠ code f) → ∀ y ∈ s.regionCtxs r, u.ctxAt y.1 = some (back y.2)))
  ∧ (let site : Nat := (f.tval).toNat / 2 ^ 32 % 64
    let at_ : Nat := (f.tval).toNat / 2 ^ 38 % 16
    let key : Nat := if at_ < 4 then qKey site at_ else lKey site (at_ - 4)
    names 7 → d 2 = 0 → oldest → code f = 0x22 → s.tile f.tile = tl → (at_ = 0 → ∀ x ∈ (tl.se site).fifo, x.ep ≠ tl.epoch) →
      (tl.buf key).toks.find? (fun x => x.ep == tl.epoch) = some y → ∃ u, ends (.replyResume die) u
        ∧ ((u.tile f.tile).buf key).toks = (tl.buf key).toks.erase y ∧ (u.tile f.tile).stray = sat32 tl.stray 1)
  ∧ (is_ 8 → s.hub.ckpt = none → 1 < (d 1).toNat ∨ targetOk (d 1).toNat (d 2).toNat = false → refused (.checkpoint die) 2)
  ∧ (is_ 8 → s.hub.ckpt = none → (d 1).toNat ≤ 1 → targetOk (d 1).toNat (d 2).toNat = true → (∃ x ∈ s.regions, x.2.st = .running) → refused (.checkpoint die) 4)
  ∧ (is_ 8 → s.hub.ckpt = none → (d 1).toNat ≤ 1 → targetOk (d 1).toNat (d 2).toNat = true → (∀ x ∈ s.regions, x.2.st ≠ .running) → ∃ u, ends (.checkpoint die) u
      ∧ u.hub.ckpt = some (c.q, (d 0).extractLsb' 32 32, d 1, d 2) ∧ u.mem = (s₁.reply c 0 0 0).mem ∧ u.ctxs = s.ctxs)
  ∧ sets (.paramAtbase die) 0 True { s₁ with hub := { s.hub with atbase := (d 2).toNat } }
  ∧ sets (.paramRemoteBound die) 1 (4096 ≤ (d 2).toNat ∧ (d 2).toNat ≤ 2 ^ 31) { s₁ with hub := { s.hub with br := (d 2).toNat } }
  ∧ sets (.paramPowerCap die) 2 (100 ≤ (d 2).toNat ∧ (d 2).toNat ≤ 3000) ({ s₁ with hub := { s.hub with cap := (d 2).toNat } } : State).countOver
  ∧ sets (.paramJournal die) 3 (s.hub.jset = false ∧ (d 2).toNat % 4096 = 0 ∧ 7 ≤ (d 3).toNat ∧ (d 3).toNat ≤ 24
      ∧ ((d 2).toNat + 32 * 2 ^ (d 3).toNat ≤ 0x4000000000 ∨ (0x20000000000 ≤ (d 2).toNat ∧ (d 2).toNat + 32 * 2 ^ (d 3).toNat ≤ 0x38000000000)))
      { s₁ with hub := { s.hub with jset := true, jbase := (d 2).toNat, jlg := (d 3).toNat, jseq := 0 } })
  ∧ (∀ status kind, (s.reply c status kind h).hub.queue c.q = { s.hub.queue c.q with cseq := (s.hub.queue c.q).cseq + 1 }
      ∧ (s.reply c status kind h).hub.jseq = (if s.hub.jset then s.hub.jseq + 1 else s.hub.jseq)
      ∧ (s.reply c status kind h).regions = s.regions ∧ (s.reply c status kind h).ctxs = s.ctxs)
/-- R16, R17, R20 to R22, R82, R110, R171, R329 to R331, R333, R339, R343, R345, R346, R348, R371, R373, R379, R391: a notify sets its queue's
bit, the scanner sends its fetch, a conduit fetches the command, and stops where its slot is not populated (R108, log 9); a launch is placed with
its first variant that fits, every context at the entry, and one of a launch set with all its parts or not at all (R334); a region retires, is saved at its save point, and is restored, one under a contract on
its own tiles (log 63); contracts, detectors and clocks count the cycles of an island, which a budget or period that is due holds back; a period in whose course the
contracted islands come to draw more than a lower cap is counted once. Where the pages of a launch lie (log 24), the count of a request that a
retirement discards (log 54), what an island draws (log 63), and which addresses a checkpoint takes and when its target fails (log 103), are the
model's. -/
def Obligations.HubSteps : Prop := ∀ (s : State) (die h i mhz ty tx q : Nat) (qn : BitVec 12) (head : BitVec 2) (r : Region) (v : Variant) (pre post : List Variant)
    (rest : List (Nat × Nat)) (k : Contract) (x : W64) (tag : W32) (route base : W64) (fault : Bool),
  let hub : Hub := s.hub
  let qu : Queue := hub.queue q
  let pa : Nat := qu.base.toNat + 64 * (qu.fetched.toNat % 2 ^ qu.lg)
  let cmd : Cmd := ⟨q, qu.prio, s.nextId, doublesOf 8 (if inDevice pa then s.physRead 0 pa 64 else s.seen.bytes pa 64)⟩
  let fetched : State := { s with nextId := s.nextId + 1, hub := { hub with queues := SMap.put hub.queues q { qu with fetched := qu.fetched + 1 } } }
  let at_ (w : Nat) (j : Nat) : Nat := tileNo die (ty + j / w) (tx + j % w)
  let is_ : Prop := s.region? h = some r
  let has : Prop := is_ ∧ r.contract = some k
  let bad : Bool := fault || s.targetFault route.toNat base.toNat
  let puts (k' : Contract) : State := s.setRegion h { r with contract := some k' }
  let begins (k' : Contract) : Prop := has → k.out = false → exec (.contractPeriodStart h) s = .next (puts k').countOver.clearFor
  (hub.booted = true → (hub.queue qn.toNat).owner = head.toNat → hub.serves qn.toNat = true →
      exec (.notifyStore qn head) s = .next { s with hub := { hub with pvec := insRising hub.pvec qn.toNat } })
  ∧ (hub.booted = true → (hub.queue qn.toNat).owner ≠ head.toNat → exec (.notifyStore qn head) s = .next (s.count (0x80000 + 512 * 15 + 15) 1))
  ∧ (q ∈ hub.pvec → hub.scan ≤ q → (∀ j ∈ hub.pvec, hub.scan ≤ j → q ≤ j) → hub.pvec.Pairwise (· < ·) → exec .scannerStep s = .next { s with hub := { hub with
      pvec := hub.pvec.filter fun j => j != q
      fetches := hub.fetches ++ [(qu.home, q)]
      scan := (q + 1) % 4096 } })
  ∧ (hub.fetches = (die, q) :: rest → hub.serves q = false ∨ qu.fetched = qu.posted → exec (.queueFetch die) s = .next { s with hub := { hub with fetches := rest } })
  ∧ (hub.fetches = (die, q) :: rest → hub.serves q = true → qu.fetched ≠ qu.posted → populated pa = true → populated (pa + 63) = true →
      (cmd.malformed hub = false → exec (.queueFetch die) s = .next (fetched.setDie die { s.die die with cmds := (s.die die).cmds ++ [cmd] }))
      ∧ (cmd.malformed hub = true → exec (.queueFetch die) s = .next (fetched.reply cmd 2 2 (s.handleOf cmd))))
  ∧ (hub.fetches = (die, q) :: rest → hub.serves q = true → qu.fetched ≠ qu.posted → populated pa = false ∨ populated (pa + 63) = false → exec (.queueFetch die) s = .fault (.unpopulated pa))
  ∧ (is_ → r.st = .waiting → r.set = none → s.imageAt r.asid r.image = some (pre ++ v :: post) → (∀ y ∈ pre, s.fit h r.lp y.w y.h (s.openDies h r) = none) →
      s.fit h r.lp v.w v.h (s.openDies h r) = some (die, ty, tx) → v.code ≠ [] → ∃ u x e va, exec (.regionPlace h) s = .next u
        ∧ u.region? h = some x ∧ x.st = .running ∧ x.die = die ∧ x.ty = ty ∧ x.tx = tx ∧ x.w = v.w ∧ x.h = v.h ∧ x.code = v.code ∧ x.codeVa = BitVec.ofNat 64 va ∧ x.mem0 = u.mem
        ∧ (∀ j < v.w * v.h, (u.tile (at_ v.w j)).region = h
          ∧ u.ctxAt (at_ v.w j) = some { pc := BitVec.ofNat 64 (va + v.entry), asid := r.asid, rpos := rposWord v.w v.h j })
        ∧ u.mapped r.asid (BitVec.ofNat 64 va) = some e ∧ e.x = true ∧ u.mem.bytes e.pa v.code.length = v.code ∧ va % 4096 = 0)
  ∧ (is_ → r.st = .waiting → r.set = some (ty, tx) → (s.regions.filter fun x => x.2.st == .waiting && x.2.set == some (ty, tx)).length < tx →
      exec (.regionPlace h) s = .next s)
  ∧ (is_ → r.st = .waiting → r.set = some (ty, tx) → exec (.regionPlace h) s = .next s
      ∨ ∃ u, exec (.regionPlace h) s = .next u ∧ ∀ x ∈ s.regions, x.2.st = .waiting → x.2.set = some (ty, tx) → ∃ y, u.region? x.1 = some y ∧ y.st = .running)
  ∧ (is_ → r.st = .waiting → r.set = none → s.imageAt r.asid r.image = some post → (∀ y ∈ post, s.fit h r.lp y.w y.h (s.openDies h r) = none) → exec (.regionPlace h) s = .next s)
  ∧ (is_ → r.st = .running → exec (.regionPlace h) s = .next s)
  ∧ (is_ → s.finished h r = true → ∃ u, exec (.regionRetire h) s = .next u ∧ u.region? h = none
      ∧ u.hub.lateReqs = (if r.latched then BitVec.ofNat 32 (s.hub.lateReqs.toNat + 1) else s.hub.lateReqs))
  ∧ (is_ → s.finished h r = false → exec (.regionRetire h) s = .next s)
  ∧ (is_ → s.savePoint h r = true → ∃ u x, exec (.savePoint h) s = .next u ∧ u.region? h = some x ∧ x.st = .saved ∧ x.latched = false ∧ x.preCmds = []
      ∧ (∀ j < r.w * r.h, let t := tileNo r.die (r.ty + j / r.w) (r.tx + j % r.w)
          u.ctxAt t = none ∧ (u.tile t).region = 0 ∧ SMap.get? x.sctx j = (s.ctxAt t).map fun c => { c with wait := .idle }))
  ∧ (is_ → s.savePoint h r = false → exec (.savePoint h) s = .next s)
  ∧ (is_ → r.st = .saved → (r.contract = none ∧ s.fit h r.lp r.w r.h (s.restoreDies h r) = some (die, ty, tx))
        ∨ (r.contract ≠ none ∧ s.fitsBack h r = true ∧ die = r.die ∧ ty = r.ty ∧ tx = r.tx) → ∀ i ∈ [Instr.regionRestore h, .regionPlace h], ∃ u x, exec i s = .next u
      ∧ u.region? h = some x ∧ x.st = .running ∧ x.die = die ∧ x.ty = ty ∧ x.tx = tx ∧ ∀ j < r.w * r.h, (u.tile (at_ r.w j)).region = h)
  ∧ (is_ → r.st = .saved → (r.contract = none ∧ s.fit h r.lp r.w r.h (s.restoreDies h r) = none) ∨ (r.contract ≠ none ∧ s.fitsBack h r = false) →
      ∀ i ∈ [Instr.regionRestore h, .regionPlace h], exec i s = .next s)
  ∧ (is_ → r.st ≠ .saved → exec (.regionRestore h) s = .next s)
  ∧ (hub.ckpt = some (q, tag, route, base) → ∃ s' : State, exec (.checkpointDone fault) s = .next (s'.answer q tag.toNat (if bad then 2 else 0) 8 1 0 0)
      ∧ s'.hub = { hub with ckpt := none } ∧ s'.ctxs = s.ctxs ∧ (bad = true → s'.mem = s.mem)
      ∧ (bad = false → MemInv s → 0x40000000000000 ≤ base.toNat → ∀ a, inDeviceMemory a = true →
          s'.mem.get (base.toNat + ckptOffset route.toNat a) = s.mem.get a ∧ s'.mem.get a = s.mem.get a))
  ∧ (k.frames = false → k.start + BitVec.ofNat 64 k.p ≤ s.cycles r.island → begins { k with
      start := k.start + BitVec.ofNat 64 k.p, began := true, num := k.num + 1, left := k.b, due := none, out := false, above := false })
  ∧ (k.frames = true → k.due = some x → x ≤ s.cycles r.island → begins { k with
      start := x, began := true, num := k.num + 1, left := k.b, due := none, out := false, above := false })
  ∧ (s.overCap s.contracted = false → s.countOver = s)
  ∧ (s.overCap s.contracted = true → s.countOver.hub.capOver = BitVec.ofNat 32 (min 4294967295 (hub.capOver.toNat
        + (s.regions.filter fun x => x.2.contract.any fun k => k.began && !k.above).length))
      ∧ (has → s.countOver.region? h = some { r with contract := some { k with above := k.above || k.began } }))
  ∧ (∀ f, 2930 ≤ hub.cap → s.overCap f = false)
  ∧ (has → k.out = true ∨ (k.frames = false ∧ ¬ k.start + BitVec.ofNat 64 k.p ≤ s.cycles r.island) ∨ (k.frames = true ∧ k.due = none) →
      exec (.contractPeriodStart h) s = .next s)
  ∧ (has → k.out = true → exec (.contractBudgetExhausted h) s = .next (puts { k with
      out := false
      ovr := if s.parked r then k.ovr else BitVec.ofNat 16 (min 65535 (k.ovr.toNat + 1)) }).clearFor)
  ∧ (256 ≤ i ∨ s.powered i = false ∨ s.behind i = true → exec (.islandCycle i) s = .next s)
  ∧ (i < 256 → s.powered i = true → s.behind i = false → ∃ u, exec (.islandCycle i) s = .next u ∧ u.cycles i = s.cycles i + 1 ∧ (∀ j, j ≠ i → u.cycles j = s.cycles j) ∧ u.ctxs = s.ctxs ∧ u.mem = s.mem
      ∧ (is_ → r.st ≠ .running → u.region? h = some r)
      ∧ (is_ → r.island ≠ i → ∃ l : Bool, (r.latched = true → l = true) ∧ u.region? h = some { r with latched := l })
      ∧ (is_ → r.st = .running → r.island = i → ∃ y, u.region? h = some y ∧ y.st = .running
          ∧ y.contract = r.contract.map (fun k => { k with left := k.left - 1, out := if k.left = 0 then k.out else k.left == 1 })
          ∧ y.quiet = (if r.frozen then r.quiet else if s.quiescent h r then r.quiet + 1 else 0)
          ∧ y.idle = (if r.frozen || s.watchHolds h r then r.idle else r.idle + 1)))
  ∧ (256 ≤ i ∨ 2400 < mhz → exec (.governorClockChange i mhz) s = .next s)
  ∧ (i < 256 → mhz < s.clock i → mhz ≤ 2400 → s.contracted i = false → exec (.governorClockChange i mhz) s = .next { s with mhz := SMap.put s.mhz i mhz })
  ∧ (i < 256 → mhz < s.clock i → s.contracted i = true → exec (.governorClockChange i mhz) s = .next s)
  ∧ (i < 256 → s.clock i ≤ mhz → mhz ≤ 2400 → exec (.governorClockChange i mhz) s =
      .next (if ({ s with mhz := SMap.put s.mhz i mhz } : State).overCap (fun _ => true) then s else { s with mhz := SMap.put s.mhz i mhz }))
/-- R366, R377 to R379, R384, R386 to R389, R392: the stores of a head to the hub block act, or are dropped and counted; a host reads and writes
device memory and the registers, and stops where nothing is populated (R108, log 9); a head goes down and up; Herran ports take flits, replay them
and go down, each virtual lane in its order; start-up takes the images whose two signatures verify under keys whose hashes the fuses hold, and
measures them, and management messages are answered. What the spec leaves open of them is free (log 15).
What a reset and a recovery leave, and where an image's signatures and the fuses' hashes stand (log 60), the first number of a lane's flits (log 62), host stores without a
presence bit (log 65), the entry of the root cores at start-up (log 85), and that a store of less than a double to a register keeps the bytes
beside it (log 93), are the model's. -/
def Obligations.HostSteps : Prop := ∀ (s : State) (head : BitVec 2) (v : W64) (off pa n q port block double : Nat) (bs : List Byte) (p : Port) (others : List (List Byte × Signed)) (fw g : Signed) (image : List W64) (num : BitVec 12) (entry : Option W64) (old : W64),
  let hub : Hub := s.hub
  let f : BitVec 256 := v ++ hub.drvfeat.setWidth 192
  let dead : Nat := v.toNat % 4
  let bit : BitVec 4 := BitVec.ofNat 4 (2 ^ head.toNat)
  let good : Prop := hub.gen.getD dead 0 = v.extractLsb' 16 16 ∧ hub.live.getLsbD dead = false ∧ dead ≠ head.toNat
  let write (off : Nat) : Out := exec (.registerWrite head off v) s
  let hubIs (i : Instr) (h : Hub) : Prop := exec i s = .next { s with hub := h }
  let refuses (i : Instr) : Prop := exec i s = .next (s.count (0x80000 + 512 * 15 + 15) 1)
  let off_ : Nat := 0x100000 + 32 * q
  let qu : Queue := hub.queue q
  let flit (w : Prop) (p' : Port) (i : Instr) : Prop := port < 36 → SMap.getD hub.ports port {} = p → p.down = false → w →
    hubIs i { hub with ports := SMap.put hub.ports port p' }
  let lane : Nat := (imgDouble bs 0).toNat % 16
  let seq : Nat := (imgDouble bs 0).toNat / 16 % 65536
  let taken : Port := { p with
    rxSeq := SMap.put p.rxSeq lane seq, ack := (imgDouble bs 0).toNat / 2 ^ 20 % 65536, fails := 0, wait := false
    got := SMap.put p.got lane (SMap.getD p.got lane [] ++ [bs]) }
  let next_ : Prop := ∀ k ∈ SMap.get? p.rxSeq lane, seq = (k + 1) % 65536
  let image0 : List Byte := imageBytes (if hub.fwNext = [] then hub.fw else hub.fwNext)
  let signed : Prop := imageVerifies fw image0 = true ∧ ∀ x ∈ others, imageVerifies x.2 x.1 = true
  (hub.booted = true → hub.done = false → hubIs (.featureNegotiation head v) { hub with
      drvfeat := f
      done := true
      ok := f.getLsbD 0 && f &&& ~~~hub.devfeat == 0 })
  ∧ (hub.booted = true → hub.done = true → refuses (.featureNegotiation head v))
  ∧ (hub.booted = true → good → hub.gen.length = 4 → ∃ u : Hub, hubIs (.claimRegisterStore head v) u ∧ u.claim = hub.claim ||| bit
      ∧ u.gen.getD dead 0 = hub.gen.getD dead 0 + 1 ∧ (∀ j, j ≠ dead → u.gen.getD j 0 = hub.gen.getD j 0)
      ∧ (q < 4096 → u.queue q = if qu.owner = dead then { qu with cfg := setField qu.cfg 17 16 head.toNat } else qu))
  ∧ (hub.booted = true → ¬ good → hubIs (.claimRegisterStore head v) { hub with claim := hub.claim &&& ~~~bit })
  ∧ (hub.booted = true → write 0x138 = exec (.featureNegotiation head v) s ∧ write 0x1800 = exec (.claimRegisterStore head v) s
      ∧ (q < 4096 → write (0x200000 + 8 * q) = exec (.notifyStore (BitVec.ofNat 12 q) head) s))
  ∧ (hub.booted = true → q < 4096 → qu.owner = head.toNat →
      hubIs (.registerWrite head off_ v) { hub with queues := SMap.put hub.queues q { qu with base := v } }
      ∧ hubIs (.registerWrite head (off_ + 8) v) { hub with queues := SMap.put hub.queues q { qu with cfg := v } }
      ∧ hubIs (.registerWrite head (off_ + 16) v) { hub with queues := SMap.put hub.queues q { qu with posted := v.setWidth 32 } }
      ∧ hubIs (.registerWrite head (off_ + 24) v) { hub with queues := SMap.put hub.queues q { qu with cbase := v } })
  ∧ (hub.booted = true → q < 4096 → qu.owner ≠ head.toNat → ∀ i < 4, refuses (.registerWrite head (off_ + 8 * i) v))
  ∧ (hub.booted = true → hub.done = false → hubIs (.registerWrite head 0x120 v) { hub with drvfeat := (hub.drvfeat &&& ~~~BitVec.ofNat 256 (2 ^ 64 - 1)) ||| v.setWidth 256 })
  ∧ (hub.booted = true → off % 8 ≠ 0 ∨ off < 0x120 ∨ (0x140 ≤ off ∧ off < 0x1020) ∨ (0x1808 ≤ off ∧ off < 0x100000) → refuses (.registerWrite head off v))
  ∧ (hub.booted = true → v.getLsbD head.toNat = false → hubIs (.registerWrite head 0x1020 v) { hub with live := hub.live &&& ~~~bit })
  ∧ (hub.booted = true → 0x1028 ≤ off → off < 0x1800 → off % 8 = 0 → ∃ u : Hub, hubIs (.registerWrite head off v) u ∧ u.read head.toNat off = some v ∧ u = { hub with hand := u.hand })
  ∧ (hub.booted = true → bs ≠ [] → inDeviceMemory pa = true → inDeviceMemory (pa + bs.length - 1) = true →
      exec (.hostMemoryRequest head pa (some bs) n) s = .next { s with mem := s.mem.putBytes pa bs })
  ∧ (hub.booted = true → 0 < n → inDeviceMemory pa = true → inDeviceMemory (pa + n - 1) = true →
      hubIs (.hostMemoryRequest head pa none n) { hub with reply := doublesOf ((n + 7) / 8) (s.mem.bytes pa n) })
  ∧ (hub.booted = true → off < 0x208000 → off % 8 = 0 → hub.read head.toNat off = some v → ∃ u, exec (.hostMemoryRequest head (0x3F100000000 + off) none 8) s = .next u
      ∧ u.hub = { hub with reply := [v] } ∧ u.mem = s.mem ∧ u.ctxs = s.ctxs)
  ∧ (hub.booted = true → off < 0x208000 → off % 8 = 0 → exec (.hostMemoryRequest head (0x3F100000000 + off) (some (leBytes 8 v.toNat)) n) s = write off)
  ∧ (hub.booted = true → off < 0x208000 → off % 8 = 0 → bs ≠ [] → bs.length ≤ 8 → hub.read head.toNat off = some old →
      exec (.hostMemoryRequest head (0x3F100000000 + off) (some bs) n) s
        = exec (.registerWrite head off (BitVec.ofNat 64 (leNat (bs ++ (leBytes 8 old.toNat).drop bs.length)))) s)
  ∧ (hub.booted = true → bs ≠ [] → inDeviceMemory pa = false → inDevice pa = false → exec (.hostMemoryRequest head pa (some bs) n) s = .fault (.unpopulated pa))
  ∧ (hub.up &&& ~~~bit ≠ 0 → hubIs (.headLinkDown head) { hub with live := hub.live &&& ~~~bit, up := hub.up &&& ~~~bit })
  ∧ (hub.up ≠ 0 → hub.up &&& ~~~bit = 0 → ∃ u : State, exec (.headLinkDown head) s = .next u ∧ u.hub.live = hub.live &&& ~~~bit ∧ u.hub.up = 0 ∧ u.mem = s.mem
      ∧ u.hub = { hub with live := u.hub.live, up := 0, hand := u.hub.hand, gen := u.hub.gen })
  ∧ (hub.booted = true → hubIs (.headLinkUp head) { hub with live := hub.live ||| bit, up := hub.up ||| bit })
  ∧ flit (p.wait = false ∧ flitGood bs = true ∧ next_) taken (.herranFlitReceive port bs)
  ∧ flit (p.wait = false ∧ flitGood bs = true ∧ ¬ next_) p (.herranFlitReceive port bs)
  ∧ flit (p.wait = false ∧ flitGood bs = false) { p with wait := true, fails := 0 } (.herranFlitReceive port bs)
  ∧ flit (p.wait = true ∧ p.fails < 16 ∧ flitGood bs = true ∧ next_) taken (.herranFlitReplay port bs)
  ∧ flit (p.wait = true ∧ p.fails < 16 ∧ flitGood bs = true ∧ ¬ next_) p (.herranFlitReplay port bs)
  ∧ flit (p.wait = true ∧ p.fails < 16 ∧ flitGood bs = false) { p with fails := p.fails + 1 } (.herranFlitReplay port bs)
  ∧ flit (p.wait = true ∧ 16 ≤ p.fails) p (.herranFlitReplay port bs)
  ∧ flit (16 ≤ p.fails) { p with down := true, got := [], wait := false } (.herranPortDown port)
  ∧ (imageVerifies g bs = true → let d : List Byte := digestBytes bs
      Config.ecdsaP384 g.ecKey d g.ecSig = true ∧ Config.hssLms g.hssKey d g.hssSig = true
      ∧ ∀ key ∈ [g.ecKey, g.hssKey], ∃ i, (Config.fuses.drop (48 * i)).take 48 = digestBytes key)
  ∧ (hub.booted = false → ∃ (t : State) (u : Hub), exec (.startup fw ⟨others, entry⟩) s = .next t ∧ t.hub = u ∧ t.mem = s.mem ∧ (entry = none → t.ctxs = s.ctxs)
      ∧ (¬ signed → t = { s with hub := { hub with
        recovery := true
        digest := (if imageVerifies fw image0 = true then image0 :: (others.filter fun x => imageVerifies x.2 x.1).map (·.1) else []).flatMap sha384 } })
      ∧ (signed → u.booted = true ∧ u.recovery = false ∧ u.done = false ∧ u.ok = false ∧ u.drvfeat = 0 ∧ u.jset = false ∧ u.pkg = hub.pkgNext
        ∧ u.fw = (if hub.fwNext = [] then hub.fw else hub.fwNext) ∧ u.digest = (image0 :: others.map (·.1)).flatMap sha384 ∧ u.ports = [] ∧ (u.queue q).en = false
        ∧ ∀ e, entry = some e → ∀ die < 4, ∀ rc, s.ctxAt (rootTile die) = some rc →
          t.ctxAt (rootTile die) = some { rc with tvec := wordAddr e, tvset := true }))
  ∧ hubIs (.pldmFirmwareUpdate image) { hub with fwNext := image, reply := [] }
  ∧ hubIs .mgmtReset { hub with booted := false, drvfeat := 0, done := false, ok := false, reply := [] }
  ∧ hubIs .mgmtRecovery { hub with booted := false, recovery := true, reply := [] }
  ∧ hubIs (.mgmtSetPackageNumber num) { hub with pkgNext := num, reply := [] }
  ∧ (double < 512 → isCounter (512 * block + double) = true →
      hubIs (.mgmtReadCounters block double) { hub with reply := [(SMap.getD s.ctr (512 * block + double) 0).setWidth 64] })
  ∧ (∃ u l, exec .pldmSensors s = .next u ∧ u.hub = { hub with reply := l } ∧ u.mem = s.mem ∧ u.ctxs = s.ctxs ∧ l.length = 514
      ∧ ∀ i < 256, l.getD i 0 = BitVec.ofNat 64 (s.clock i))
  ∧ (∃ u l, exec .spdmGetMeasurements s = .next u ∧ u.hub = { hub with
      reply := hub.digest ++ sha384 Config.fuses ++ sha384 (leBytes 32 hub.drvfeat.toNat) ++ l } ∧ u.mem = s.mem ∧ u.ctxs = s.ctxs ∧ l.length = 12)
/-! ### The machine -/

/-- R29 to R44: words written out from the encoding tables decode to the instructions they stand for; a reserved major, an unallocated
function and a 1 in a field that must be zero are refused. -/
def Obligations.DecodeSpecWords : Prop :=
  (∀ p ∈ [(0x08800054#32, Instr.addi 4 0 84), (0x04E72000#32, .add 7 7 4), (0x04840041#32, .shli 4 4 1), (0x0527001B#32, .div 9 7 0),
      (0x20A00005#32, .beq 5 0 5), (0x3C000009#32, .jal 9), (0x3BFFFFFC#32, .j (-4)), (0x041F0020#32, .jalr 0 31), (0x1CC20002#32, .loopi 6 2), (0xF4000002#32, .halt),
      (0x451A3100#32, .stD 8 26 0x100), (0x41AB3000#32, .ldD 13 11 0), (0x4DAC3000#32, .stsD 13 12 0), (0xF8200042#32, .csrr 1 0x042),
      (0xF8001030#32, .csrw 0 0 0x030), (0xF5590001#32, .sysc 10 25), (0xF4000010#32, .eret), (0x98A65801#32, .cpfire 5 6 11), (0x55244001#32, .tins 9 4 8),
      (0xF4047811#32, .invr 4 15)], decode p.1 = .ok p.2 ∧ encode p.2 = p.1)
  ∧ decode 0#32 = .error .reservedMajor ∧ decode 0xFC000000#32 = .error .reservedMajor ∧ decode 0x04000017#32 = .error .unallocated
  ∧ decode 0xF4200002#32 = .error .mustBeZero ∧ decode 0x1CC20000#32 = .error .badOperand

/-- R29 to R44, R114, R115, R172, R375: in a turn of a context that is between words, the word at its program counter is fetched through its
translation, and the decoded instruction runs: a region's from its code, or elsewhere from memory, both as they stood at the launch; a root
core's from memory as it stood when its request entered (log 72); a context that waits runs its waiting word again, and one whose withdrawn
reads are due issues them (log 16); the agenda says whose turn it is, and its steps of other agents are run as they stand (log 1). -/
def Obligations.StepRunsDecodedWord : Prop := ∀ (s : State) (c : Ctx) (e : TlbEnt) (i : Instr) (x : Nat × Region) (t : TileId) (rest : List Turn),
  let mem (m : Memory) : W32 := BitVec.ofNat 32 (m.nat (e.pa + (c.pc.toNat - e.va)) 4)
  let code : W32 := BitVec.ofNat 32 (leNat ((x.2.code.drop (c.pc.toNat - x.2.codeVa.toNat)).take 4))
  let inCode (x : Nat × Region) : Prop := x.2.codeVa.toNat ≤ c.pc.toNat ∧ c.pc.toNat + 4 ≤ x.2.codeVa.toNat + x.2.code.length
  let runs (w : W32) : Prop := decode w = .ok i → s.stalls s.cur.toNat i = false → wordTurn s = exec i (s.setCtx s.cur.toNat { c with word := w })
  (s.agenda = [] → step s = wordTurn s)
  ∧ (s.agenda = .word t :: rest → step s = wordTurn { s with agenda := rest, cur := t })
  ∧ (s.agenda = .event i :: rest → (fieldsOf i).op = 0 → step s = exec i { s with agenda := rest })
  ∧ (s.curCtx = some c → c.halted = false → (c.isRoot = true → (SMap.get? s.roots (tileDie s.cur.toNat)).isSome) →
    (c.wait = .idle → c.lvl = true ∨ c.ord ≠ none ∨ c.pend = [] → c.pc.toNat % 4 = 0 → c.pc.toNat < 2 ^ 57 →
      tlbFind (s.tlbOf s.cur.toNat) (if c.isRoot then 0 else c.asid) c.pc = some e → e.x = true →
      (s.regionOf s.cur.toNat = some x → inCode x → runs code) ∧ (s.regionOf s.cur.toNat = some x → ¬ inCode x → runs (mem x.2.mem0))
      ∧ (s.regionOf s.cur.toNat = none → c.isRoot = true → runs (mem c.mem0)) ∧ (s.regionOf s.cur.toNat = none → c.isRoot = false → runs (mem s.mem)))
    ∧ (c.wait = .redo → wordTurn s = .next (s.reissue s.cur.toNat c))
    ∧ (c.waits = true → c.wait ≠ .redo → decode c.word = .ok i → wordTurn s = exec i s)
    ∧ (c.wait = .idle → c.lvl = false → c.ord = none → c.pend ≠ [] → wordTurn s = exec (.asyncTrap s.cur) s))

/-- R29 to R44: every well-formed instruction of the sequencer decodes from its encoding, with every operand at every value; and a word that
decodes is the encoding of a well-formed instruction, but for field a of WDOM unit 2, an operand that is not read (R43; log 83). -/
def Obligations.DecodeEncode : Prop :=
  (∀ i : Instr, i.wellFormed = true → (fieldsOf i).op ≠ 0 → decode (encode i) = .ok i)
  ∧ (∀ (w : W32) (i : Instr), decode w = .ok i → i.wellFormed = true ∧ (fieldsOf i).op ≠ 0 ∧ encode i = match i with
      | .wdomQuery _ => w &&& 0xFFE0FFFF#32
      | _ => w)

/-- Every step keeps the canonical form of memory (log 5): from every state in which addresses rise and no byte listed is the one an
unlisted address reads as. -/
def Obligations.StepKeepsMemory : Prop := ∀ s t : State, MemInv s → step s = .next t → MemInv t

/-- R366, R375, R384, R389: right after reset memory is in its canonical form and reads 0, no region, request or fault is anywhere, the
error counters read 0, no queue is enabled, the root cores have no request and stand at the monitor level with g0 to g31 at 0 (log 3). That
memory is empty and reads 0 is the model's choice (log 5). -/
def Obligations.ResetState : Prop :=
  MemInv State.reset ∧ (∀ a, State.reset.mem.get a = 0) ∧ State.reset.regions = [] ∧ State.reset.tiles = [] ∧ State.reset.reqs = [] ∧ State.reset.ftoks = []
  ∧ (∀ j, SMap.getD State.reset.ctr j 0 = 0) ∧ (∀ q, (State.reset.hub.queue q).en = false) ∧ State.reset.roots = [] ∧ State.reset.hub.booted = false
  ∧ (∀ d < 4, ∃ c, State.reset.ctxAt (256 * d + 255) = some c ∧ c.isRoot = true ∧ c.lvl = true ∧ c.tvset = false ∧ ∀ r, c.r r = 0)
  ∧ (∀ t, t % 256 ≠ 255 → State.reset.ctxAt t = none)
end

