-- ==== Sys2Proof/Laws/Map.lean ====
section
/-! SUPPORT. Laws of the sorted association list: reading behind a write or a removal, and the rising order. -/

namespace Sys2Proof

/-- An entry just written reads as written. -/
@[simp] theorem SMap.get?_put_same {α : Type} (m : SMap α) (k : Nat) (x : α) : SMap.get? (SMap.put m k x) k = some x := by
  induction m with
  | nil => simp [SMap.put, SMap.get?]
  | cons p m ih =>
    obtain ⟨j, y⟩ := p
    simp only [SMap.put]
    split
    · simp [SMap.get?]
    · split
      · simp [SMap.get?]
      · rename_i h1 h2
        simp [SMap.get?, Ne.symm h2, ih]

/-- Writing an entry leaves every other. -/
theorem SMap.get?_put_ne {α : Type} (m : SMap α) {k i : Nat} (x : α) (h : i ≠ k) : SMap.get? (SMap.put m k x) i = SMap.get? m i := by
  induction m with
  | nil => simp [SMap.put, SMap.get?, Ne.symm h]
  | cons p m ih =>
    obtain ⟨j, y⟩ := p
    simp only [SMap.put]
    split
    · simp [SMap.get?, Ne.symm h]
    · split
      · rename_i h1 h2
        subst h2
        simp [SMap.get?, Ne.symm h]
      · simp [SMap.get?, ih]

/-- Removing an entry leaves every other. -/
theorem SMap.get?_del_ne {α : Type} (m : SMap α) {k i : Nat} (h : i ≠ k) : SMap.get? (SMap.del m k) i = SMap.get? m i := by
  induction m with
  | nil => rfl
  | cons p m ih =>
    obtain ⟨j, y⟩ := p
    simp only [SMap.del]
    split
    · rename_i h1
      subst h1
      simp [SMap.get?, Ne.symm h, ih]
    · simp [SMap.get?, ih]

/-- A second write of an entry replaces the first. -/
@[simp] theorem SMap.put_put {α : Type} (m : SMap α) (k : Nat) (x y : α) : SMap.put (SMap.put m k x) k y = SMap.put m k y := by
  induction m with
  | nil => simp [SMap.put]
  | cons p m ih =>
    obtain ⟨j, z⟩ := p
    simp only [SMap.put]
    split
    · simp [SMap.put]
    · split
      · simp [SMap.put]
      · rename_i h1 h2
        simp [SMap.put, h1, h2, ih]

/-- An entry just written, with a default. -/
@[simp] theorem SMap.getD_put_same {α : Type} (m : SMap α) (k : Nat) (x d : α) : SMap.getD (SMap.put m k x) k d = x := by
  simp [SMap.getD]

/-- Another entry, with a default. -/
theorem SMap.getD_put_ne {α : Type} (m : SMap α) {k i : Nat} (x d : α) (h : i ≠ k) : SMap.getD (SMap.put m k x) i d = SMap.getD m i d := by
  simp [SMap.getD, SMap.get?_put_ne m x h]

/-- The keys of a rising list behind its first entry are greater than the first. -/
theorem SMap.rising_iff {α : Type} (m : SMap α) : SMap.rising m = true ↔ (m.map (·.1)).Pairwise (· < ·) := by
  induction m with
  | nil => simp [SMap.rising]
  | cons p m ih =>
    obtain ⟨j, y⟩ := p
    cases m with
    | nil => simp [SMap.rising]
    | cons q m =>
      obtain ⟨k, z⟩ := q
      simp only [SMap.rising, Bool.and_eq_true, decide_eq_true_eq, ih]
      simp only [List.map_cons, List.pairwise_cons, List.mem_cons]
      constructor
      · rintro ⟨h, h2, h3⟩
        refine ⟨?_, h2, h3⟩
        rintro a (rfl | ha)
        · exact h
        · exact lt_trans h (h2 a ha)
      · rintro ⟨h1, h2, h3⟩
        exact ⟨h1 k (Or.inl rfl), h2, h3⟩

/-- The keys of a written list. -/
theorem SMap.keys_put {α : Type} (m : SMap α) (k : Nat) (x : α) : ∀ a ∈ (SMap.put m k x).map (·.1), a = k ∨ a ∈ m.map (·.1) := by
  induction m with
  | nil => simp [SMap.put]
  | cons p m ih =>
    obtain ⟨j, y⟩ := p
    simp only [SMap.put]
    split
    · intro a ha
      simpa using ha
    · split
      · rename_i h1 h2
        intro a ha
        simp only [List.map_cons, List.mem_cons] at ha ⊢
        rcases ha with rfl | ha
        · exact .inl rfl
        · exact .inr (.inr ha)
      · intro a ha
        simp only [List.map_cons, List.mem_cons] at ha ⊢
        rcases ha with rfl | ha
        · exact .inr (.inl rfl)
        · rcases ih a ha with h | h
          · exact .inl h
          · exact .inr (.inr h)

/-- A write keeps the rising order. -/
theorem SMap.rising_put {α : Type} (m : SMap α) (k : Nat) (x : α) (h : SMap.rising m = true) : SMap.rising (SMap.put m k x) = true := by
  rw [SMap.rising_iff] at h ⊢
  induction m with
  | nil => simp [SMap.put]
  | cons p m ih =>
    obtain ⟨j, y⟩ := p
    simp only [List.map_cons, List.pairwise_cons] at h
    simp only [SMap.put]
    split
    · rename_i h1
      simp only [List.map_cons, List.pairwise_cons, List.mem_cons]
      refine ⟨?_, h⟩
      rintro a (rfl | ha)
      · exact h1
      · exact lt_trans h1 (h.1 a ha)
    · split
      · rename_i h1 h2
        subst h2
        simpa [List.pairwise_cons] using h
      · rename_i h1 h2
        simp only [List.map_cons, List.pairwise_cons]
        refine ⟨?_, ih h.2⟩
        intro a ha
        rcases SMap.keys_put m k x a ha with rfl | ha
        · omega
        · exact h.1 a ha

/-- The keys that stay behind a removal. -/
theorem SMap.keys_del {α : Type} (m : SMap α) (k : Nat) : ∀ a ∈ (SMap.del m k).map (·.1), a ∈ m.map (·.1) := by
  induction m with
  | nil => simp [SMap.del]
  | cons p m ih =>
    obtain ⟨j, y⟩ := p
    simp only [SMap.del]
    split
    · intro a ha
      simp only [List.map_cons, List.mem_cons]
      exact .inr (ih a ha)
    · intro a ha
      simp only [List.map_cons, List.mem_cons] at ha ⊢
      rcases ha with rfl | ha
      · exact .inl rfl
      · exact .inr (ih a ha)

/-- A removal keeps the rising order. -/
theorem SMap.rising_del {α : Type} (m : SMap α) (k : Nat) (h : SMap.rising m = true) : SMap.rising (SMap.del m k) = true := by
  rw [SMap.rising_iff] at h ⊢
  induction m with
  | nil => simp [SMap.del]
  | cons p m ih =>
    obtain ⟨j, y⟩ := p
    simp only [List.map_cons, List.pairwise_cons] at h
    simp only [SMap.del]
    split
    · exact ih h.2
    · simp only [List.map_cons, List.pairwise_cons]
      exact ⟨fun a ha => h.1 a (SMap.keys_del m k a ha), ih h.2⟩

/-- A key that no entry has reads as absent. -/
theorem SMap.get?_none {α : Type} (m : SMap α) (k : Nat) (h : k ∉ m.map (·.1)) : SMap.get? m k = none := by
  induction m with
  | nil => rfl
  | cons p m ih =>
    obtain ⟨j, y⟩ := p
    simp only [List.map_cons, List.mem_cons, not_or] at h
    simp [SMap.get?, Ne.symm h.1, ih h.2]

/-- A removed entry reads as absent. -/
theorem SMap.get?_del_same {α : Type} (m : SMap α) (k : Nat) : SMap.get? (SMap.del m k) k = none := by
  induction m with
  | nil => rfl
  | cons p m ih =>
    obtain ⟨j, y⟩ := p
    simp only [SMap.del]
    split
    · exact ih
    · rename_i h1
      simp [SMap.get?, h1, ih]

/-- The entries of a written list. -/
theorem SMap.mem_put {α : Type} (m : SMap α) (k : Nat) (x : α) : ∀ p ∈ SMap.put m k x, p = (k, x) ∨ p ∈ m := by
  induction m with
  | nil => simp [SMap.put]
  | cons q m ih =>
    obtain ⟨j, y⟩ := q
    simp only [SMap.put]
    intro p hp
    split at hp
    · simpa using hp
    · split at hp
      · simp only [List.mem_cons] at hp ⊢
        tauto
      · simp only [List.mem_cons] at hp ⊢
        rcases hp with h | h
        · exact .inr (.inl h)
        · rcases ih p h with h | h
          · exact .inl h
          · exact .inr (.inr h)

/-- The entries that stay behind a removal. -/
theorem SMap.mem_del {α : Type} (m : SMap α) (k : Nat) : ∀ p ∈ SMap.del m k, p ∈ m := by
  induction m with
  | nil => simp [SMap.del]
  | cons q m ih =>
    obtain ⟨j, y⟩ := q
    simp only [SMap.del]
    intro p hp
    split at hp
    · exact List.mem_cons_of_mem _ (ih p hp)
    · simp only [List.mem_cons] at hp ⊢
      rcases hp with h | h
      · exact .inl h
      · exact .inr (ih p h)

end Sys2Proof
end

