-- ==== Sys2Proof/Laws/State.lean ====
section
/-! SUPPORT. One lemma per field of the state and update: what an update leaves, and what it writes; so no later proof unfolds a record
update. -/

namespace Sys2Proof.Machine

open Sys2Proof

/-! ### State.setCtx -/

@[simp] theorem State.setCtx_agenda (s : State) (t : Nat) (x : Ctx) : (s.setCtx t x).agenda = s.agenda := rfl
@[simp] theorem State.setCtx_cur (s : State) (t : Nat) (x : Ctx) : (s.setCtx t x).cur = s.cur := rfl
@[simp] theorem State.setCtx_ctxs (s : State) (t : Nat) (x : Ctx) : (s.setCtx t x).ctxs = SMap.put s.ctxs t x := rfl
@[simp] theorem State.setCtx_tiles (s : State) (t : Nat) (x : Ctx) : (s.setCtx t x).tiles = s.tiles := rfl
@[simp] theorem State.setCtx_dies (s : State) (t : Nat) (x : Ctx) : (s.setCtx t x).dies = s.dies := rfl
@[simp] theorem State.setCtx_mem (s : State) (t : Nat) (x : Ctx) : (s.setCtx t x).mem = s.mem := rfl
@[simp] theorem State.setCtx_pages (s : State) (t : Nat) (x : Ctx) : (s.setCtx t x).pages = s.pages := rfl
@[simp] theorem State.setCtx_present (s : State) (t : Nat) (x : Ctx) : (s.setCtx t x).present = s.present := rfl
@[simp] theorem State.setCtx_reqs (s : State) (t : Nat) (x : Ctx) : (s.setCtx t x).reqs = s.reqs := rfl
@[simp] theorem State.setCtx_walks (s : State) (t : Nat) (x : Ctx) : (s.setCtx t x).walks = s.walks := rfl
@[simp] theorem State.setCtx_invals (s : State) (t : Nat) (x : Ctx) : (s.setCtx t x).invals = s.invals := rfl
@[simp] theorem State.setCtx_bars (s : State) (t : Nat) (x : Ctx) : (s.setCtx t x).bars = s.bars := rfl
@[simp] theorem State.setCtx_regions (s : State) (t : Nat) (x : Ctx) : (s.setCtx t x).regions = s.regions := rfl
@[simp] theorem State.setCtx_domains (s : State) (t : Nat) (x : Ctx) : (s.setCtx t x).domains = s.domains := rfl
@[simp] theorem State.setCtx_ftoks (s : State) (t : Nat) (x : Ctx) : (s.setCtx t x).ftoks = s.ftoks := rfl
@[simp] theorem State.setCtx_roots (s : State) (t : Nat) (x : Ctx) : (s.setCtx t x).roots = s.roots := rfl
@[simp] theorem State.setCtx_rootq (s : State) (t : Nat) (x : Ctx) : (s.setCtx t x).rootq = s.rootq := rfl
@[simp] theorem State.setCtx_rtlb (s : State) (t : Nat) (x : Ctx) : (s.setCtx t x).rtlb = s.rtlb := rfl
@[simp] theorem State.setCtx_kept (s : State) (t : Nat) (x : Ctx) : (s.setCtx t x).kept = s.kept := rfl
@[simp] theorem State.setCtx_hub (s : State) (t : Nat) (x : Ctx) : (s.setCtx t x).hub = s.hub := rfl
@[simp] theorem State.setCtx_cyc (s : State) (t : Nat) (x : Ctx) : (s.setCtx t x).cyc = s.cyc := rfl
@[simp] theorem State.setCtx_mhz (s : State) (t : Nat) (x : Ctx) : (s.setCtx t x).mhz = s.mhz := rfl
@[simp] theorem State.setCtx_ctr (s : State) (t : Nat) (x : Ctx) : (s.setCtx t x).ctr = s.ctr := rfl
@[simp] theorem State.setCtx_nextId (s : State) (t : Nat) (x : Ctx) : (s.setCtx t x).nextId = s.nextId := rfl
@[simp] theorem State.setCtx_nextHandle (s : State) (t : Nat) (x : Ctx) : (s.setCtx t x).nextHandle = s.nextHandle := rfl
@[simp] theorem State.setCtx_free (s : State) (t : Nat) (x : Ctx) : (s.setCtx t x).free = s.free := rfl

/-! ### State.setTile -/

@[simp] theorem State.setTile_agenda (s : State) (t : Nat) (x : Tile) : (s.setTile t x).agenda = s.agenda := rfl
@[simp] theorem State.setTile_cur (s : State) (t : Nat) (x : Tile) : (s.setTile t x).cur = s.cur := rfl
@[simp] theorem State.setTile_ctxs (s : State) (t : Nat) (x : Tile) : (s.setTile t x).ctxs = s.ctxs := rfl
@[simp] theorem State.setTile_tiles (s : State) (t : Nat) (x : Tile) : (s.setTile t x).tiles = SMap.put s.tiles t x := rfl
@[simp] theorem State.setTile_dies (s : State) (t : Nat) (x : Tile) : (s.setTile t x).dies = s.dies := rfl
@[simp] theorem State.setTile_mem (s : State) (t : Nat) (x : Tile) : (s.setTile t x).mem = s.mem := rfl
@[simp] theorem State.setTile_pages (s : State) (t : Nat) (x : Tile) : (s.setTile t x).pages = s.pages := rfl
@[simp] theorem State.setTile_present (s : State) (t : Nat) (x : Tile) : (s.setTile t x).present = s.present := rfl
@[simp] theorem State.setTile_reqs (s : State) (t : Nat) (x : Tile) : (s.setTile t x).reqs = s.reqs := rfl
@[simp] theorem State.setTile_walks (s : State) (t : Nat) (x : Tile) : (s.setTile t x).walks = s.walks := rfl
@[simp] theorem State.setTile_invals (s : State) (t : Nat) (x : Tile) : (s.setTile t x).invals = s.invals := rfl
@[simp] theorem State.setTile_bars (s : State) (t : Nat) (x : Tile) : (s.setTile t x).bars = s.bars := rfl
@[simp] theorem State.setTile_regions (s : State) (t : Nat) (x : Tile) : (s.setTile t x).regions = s.regions := rfl
@[simp] theorem State.setTile_domains (s : State) (t : Nat) (x : Tile) : (s.setTile t x).domains = s.domains := rfl
@[simp] theorem State.setTile_ftoks (s : State) (t : Nat) (x : Tile) : (s.setTile t x).ftoks = s.ftoks := rfl
@[simp] theorem State.setTile_roots (s : State) (t : Nat) (x : Tile) : (s.setTile t x).roots = s.roots := rfl
@[simp] theorem State.setTile_rootq (s : State) (t : Nat) (x : Tile) : (s.setTile t x).rootq = s.rootq := rfl
@[simp] theorem State.setTile_rtlb (s : State) (t : Nat) (x : Tile) : (s.setTile t x).rtlb = s.rtlb := rfl
@[simp] theorem State.setTile_kept (s : State) (t : Nat) (x : Tile) : (s.setTile t x).kept = s.kept := rfl
@[simp] theorem State.setTile_hub (s : State) (t : Nat) (x : Tile) : (s.setTile t x).hub = s.hub := rfl
@[simp] theorem State.setTile_cyc (s : State) (t : Nat) (x : Tile) : (s.setTile t x).cyc = s.cyc := rfl
@[simp] theorem State.setTile_mhz (s : State) (t : Nat) (x : Tile) : (s.setTile t x).mhz = s.mhz := rfl
@[simp] theorem State.setTile_ctr (s : State) (t : Nat) (x : Tile) : (s.setTile t x).ctr = s.ctr := rfl
@[simp] theorem State.setTile_nextId (s : State) (t : Nat) (x : Tile) : (s.setTile t x).nextId = s.nextId := rfl
@[simp] theorem State.setTile_nextHandle (s : State) (t : Nat) (x : Tile) : (s.setTile t x).nextHandle = s.nextHandle := rfl
@[simp] theorem State.setTile_free (s : State) (t : Nat) (x : Tile) : (s.setTile t x).free = s.free := rfl

/-! ### State.setDie -/

@[simp] theorem State.setDie_agenda (s : State) (d : Nat) (x : Die) : (s.setDie d x).agenda = s.agenda := rfl
@[simp] theorem State.setDie_cur (s : State) (d : Nat) (x : Die) : (s.setDie d x).cur = s.cur := rfl
@[simp] theorem State.setDie_ctxs (s : State) (d : Nat) (x : Die) : (s.setDie d x).ctxs = s.ctxs := rfl
@[simp] theorem State.setDie_tiles (s : State) (d : Nat) (x : Die) : (s.setDie d x).tiles = s.tiles := rfl
@[simp] theorem State.setDie_dies (s : State) (d : Nat) (x : Die) : (s.setDie d x).dies = SMap.put s.dies d x := rfl
@[simp] theorem State.setDie_mem (s : State) (d : Nat) (x : Die) : (s.setDie d x).mem = s.mem := rfl
@[simp] theorem State.setDie_pages (s : State) (d : Nat) (x : Die) : (s.setDie d x).pages = s.pages := rfl
@[simp] theorem State.setDie_present (s : State) (d : Nat) (x : Die) : (s.setDie d x).present = s.present := rfl
@[simp] theorem State.setDie_reqs (s : State) (d : Nat) (x : Die) : (s.setDie d x).reqs = s.reqs := rfl
@[simp] theorem State.setDie_walks (s : State) (d : Nat) (x : Die) : (s.setDie d x).walks = s.walks := rfl
@[simp] theorem State.setDie_invals (s : State) (d : Nat) (x : Die) : (s.setDie d x).invals = s.invals := rfl
@[simp] theorem State.setDie_bars (s : State) (d : Nat) (x : Die) : (s.setDie d x).bars = s.bars := rfl
@[simp] theorem State.setDie_regions (s : State) (d : Nat) (x : Die) : (s.setDie d x).regions = s.regions := rfl
@[simp] theorem State.setDie_domains (s : State) (d : Nat) (x : Die) : (s.setDie d x).domains = s.domains := rfl
@[simp] theorem State.setDie_ftoks (s : State) (d : Nat) (x : Die) : (s.setDie d x).ftoks = s.ftoks := rfl
@[simp] theorem State.setDie_roots (s : State) (d : Nat) (x : Die) : (s.setDie d x).roots = s.roots := rfl
@[simp] theorem State.setDie_rootq (s : State) (d : Nat) (x : Die) : (s.setDie d x).rootq = s.rootq := rfl
@[simp] theorem State.setDie_rtlb (s : State) (d : Nat) (x : Die) : (s.setDie d x).rtlb = s.rtlb := rfl
@[simp] theorem State.setDie_kept (s : State) (d : Nat) (x : Die) : (s.setDie d x).kept = s.kept := rfl
@[simp] theorem State.setDie_hub (s : State) (d : Nat) (x : Die) : (s.setDie d x).hub = s.hub := rfl
@[simp] theorem State.setDie_cyc (s : State) (d : Nat) (x : Die) : (s.setDie d x).cyc = s.cyc := rfl
@[simp] theorem State.setDie_mhz (s : State) (d : Nat) (x : Die) : (s.setDie d x).mhz = s.mhz := rfl
@[simp] theorem State.setDie_ctr (s : State) (d : Nat) (x : Die) : (s.setDie d x).ctr = s.ctr := rfl
@[simp] theorem State.setDie_nextId (s : State) (d : Nat) (x : Die) : (s.setDie d x).nextId = s.nextId := rfl
@[simp] theorem State.setDie_nextHandle (s : State) (d : Nat) (x : Die) : (s.setDie d x).nextHandle = s.nextHandle := rfl
@[simp] theorem State.setDie_free (s : State) (d : Nat) (x : Die) : (s.setDie d x).free = s.free := rfl

/-! ### State.setRegion -/

@[simp] theorem State.setRegion_agenda (s : State) (h : Nat) (x : Region) : (s.setRegion h x).agenda = s.agenda := rfl
@[simp] theorem State.setRegion_cur (s : State) (h : Nat) (x : Region) : (s.setRegion h x).cur = s.cur := rfl
@[simp] theorem State.setRegion_ctxs (s : State) (h : Nat) (x : Region) : (s.setRegion h x).ctxs = s.ctxs := rfl
@[simp] theorem State.setRegion_tiles (s : State) (h : Nat) (x : Region) : (s.setRegion h x).tiles = s.tiles := rfl
@[simp] theorem State.setRegion_dies (s : State) (h : Nat) (x : Region) : (s.setRegion h x).dies = s.dies := rfl
@[simp] theorem State.setRegion_mem (s : State) (h : Nat) (x : Region) : (s.setRegion h x).mem = s.mem := rfl
@[simp] theorem State.setRegion_pages (s : State) (h : Nat) (x : Region) : (s.setRegion h x).pages = s.pages := rfl
@[simp] theorem State.setRegion_present (s : State) (h : Nat) (x : Region) : (s.setRegion h x).present = s.present := rfl
@[simp] theorem State.setRegion_reqs (s : State) (h : Nat) (x : Region) : (s.setRegion h x).reqs = s.reqs := rfl
@[simp] theorem State.setRegion_walks (s : State) (h : Nat) (x : Region) : (s.setRegion h x).walks = s.walks := rfl
@[simp] theorem State.setRegion_invals (s : State) (h : Nat) (x : Region) : (s.setRegion h x).invals = s.invals := rfl
@[simp] theorem State.setRegion_bars (s : State) (h : Nat) (x : Region) : (s.setRegion h x).bars = s.bars := rfl
@[simp] theorem State.setRegion_regions (s : State) (h : Nat) (x : Region) : (s.setRegion h x).regions = SMap.put s.regions h x := rfl
@[simp] theorem State.setRegion_domains (s : State) (h : Nat) (x : Region) : (s.setRegion h x).domains = s.domains := rfl
@[simp] theorem State.setRegion_ftoks (s : State) (h : Nat) (x : Region) : (s.setRegion h x).ftoks = s.ftoks := rfl
@[simp] theorem State.setRegion_roots (s : State) (h : Nat) (x : Region) : (s.setRegion h x).roots = s.roots := rfl
@[simp] theorem State.setRegion_rootq (s : State) (h : Nat) (x : Region) : (s.setRegion h x).rootq = s.rootq := rfl
@[simp] theorem State.setRegion_rtlb (s : State) (h : Nat) (x : Region) : (s.setRegion h x).rtlb = s.rtlb := rfl
@[simp] theorem State.setRegion_kept (s : State) (h : Nat) (x : Region) : (s.setRegion h x).kept = s.kept := rfl
@[simp] theorem State.setRegion_hub (s : State) (h : Nat) (x : Region) : (s.setRegion h x).hub = s.hub := rfl
@[simp] theorem State.setRegion_cyc (s : State) (h : Nat) (x : Region) : (s.setRegion h x).cyc = s.cyc := rfl
@[simp] theorem State.setRegion_mhz (s : State) (h : Nat) (x : Region) : (s.setRegion h x).mhz = s.mhz := rfl
@[simp] theorem State.setRegion_ctr (s : State) (h : Nat) (x : Region) : (s.setRegion h x).ctr = s.ctr := rfl
@[simp] theorem State.setRegion_nextId (s : State) (h : Nat) (x : Region) : (s.setRegion h x).nextId = s.nextId := rfl
@[simp] theorem State.setRegion_nextHandle (s : State) (h : Nat) (x : Region) : (s.setRegion h x).nextHandle = s.nextHandle := rfl
@[simp] theorem State.setRegion_free (s : State) (h : Nat) (x : Region) : (s.setRegion h x).free = s.free := rfl

/-! ### State.setDom -/

@[simp] theorem State.setDom_agenda (s : State) (n : Nat) (x : Domain) : (s.setDom n x).agenda = s.agenda := rfl
@[simp] theorem State.setDom_cur (s : State) (n : Nat) (x : Domain) : (s.setDom n x).cur = s.cur := rfl
@[simp] theorem State.setDom_ctxs (s : State) (n : Nat) (x : Domain) : (s.setDom n x).ctxs = s.ctxs := rfl
@[simp] theorem State.setDom_tiles (s : State) (n : Nat) (x : Domain) : (s.setDom n x).tiles = s.tiles := rfl
@[simp] theorem State.setDom_dies (s : State) (n : Nat) (x : Domain) : (s.setDom n x).dies = s.dies := rfl
@[simp] theorem State.setDom_mem (s : State) (n : Nat) (x : Domain) : (s.setDom n x).mem = s.mem := rfl
@[simp] theorem State.setDom_pages (s : State) (n : Nat) (x : Domain) : (s.setDom n x).pages = s.pages := rfl
@[simp] theorem State.setDom_present (s : State) (n : Nat) (x : Domain) : (s.setDom n x).present = s.present := rfl
@[simp] theorem State.setDom_reqs (s : State) (n : Nat) (x : Domain) : (s.setDom n x).reqs = s.reqs := rfl
@[simp] theorem State.setDom_walks (s : State) (n : Nat) (x : Domain) : (s.setDom n x).walks = s.walks := rfl
@[simp] theorem State.setDom_invals (s : State) (n : Nat) (x : Domain) : (s.setDom n x).invals = s.invals := rfl
@[simp] theorem State.setDom_bars (s : State) (n : Nat) (x : Domain) : (s.setDom n x).bars = s.bars := rfl
@[simp] theorem State.setDom_regions (s : State) (n : Nat) (x : Domain) : (s.setDom n x).regions = s.regions := rfl
@[simp] theorem State.setDom_domains (s : State) (n : Nat) (x : Domain) : (s.setDom n x).domains = SMap.put s.domains n x := rfl
@[simp] theorem State.setDom_ftoks (s : State) (n : Nat) (x : Domain) : (s.setDom n x).ftoks = s.ftoks := rfl
@[simp] theorem State.setDom_roots (s : State) (n : Nat) (x : Domain) : (s.setDom n x).roots = s.roots := rfl
@[simp] theorem State.setDom_rootq (s : State) (n : Nat) (x : Domain) : (s.setDom n x).rootq = s.rootq := rfl
@[simp] theorem State.setDom_rtlb (s : State) (n : Nat) (x : Domain) : (s.setDom n x).rtlb = s.rtlb := rfl
@[simp] theorem State.setDom_kept (s : State) (n : Nat) (x : Domain) : (s.setDom n x).kept = s.kept := rfl
@[simp] theorem State.setDom_hub (s : State) (n : Nat) (x : Domain) : (s.setDom n x).hub = s.hub := rfl
@[simp] theorem State.setDom_cyc (s : State) (n : Nat) (x : Domain) : (s.setDom n x).cyc = s.cyc := rfl
@[simp] theorem State.setDom_mhz (s : State) (n : Nat) (x : Domain) : (s.setDom n x).mhz = s.mhz := rfl
@[simp] theorem State.setDom_ctr (s : State) (n : Nat) (x : Domain) : (s.setDom n x).ctr = s.ctr := rfl
@[simp] theorem State.setDom_nextId (s : State) (n : Nat) (x : Domain) : (s.setDom n x).nextId = s.nextId := rfl
@[simp] theorem State.setDom_nextHandle (s : State) (n : Nat) (x : Domain) : (s.setDom n x).nextHandle = s.nextHandle := rfl
@[simp] theorem State.setDom_free (s : State) (n : Nat) (x : Domain) : (s.setDom n x).free = s.free := rfl

/-! ### State.setHub -/

@[simp] theorem State.setHub_agenda (s : State) (h : Hub) : (s.setHub h).agenda = s.agenda := rfl
@[simp] theorem State.setHub_cur (s : State) (h : Hub) : (s.setHub h).cur = s.cur := rfl
@[simp] theorem State.setHub_ctxs (s : State) (h : Hub) : (s.setHub h).ctxs = s.ctxs := rfl
@[simp] theorem State.setHub_tiles (s : State) (h : Hub) : (s.setHub h).tiles = s.tiles := rfl
@[simp] theorem State.setHub_dies (s : State) (h : Hub) : (s.setHub h).dies = s.dies := rfl
@[simp] theorem State.setHub_mem (s : State) (h : Hub) : (s.setHub h).mem = s.mem := rfl
@[simp] theorem State.setHub_pages (s : State) (h : Hub) : (s.setHub h).pages = s.pages := rfl
@[simp] theorem State.setHub_present (s : State) (h : Hub) : (s.setHub h).present = s.present := rfl
@[simp] theorem State.setHub_reqs (s : State) (h : Hub) : (s.setHub h).reqs = s.reqs := rfl
@[simp] theorem State.setHub_walks (s : State) (h : Hub) : (s.setHub h).walks = s.walks := rfl
@[simp] theorem State.setHub_invals (s : State) (h : Hub) : (s.setHub h).invals = s.invals := rfl
@[simp] theorem State.setHub_bars (s : State) (h : Hub) : (s.setHub h).bars = s.bars := rfl
@[simp] theorem State.setHub_regions (s : State) (h : Hub) : (s.setHub h).regions = s.regions := rfl
@[simp] theorem State.setHub_domains (s : State) (h : Hub) : (s.setHub h).domains = s.domains := rfl
@[simp] theorem State.setHub_ftoks (s : State) (h : Hub) : (s.setHub h).ftoks = s.ftoks := rfl
@[simp] theorem State.setHub_roots (s : State) (h : Hub) : (s.setHub h).roots = s.roots := rfl
@[simp] theorem State.setHub_rootq (s : State) (h : Hub) : (s.setHub h).rootq = s.rootq := rfl
@[simp] theorem State.setHub_rtlb (s : State) (h : Hub) : (s.setHub h).rtlb = s.rtlb := rfl
@[simp] theorem State.setHub_kept (s : State) (h : Hub) : (s.setHub h).kept = s.kept := rfl
@[simp] theorem State.setHub_hub (s : State) (h : Hub) : (s.setHub h).hub = h := rfl
@[simp] theorem State.setHub_cyc (s : State) (h : Hub) : (s.setHub h).cyc = s.cyc := rfl
@[simp] theorem State.setHub_mhz (s : State) (h : Hub) : (s.setHub h).mhz = s.mhz := rfl
@[simp] theorem State.setHub_ctr (s : State) (h : Hub) : (s.setHub h).ctr = s.ctr := rfl
@[simp] theorem State.setHub_nextId (s : State) (h : Hub) : (s.setHub h).nextId = s.nextId := rfl
@[simp] theorem State.setHub_nextHandle (s : State) (h : Hub) : (s.setHub h).nextHandle = s.nextHandle := rfl
@[simp] theorem State.setHub_free (s : State) (h : Hub) : (s.setHub h).free = s.free := rfl

/-! ### State.draw -/

@[simp] theorem State.draw_agenda (s : State) (n : Nat) : (s.draw n).agenda = s.agenda := rfl
@[simp] theorem State.draw_cur (s : State) (n : Nat) : (s.draw n).cur = s.cur := rfl
@[simp] theorem State.draw_ctxs (s : State) (n : Nat) : (s.draw n).ctxs = s.ctxs := rfl
@[simp] theorem State.draw_tiles (s : State) (n : Nat) : (s.draw n).tiles = s.tiles := rfl
@[simp] theorem State.draw_dies (s : State) (n : Nat) : (s.draw n).dies = s.dies := rfl
@[simp] theorem State.draw_mem (s : State) (n : Nat) : (s.draw n).mem = s.mem := rfl
@[simp] theorem State.draw_pages (s : State) (n : Nat) : (s.draw n).pages = s.pages := rfl
@[simp] theorem State.draw_present (s : State) (n : Nat) : (s.draw n).present = s.present := rfl
@[simp] theorem State.draw_reqs (s : State) (n : Nat) : (s.draw n).reqs = s.reqs := rfl
@[simp] theorem State.draw_walks (s : State) (n : Nat) : (s.draw n).walks = s.walks := rfl
@[simp] theorem State.draw_invals (s : State) (n : Nat) : (s.draw n).invals = s.invals := rfl
@[simp] theorem State.draw_bars (s : State) (n : Nat) : (s.draw n).bars = s.bars := rfl
@[simp] theorem State.draw_regions (s : State) (n : Nat) : (s.draw n).regions = s.regions := rfl
@[simp] theorem State.draw_domains (s : State) (n : Nat) : (s.draw n).domains = s.domains := rfl
@[simp] theorem State.draw_ftoks (s : State) (n : Nat) : (s.draw n).ftoks = s.ftoks := rfl
@[simp] theorem State.draw_roots (s : State) (n : Nat) : (s.draw n).roots = s.roots := rfl
@[simp] theorem State.draw_rootq (s : State) (n : Nat) : (s.draw n).rootq = s.rootq := rfl
@[simp] theorem State.draw_rtlb (s : State) (n : Nat) : (s.draw n).rtlb = s.rtlb := rfl
@[simp] theorem State.draw_kept (s : State) (n : Nat) : (s.draw n).kept = s.kept := rfl
@[simp] theorem State.draw_hub (s : State) (n : Nat) : (s.draw n).hub = s.hub := rfl
@[simp] theorem State.draw_cyc (s : State) (n : Nat) : (s.draw n).cyc = s.cyc := rfl
@[simp] theorem State.draw_mhz (s : State) (n : Nat) : (s.draw n).mhz = s.mhz := rfl
@[simp] theorem State.draw_ctr (s : State) (n : Nat) : (s.draw n).ctr = s.ctr := rfl
@[simp] theorem State.draw_nextId (s : State) (n : Nat) : (s.draw n).nextId = s.nextId := rfl
@[simp] theorem State.draw_nextHandle (s : State) (n : Nat) : (s.draw n).nextHandle = s.nextHandle := rfl
@[simp] theorem State.draw_free (s : State) (n : Nat) : (s.draw n).free = s.free + n := rfl

end Sys2Proof.Machine
end

