-- ==== Sys2Proof/Laws/Parts.lean ====
section
/-! SUPPORT. Laws of the parts of the state: contexts, tiles, dies, regions and domains behind their updates; registers; taking an
exception and returning from one; and the frame in which every word runs. -/

namespace Sys2Proof.Machine

open Sys2Proof

/-! ### Contexts, tiles, dies, regions and domains -/

@[simp] theorem State.ctxAt_setCtx_same (s : State) (t : Nat) (c : Ctx) : (s.setCtx t c).ctxAt t = some c := by simp [State.ctxAt]
theorem State.ctxAt_setCtx_ne (s : State) {t u : Nat} (c : Ctx) (h : u ≠ t) : (s.setCtx t c).ctxAt u = s.ctxAt u := by
  simp [State.ctxAt, SMap.get?_put_ne _ _ h]
@[simp] theorem State.setCtx_setCtx (s : State) (t : Nat) (c d : Ctx) : (s.setCtx t c).setCtx t d = s.setCtx t d := by simp [State.setCtx]
@[simp] theorem State.tile_setCtx (s : State) (t u : Nat) (c : Ctx) : (s.setCtx t c).tile u = s.tile u := rfl
@[simp] theorem State.die_setCtx (s : State) (t d : Nat) (c : Ctx) : (s.setCtx t c).die d = s.die d := rfl
@[simp] theorem State.region_setCtx (s : State) (t h : Nat) (c : Ctx) : (s.setCtx t c).region? h = s.region? h := rfl
@[simp] theorem State.regionOf_setCtx (s : State) (t u : Nat) (c : Ctx) : (s.setCtx t c).regionOf u = s.regionOf u := rfl
@[simp] theorem State.tile_setTile_same (s : State) (t : Nat) (x : Tile) : (s.setTile t x).tile t = x := by simp [State.tile]
theorem State.tile_setTile_ne (s : State) {t u : Nat} (x : Tile) (h : u ≠ t) : (s.setTile t x).tile u = s.tile u := by
  simp [State.tile, SMap.getD_put_ne _ _ _ h]
@[simp] theorem State.ctxAt_setTile (s : State) (t u : Nat) (x : Tile) : (s.setTile t x).ctxAt u = s.ctxAt u := rfl
@[simp] theorem State.die_setTile (s : State) (t d : Nat) (x : Tile) : (s.setTile t x).die d = s.die d := rfl
@[simp] theorem State.region_setTile (s : State) (t h : Nat) (x : Tile) : (s.setTile t x).region? h = s.region? h := rfl
@[simp] theorem State.die_setDie_same (s : State) (d : Nat) (x : Die) : (s.setDie d x).die d = x := by simp [State.die]
theorem State.die_setDie_ne (s : State) {d e : Nat} (x : Die) (h : e ≠ d) : (s.setDie d x).die e = s.die e := by
  simp [State.die, SMap.getD_put_ne _ _ _ h]
@[simp] theorem State.ctxAt_setDie (s : State) (d t : Nat) (x : Die) : (s.setDie d x).ctxAt t = s.ctxAt t := rfl
@[simp] theorem State.tile_setDie (s : State) (d t : Nat) (x : Die) : (s.setDie d x).tile t = s.tile t := rfl
@[simp] theorem State.region_setDie (s : State) (d h : Nat) (x : Die) : (s.setDie d x).region? h = s.region? h := rfl
@[simp] theorem State.region_setRegion_same (s : State) (h : Nat) (r : Region) : (s.setRegion h r).region? h = some r := by simp [State.region?]
theorem State.region_setRegion_ne (s : State) {h k : Nat} (r : Region) (hk : k ≠ h) : (s.setRegion h r).region? k = s.region? k := by
  simp [State.region?, SMap.get?_put_ne _ _ hk]
@[simp] theorem State.ctxAt_setRegion (s : State) (h t : Nat) (r : Region) : (s.setRegion h r).ctxAt t = s.ctxAt t := rfl
@[simp] theorem State.tile_setRegion (s : State) (h t : Nat) (r : Region) : (s.setRegion h r).tile t = s.tile t := rfl
@[simp] theorem State.dom_setDom_same (s : State) (n : Nat) (d : Domain) : (s.setDom n d).dom? n = some d := by simp [State.dom?]
theorem State.dom_setDom_ne (s : State) {n k : Nat} (d : Domain) (h : k ≠ n) : (s.setDom n d).dom? k = s.dom? k := by
  simp [State.dom?, SMap.get?_put_ne _ _ h]
@[simp] theorem State.dom_setCtx (s : State) (t n : Nat) (c : Ctx) : (s.setCtx t c).dom? n = s.dom? n := rfl
@[simp] theorem State.setDom_setDom (s : State) (n : Nat) (d e : Domain) : (s.setDom n d).setDom n e = s.setDom n e := by simp [State.setDom]
@[simp] theorem State.updTile_mem (s : State) (t : Nat) (f : Tile → Tile) : (s.updTile t f).mem = s.mem := rfl
@[simp] theorem State.tile_updTile_same (s : State) (t : Nat) (f : Tile → Tile) : (s.updTile t f).tile t = f (s.tile t) := by simp [State.updTile]
@[simp] theorem State.updCtx_mem (s : State) (t : Nat) (f : Ctx → Ctx) : (s.updCtx t f).mem = s.mem := by
  unfold State.updCtx
  split <;> rfl
theorem State.updCtx_ctxAt (s : State) (t : Nat) (f : Ctx → Ctx) : (s.updCtx t f).ctxAt t = (s.ctxAt t).map f := by
  unfold State.updCtx
  split
  · rename_i c h
    simp [h]
  · rename_i h
    simp [h]

/-! ### Operations that leave memory and contexts -/

@[simp] theorem State.count_mem (s : State) (j n : Nat) : (s.count j n).mem = s.mem := by
  unfold State.count
  split <;> rfl
@[simp] theorem State.count_ctxs (s : State) (j n : Nat) : (s.count j n).ctxs = s.ctxs := by
  unfold State.count
  split <;> rfl
@[simp] theorem State.count_tiles (s : State) (j n : Nat) : (s.count j n).tiles = s.tiles := by
  unfold State.count
  split <;> rfl
@[simp] theorem State.count_regions (s : State) (j n : Nat) : (s.count j n).regions = s.regions := by
  unfold State.count
  split <;> rfl
@[simp] theorem State.count_domains (s : State) (j n : Nat) : (s.count j n).domains = s.domains := by
  unfold State.count
  split <;> rfl
@[simp] theorem State.countTile_mem (s : State) (t j n : Nat) : (s.countTile t j n).mem = s.mem := State.count_mem ..
@[simp] theorem State.countTile_ctxs (s : State) (t j n : Nat) : (s.countTile t j n).ctxs = s.ctxs := State.count_ctxs ..
@[simp] theorem State.countTile_tiles (s : State) (t j n : Nat) : (s.countTile t j n).tiles = s.tiles := State.count_tiles ..
@[simp] theorem State.countTile_regions (s : State) (t j n : Nat) : (s.countTile t j n).regions = s.regions := State.count_regions ..
@[simp] theorem State.countTile_domains (s : State) (t j n : Nat) : (s.countTile t j n).domains = s.domains := State.count_domains ..
@[simp] theorem State.token_mem (s : State) (f : FaultTok) : (s.token f).mem = s.mem := State.count_mem ..
@[simp] theorem State.token_ctxs (s : State) (f : FaultTok) : (s.token f).ctxs = s.ctxs := State.count_ctxs ..
@[simp] theorem State.token_regions (s : State) (f : FaultTok) : (s.token f).regions = s.regions := State.count_regions ..
@[simp] theorem State.report_mem (s : State) (cause : BitVec 16) (v e : W64) (t h : Nat) : (s.report cause v e t h).mem = s.mem := State.token_mem ..
@[simp] theorem State.report_ctxs (s : State) (cause : BitVec 16) (v e : W64) (t h : Nat) : (s.report cause v e t h).ctxs = s.ctxs := State.token_ctxs ..
@[simp] theorem State.moved_mem (s : State) (t : Nat) : (s.moved t).mem = s.mem := by
  unfold State.moved
  split <;> rfl
@[simp] theorem State.moved_ctxs (s : State) (t : Nat) : (s.moved t).ctxs = s.ctxs := by
  unfold State.moved
  split <;> rfl
@[simp] theorem State.progress_mem (s : State) (t : Nat) : (s.progress t).mem = s.mem := by
  unfold State.progress
  split <;> rfl
@[simp] theorem State.progress_ctxs (s : State) (t : Nat) : (s.progress t).ctxs = s.ctxs := by
  unfold State.progress
  split <;> rfl
@[simp] theorem State.progress_tiles (s : State) (t : Nat) : (s.progress t).tiles = s.tiles := by
  unfold State.progress
  split <;> rfl
@[simp] theorem State.freezeTile_mem (s : State) (t : Nat) (b : Bool) : (s.freezeTile t b).mem = s.mem := rfl
@[simp] theorem State.freezeTile_ctxs (s : State) (t : Nat) (b : Bool) : (s.freezeTile t b).ctxs = s.ctxs := rfl
@[simp] theorem State.freezeTile_regions (s : State) (t : Nat) (b : Bool) : (s.freezeTile t b).regions = s.regions := rfl

/-- A fold of steps that leave memory leaves memory. -/
theorem foldl_mem {α : Type} (f : State → α → State) (hf : ∀ s x, (f s x).mem = s.mem) (l : List α) (s : State) : (l.foldl f s).mem = s.mem := by
  induction l generalizing s with
  | nil => rfl
  | cons x l ih => rw [List.foldl_cons, ih, hf]

/-- A fold of steps that keep a property of the state keeps it. -/
theorem foldl_keeps {α : Type} (P : State → Prop) (f : State → α → State) (hf : ∀ s x, P s → P (f s x)) (l : List α) (s : State) (h : P s) :
    P (l.foldl f s) := by
  induction l generalizing s with
  | nil => exact h
  | cons x l ih => exact ih _ (hf s x h)

/-- Freezing tiles leaves memory (R361). -/
@[simp] theorem State.freeze_mem (s : State) (ts : List Nat) (code : Nat) (v : W64) (src : Nat) (but : Option Nat) :
    (s.freeze ts code v src but).mem = s.mem :=
  foldl_mem _ (fun _ _ => by simp) _ _

/-- A fault of a unit leaves memory (R166, R171, R348, R362). -/
@[simp] theorem State.unitFault_mem (s : State) (h : Nat) (r : Region) (t code : Nat) (v : W64) : (s.unitFault h r t code v).mem = s.mem := by
  simp [State.unitFault]

/-- What a synchronous cause freezes leaves memory (R361). -/
@[simp] theorem State.freezeFor_mem (s : State) (t code : Nat) (v : W64) : (s.freezeFor t code v).mem = s.mem := by
  unfold State.freezeFor
  split
  · split <;> simp
  · split <;> simp

/-! ### Registers -/

@[simp] theorem Ctx.r_zero (c : Ctx) : c.r 0 = 0 := by simp [Ctx.r]
@[simp] theorem Ctx.w_zero (c : Ctx) (v : W64) : c.w 0 v = c := by simp [Ctx.w]
theorem Ctx.r_w_same (c : Ctx) {x : Reg} (v : W64) (h : x ≠ 0) : (c.w x v).r x = v := by
  unfold Ctx.r Ctx.w
  rw [if_neg h, if_neg h]
  simp
theorem Ctx.r_w_ne (c : Ctx) {x y : Reg} (v : W64) (h : y ≠ x) : (c.w x v).r y = c.r y := by
  unfold Ctx.r Ctx.w
  split
  · rfl
  · split
    · rfl
    · simp only
      rw [Vector.getElem_set_ne]
      exact fun hc => h (BitVec.eq_of_toNat_eq hc.symm)

/-- A register write changes the registers alone (R30, R82). -/
theorem Ctx.w_frame (c : Ctx) (x : Reg) (v : W64) : { c.w x v with g := c.g } = c := by
  unfold Ctx.w
  split <;> rfl

@[simp] theorem Ctx.w_pc (c : Ctx) (x : Reg) (v : W64) : (c.w x v).pc = c.pc := by
  unfold Ctx.w
  split <;> rfl
@[simp] theorem Ctx.w_lvl (c : Ctx) (x : Reg) (v : W64) : (c.w x v).lvl = c.lvl := by
  unfold Ctx.w
  split <;> rfl
@[simp] theorem Ctx.w_wait (c : Ctx) (x : Reg) (v : W64) : (c.w x v).wait = c.wait := by
  unfold Ctx.w
  split <;> rfl
@[simp] theorem Ctx.w_ord (c : Ctx) (x : Reg) (v : W64) : (c.w x v).ord = c.ord := by
  unfold Ctx.w
  split <;> rfl

/-! ### Completion -/

/-- What the completion of a word leaves: every register, and every CSR but the count, the loops and the program counter (R86, R98). -/
theorem Ctx.next_frame (c : Ctx) : ∃ p r l0 l1 ld ml, c.next =
    { c with pc := p, ret := r, l0 := l0, l1 := l1, ldep := ld, mloop := ml, ord := none, wait := .idle, own := [] } := by
  unfold Ctx.next Ctx.setStack Ctx.count
  simp only
  split
  · exact ⟨_, _, c.l0, c.l1, c.ldep, _, rfl⟩
  · split
    · exact ⟨_, _, c.l0, c.l1, _, c.mloop, rfl⟩
    · exact ⟨_, _, _, c.l1, _, c.mloop, rfl⟩
    · exact ⟨_, _, _, _, _, c.mloop, rfl⟩

@[simp] theorem Ctx.next_g (c : Ctx) : c.next.g = c.g := by
  obtain ⟨p, r, l0, l1, ld, ml, h⟩ := c.next_frame
  rw [h]
@[simp] theorem Ctx.next_r (c : Ctx) (x : Reg) : c.next.r x = c.r x := by simp [Ctx.r]

/-- A word behind which no loop ends goes on by 4 (R98). -/
theorem Ctx.next_pc (c : Ctx) (h : c.stack = []) : c.next.pc = c.pc + 4 := by
  simp [Ctx.next, h, loopStep]

/-! ### Exceptions -/

@[simp] theorem Ctx.takeTrap_pc (c : Ctx) (k : BitVec 16) (v e : W64) : (c.takeTrap k v e).pc = c.tvec := rfl
@[simp] theorem Ctx.takeTrap_epc (c : Ctx) (k : BitVec 16) (v e : W64) : (c.takeTrap k v e).epc = e := rfl
@[simp] theorem Ctx.takeTrap_tcause (c : Ctx) (k : BitVec 16) (v e : W64) : (c.takeTrap k v e).tcause = k := rfl
@[simp] theorem Ctx.takeTrap_tval (c : Ctx) (k : BitVec 16) (v e : W64) : (c.takeTrap k v e).tval = v := rfl
@[simp] theorem Ctx.takeTrap_lvl (c : Ctx) (k : BitVec 16) (v e : W64) : (c.takeTrap k v e).lvl = true := rfl
@[simp] theorem Ctx.takeTrap_plvl (c : Ctx) (k : BitVec 16) (v e : W64) : (c.takeTrap k v e).plvl = c.lvl := rfl
@[simp] theorem Ctx.takeTrap_g (c : Ctx) (k : BitVec 16) (v e : W64) : (c.takeTrap k v e).g = c.g := rfl
@[simp] theorem Ctx.returnFromTrap_pc (c : Ctx) : c.returnFromTrap.pc = c.epc := rfl
@[simp] theorem Ctx.returnFromTrap_lvl (c : Ctx) : c.returnFromTrap.lvl = c.plvl := rfl
@[simp] theorem Ctx.returnFromTrap_g (c : Ctx) : c.returnFromTrap.g = c.g := rfl

/-- Raising a synchronous cause at the image level of a tile (R357): the trap is taken, and what it freezes and reports leaves memory and
the context as the trap left them. -/
theorem State.raise_image (s : State) (t : Nat) (c : Ctx) (code sub : Nat) (v e : W64) (h1 : c.isRoot = false) (h2 : c.lvl = false) :
    (s.raise t c code sub v e).ctxAt t = some { c.takeTrap (causeWord false sub code) v e with awaiting := true, src := t }
      ∧ (s.raise t c code sub v e).mem = s.mem := by
  simp [State.raise, h1, h2, State.ctxAt]

/-! ### The frame of a word -/

/-- A word that is legal for the context whose turn it is runs its meaning for it (R37, R40, R44). -/
theorem runWord_runs {s : State} {i : Instr} {c : Ctx} (h : Runs s i c) (f : Ctx → State) : runWord i s f = .next (f c) := by
  obtain ⟨h1, h2, h3, h4⟩ := h
  simp [runWord, h1, h2, h3, h4]

/-- A word always answers a next state, and what it may be: nothing, the meaning for the context, or the illegal-instruction trap. -/
theorem runWord_cases (i : Instr) (s : State) (f : Ctx → State) :
    runWord i s f = .next s ∨ ∃ c, s.curCtx = some c ∧ (runWord i s f = .next (f c) ∨ runWord i s f = .next (s.illegal c (encode i))) := by
  unfold runWord
  split
  · exact .inl rfl
  · rename_i c h
    split
    · exact .inl rfl
    · split
      · exact .inr ⟨c, h, .inl rfl⟩
      · exact .inr ⟨c, h, .inr rfl⟩

/-- A word that only writes a register does so through `Ctx.w` (R89 to R93). -/
theorem writes_of_alu {i : Instr} {d : Reg} {v : Ctx → W64} (h : ∀ s, exec i s = runWord i s fun c => s.setCtx s.cur.toNat (c.w d (v c)).next) :
    Writes i d v := by
  intro s c hr _
  rw [h s, runWord_runs hr]

end Sys2Proof.Machine
end

