-- ==== Sys2Proof/Laws/Access.lean ====
section
/-! SUPPORT. What the shared forms of memory words can do, said once: the page of an access, an own read, a load, a store, and the
scratchpad forms. -/

namespace Sys2Proof.Machine

open Sys2Proof

/-- A checked access goes on with its page. -/
@[simp] theorem State.withPage_ok (s : State) (t : Nat) (c : Ctx) (va : W64) (w : Access) (e : TlbEnt) (f : TlbEnt → State) :
    s.withPage t c va w (.ok e) f = f e := rfl
/-- It traps with its address. -/
@[simp] theorem State.withPage_trap (s : State) (t : Nat) (c : Ctx) (va : W64) (w : Access) (code : Nat) (f : TlbEnt → State) :
    s.withPage t c va w (.trap code) f = s.trap c code 0 va := rfl
/-- It waits for the walker. -/
@[simp] theorem State.withPage_miss (s : State) (t : Nat) (c : Ctx) (va : W64) (w : Access) (f : TlbEnt → State) :
    s.withPage t c va w .miss f = s.missed t c c.asid va w := rfl

/-- An own read goes on with its bytes, or stops where it stops (R402). -/
theorem State.readOwn_ok {s : State} {t : Nat} {c : Ctx} {va : W64} {n : Nat} {bs : List Byte} (h : s.ownRead t c va n = .ok bs) (f : List Byte → State) :
    s.readOwn t c va n f = f bs := by
  simp [State.readOwn, h]
theorem State.readOwn_error {s : State} {t : Nat} {c : Ctx} {va : W64} {n : Nat} {u : State} (h : s.ownRead t c va n = .error u) (f : List Byte → State) :
    s.readOwn t c va n f = u := by
  simp [State.readOwn, h]

/-- An own read that succeeds is that of any context of the same address space and the same answers. -/
theorem State.ownRead_ok_of {s : State} {t : Nat} {c c' : Ctx} {va : W64} {n : Nat} {bs : List Byte} (ha : c'.asid = c.asid) (ho : c'.own = c.own)
    (h : s.ownRead t c va n = .ok bs) : s.ownRead t c' va n = .ok bs := by
  have part (p : W64) (k : Nat) (l : List Req) (hp : s.ownPart t c p k = .ok l) : s.ownPart t c' p k = .ok l := by
    unfold State.ownPart at hp ⊢
    rw [ha]
    cases hk : checkAccess s t c.asid p 1 .load false <;> simp [hk] at hp ⊢
    exact hp
  have parts (ps : List W64) (acc : List Req) (l : List Req) (f : W64 → Nat) :
      ps.foldl (fun (a : Except State (List Req)) p => match a with
        | .error x => .error x
        | .ok y => match s.ownPart t c p (f p) with
          | .error x => .error x
          | .ok x => .ok (y ++ x)) (.ok acc) = .ok l →
      ps.foldl (fun (a : Except State (List Req)) p => match a with
        | .error x => .error x
        | .ok y => match s.ownPart t c' p (f p) with
          | .error x => .error x
          | .ok x => .ok (y ++ x)) (.ok acc) = .ok l := by
    induction ps generalizing acc with
    | nil => exact id
    | cons p ps ih =>
      simp only [List.foldl_cons]
      cases hp : s.ownPart t c p (f p) with
      | error x =>
        intro hx
        have stuck (qs : List W64) : qs.foldl (fun (a : Except State (List Req)) p => match a with
            | .error x => .error x
            | .ok y => match s.ownPart t c p (f p) with
              | .error x => .error x
              | .ok x => .ok (y ++ x)) (.error x) = .error x := by
          induction qs with
          | nil => rfl
          | cons q qs iq => simpa using iq
        simp [stuck] at hx
      | ok x => simpa [part p (f p) x hp] using ih (acc ++ x)
  have bytes (q : Req) : s.ownBytes t c' q = s.ownBytes t c q := by simp [State.ownBytes, ho]
  unfold State.ownRead at h ⊢
  cases hl : s.ownParts t c va n with
  | error x => simp [hl] at h
  | ok l =>
    have hl' : s.ownParts t c' va n = .ok l := parts _ [] l _ hl
    rw [hl] at h
    rw [hl']
    simp only [bytes] at h ⊢
    split at h
    · rename_i hall
      simp [hall]
      simpa using h
    · simp at h

/-- A load whose address is checked sends its request (R116, R117, R136). -/
theorem loadWord_issue {i : Instr} {d a : Reg} {o : BitVec 12} {n : Nat} {sg : Bool} {s : State} {c : Ctx} {e : TlbEnt} (h : Runs s i c) (hf : Fresh c)
    (hk : checkAccess s s.cur.toNat c.asid (c.ea a o) n .load false = .ok e) (hr : c.order = 4 → MayRelease s c) (hl : s.loadsOut s.cur.toNat < 16) :
    loadWord i d a o n sg s = .next (sends s c { mkReq s s.cur.toNat .read e (c.ea a o) n with reg := some d, signed := sg }
      (acquires c.order || e.kind == .device)) := by
  simp only [loadWord, runWord_runs h]
  congr 1
  split
  · next id hid => exact absurd hid (hf id)
  · have h1 : (c.order == 4 && !s.released s.cur.toNat c.scope) = false := by
      simp only [Bool.and_eq_false_iff, beq_eq_false_iff_ne, Bool.not_eq_false']
      by_cases h4 : c.order = 4
      · exact .inr (hr h4)
      · exact .inl h4
    simp only [hk, State.withPage_ok, h1, if_neg (by omega : ¬ 16 ≤ s.loadsOut s.cur.toNat)]
    simp [State.issue, State.addReq, sends, State.setCtx]

/-- A store whose address is checked sends its bytes (R116, R117, R136). -/
theorem storeWord_issue {i : Instr} {d a : Reg} {o : BitVec 12} {n : Nat} {s : State} {c : Ctx} {e : TlbEnt} (h : Runs s i c) (hf : Fresh c)
    (hk : checkAccess s s.cur.toNat c.asid (c.ea a o) n .store (n == 8) = .ok e) (hr : releases c.order = true → MayRelease s c)
    (hl : s.storesOut s.cur.toNat < 32) :
    storeWord i d a o n s = .next (sends s c { mkReq s s.cur.toNat .write e (c.ea a o) n with dat := lowBytes n (c.r d) }
      (e.kind != .normal || c.order == 4)) := by
  simp only [storeWord, runWord_runs h]
  congr 1
  split
  · next id hid => exact absurd hid (hf id)
  · have h1 : (releases c.order && !s.released s.cur.toNat c.scope) = false := by
      cases hc : releases c.order
      · rfl
      · have h2 : s.released s.cur.toNat c.scope = true := hr hc
        simp [h2]
    simp only [hk, State.withPage_ok, h1, if_neg (by omega : ¬ 32 ≤ s.storesOut s.cur.toNat)]
    simp [State.issue, State.addReq, sends, State.setCtx]

/-- A load or store whose check traps takes the trap with its address (R115, R358). -/
theorem loadWord_trap {i : Instr} {d a : Reg} {o : BitVec 12} {n : Nat} {sg : Bool} {s : State} {c : Ctx} {code : Nat} (h : Runs s i c) (hf : Fresh c)
    (hk : checkAccess s s.cur.toNat c.asid (c.ea a o) n .load false = .trap code) :
    loadWord i d a o n sg s = .next (s.trap c code 0 (c.ea a o)) := by
  simp only [loadWord, runWord_runs h]
  congr 1
  split
  · next id hid => exact absurd hid (hf id)
  · simp [hk]
theorem storeWord_trap {i : Instr} {d a : Reg} {o : BitVec 12} {n : Nat} {s : State} {c : Ctx} {code : Nat} (h : Runs s i c) (hf : Fresh c)
    (hk : checkAccess s s.cur.toNat c.asid (c.ea a o) n .store (n == 8) = .trap code) :
    storeWord i d a o n s = .next (s.trap c code 0 (c.ea a o)) := by
  simp only [storeWord, runWord_runs h]
  congr 1
  split
  · next id hid => exact absurd hid (hf id)
  · simp [hk]

/-- A scratchpad load writes the value of its bytes, and its access is noted in its bank (R120, R121, R123). -/
theorem localLoad_ok {i : Instr} {d a : Reg} {o : BitVec 12} {n : Nat} {sg : Bool} {s : State} {c : Ctx} (h : Runs s i c)
    (hk : checkLocal s s.cur.toNat (c.ea a o) n n = none) (hr : c.order ≠ 4) :
    localLoad i d a o n sg s =
      .next ((s.updTile s.cur.toNat fun x => x.seqAccess (c.ea a o).toNat).setCtx s.cur.toNat (c.w d (extend sg n ((s.tile s.cur.toNat).seBytes (c.ea a o).toNat n))).next) := by
  simp [localLoad, runWord_runs h, hk, hr]

/-- What a byte written into an SE reads as, and every other byte (R120). -/
theorem Tile.seByte_seWrite_out (t : Tile) (la i : Nat) (bs : List Byte) (h : i < la ∨ la + bs.length ≤ i) : (t.seWrite la bs).seByte i = t.seByte i := by
  induction bs generalizing t la with
  | nil => rfl
  | cons b bs ih =>
    simp only [List.length_cons] at h
    rw [Tile.seWrite, ih _ (la + 1) (by omega)]
    simp only [Tile.seByte]
    rw [SMap.get?_put_ne _ _ (by omega)]
theorem Tile.seByte_seWrite_in (t : Tile) (la : Nat) (bs : List Byte) (k : Nat) (hk : k < bs.length) : (t.seWrite la bs).seByte (la + k) = bs[k] := by
  induction bs generalizing t la k with
  | nil => simp at hk
  | cons b bs ih =>
    rw [Tile.seWrite]
    cases k with
    | zero =>
      rw [Tile.seByte_seWrite_out _ _ _ _ (by omega)]
      simp [Tile.seByte]
    | succ k =>
      have := ih { t with sem := SMap.put t.sem la b } (la + 1) k (by simpa using hk)
      rw [show la + (k + 1) = la + 1 + k by omega, this]
      rfl
/-- Bytes written into an SE read as written. -/
theorem Tile.seBytes_seWrite (t : Tile) (la : Nat) (bs : List Byte) : (t.seWrite la bs).seBytes la bs.length = bs := by
  apply List.ext_getElem (by simp [Tile.seBytes])
  intro k h1 h2
  simp [Tile.seBytes, Tile.seByte_seWrite_in t la bs k h2]
/-- A write into an SE changes its bytes alone. -/
theorem Tile.seWrite_frame (t : Tile) (la : Nat) (bs : List Byte) : { t.seWrite la bs with sem := t.sem } = t := by
  induction bs generalizing t la with
  | nil => rfl
  | cons b bs ih => exact congrArg (fun x : Tile => { x with sem := t.sem }) (ih { t with sem := SMap.put t.sem la b } (la + 1))

/-- A word that waits and has nothing to release may release. -/
theorem State.released_tile (s : State) (t : Nat) : s.released t 0 = true := rfl
theorem State.released_none {s : State} {t : Nat} (h : s.outstanding t = false) (sc : Nat) : s.released t sc = true := by
  simp [State.released, h]

end Sys2Proof.Machine
end

