-- ==== Sys2Proof/Laws/Memory.lean ====
section
/-! SUPPORT. Laws of memory: a byte written reads back, every other byte stays, and every operation over memory keeps the canonical
form. -/

namespace Sys2Proof.Machine

open Sys2Proof

/-- A byte just written reads as written. -/
theorem Memory.get_put_same (m : Memory) (a : Nat) (b : Byte) : (m.put a b).get a = b := by
  simp only [Memory.put, Memory.get]
  split
  · rename_i hb
    rw [SMap.get?_del_same m a]
    exact hb.symm
  · simp

/-- Writing a byte leaves every other. -/
theorem Memory.get_put_ne (m : Memory) {a i : Nat} (b : Byte) (h : i ≠ a) : (m.put a b).get i = m.get i := by
  simp only [Memory.put, Memory.get]
  split
  · rw [SMap.get?_del_ne m h]
  · rw [SMap.get?_put_ne m b h]

/-- Writing a byte keeps the canonical form. -/
theorem Memory.wf_put (m : Memory) (a : Nat) (b : Byte) (h : Memory.wf m) : Memory.wf (m.put a b) := by
  obtain ⟨h1, h2⟩ := h
  rw [List.all_eq_true] at h2
  simp only [Memory.put]
  split
  · refine ⟨SMap.rising_del m a h1, ?_⟩
    rw [List.all_eq_true]
    exact fun p hp => h2 p (SMap.mem_del m a p hp)
  · rename_i hb
    refine ⟨SMap.rising_put m a b h1, ?_⟩
    rw [List.all_eq_true]
    intro p hp
    rcases SMap.mem_put m a b p hp with rfl | hp
    · simpa using hb
    · exact h2 p hp

/-- Writing bytes keeps the canonical form. -/
theorem Memory.wf_putBytes (m : Memory) (a : Nat) (bs : List Byte) (h : Memory.wf m) : Memory.wf (m.putBytes a bs) := by
  induction bs generalizing m a with
  | nil => exact h
  | cons b bs ih => exact ih _ _ (Memory.wf_put m a b h)

/-- Writing bytes leaves every byte outside their place. -/
theorem Memory.get_putBytes_out (m : Memory) (a i : Nat) (bs : List Byte) (h : i < a ∨ a + bs.length ≤ i) : (m.putBytes a bs).get i = m.get i := by
  induction bs generalizing m a with
  | nil => rfl
  | cons b bs ih =>
    simp only [List.length_cons] at h
    rw [Memory.putBytes, ih (m.put a b) (a + 1) (by omega), Memory.get_put_ne m b (by omega)]

/-- Bytes just written read as written. -/
theorem Memory.get_putBytes_in (m : Memory) (a : Nat) (bs : List Byte) (k : Nat) (hk : k < bs.length) :
    (m.putBytes a bs).get (a + k) = bs[k] := by
  induction bs generalizing m a k with
  | nil => simp at hk
  | cons b bs ih =>
    rw [Memory.putBytes]
    cases k with
    | zero => rw [Memory.get_putBytes_out _ _ _ _ (by omega)]; exact Memory.get_put_same m a b
    | succ k =>
      have := ih (m.put a b) (a + 1) k (by simpa using hk)
      rw [show a + (k + 1) = a + 1 + k by omega, this]
      rfl

/-- The bytes at an address, one by one. -/
theorem Memory.bytes_length (m : Memory) (a n : Nat) : (m.bytes a n).length = n := by
  induction n generalizing a with
  | zero => rfl
  | succ n ih => simp [Memory.bytes, ih]

/-- The bytes at an address, by index. -/
theorem Memory.getElem_bytes (m : Memory) (a n k : Nat) (h : k < (m.bytes a n).length) : (m.bytes a n)[k] = m.get (a + k) := by
  induction n generalizing a k with
  | zero => simp [Memory.bytes] at h
  | succ n ih =>
    cases k with
    | zero => rfl
    | succ k =>
      have h' : k < (m.bytes (a + 1) n).length := by simpa [Memory.bytes] using h
      have := ih (a + 1) k h'
      rw [show a + (k + 1) = a + 1 + k by omega, ← this]
      rfl

/-- A write and the read of the same place. -/
theorem Memory.bytes_putBytes (m : Memory) (a : Nat) (bs : List Byte) : (m.putBytes a bs).bytes a bs.length = bs := by
  apply List.ext_getElem (by simp [Memory.bytes_length])
  intro k h1 h2
  rw [Memory.getElem_bytes, Memory.get_putBytes_in m a bs k h2]

/-- A write and the read of another place. -/
theorem Memory.bytes_putBytes_out (m : Memory) (a b n : Nat) (bs : List Byte) (h : b + n ≤ a ∨ a + bs.length ≤ b) :
    (m.putBytes a bs).bytes b n = m.bytes b n := by
  apply List.ext_getElem (by simp [Memory.bytes_length])
  intro k h1 h2
  rw [Memory.bytes_length] at h1
  rw [Memory.getElem_bytes, Memory.getElem_bytes, Memory.get_putBytes_out _ _ _ _ (by omega)]

/-- Memory at reset is in its canonical form. -/
theorem State.reset_mem_wf : Memory.wf State.reset.mem := by decide

/-- A write of the package keeps the canonical form, whatever ports are down (R388). -/
theorem State.memWrite_wf (s : State) (pa : Nat) (bs : List Byte) (h : Memory.wf s.mem) : Memory.wf (s.memWrite pa bs) := by
  have k : ∀ (l : List (Nat × Byte)) (m : Memory), Memory.wf m →
      Memory.wf (l.foldl (fun m x => if s.peerDown (pa + x.1) then m else m.put (pa + x.1) x.2) m) := by
    intro l
    induction l with
    | nil => exact fun _ h => h
    | cons x l ih =>
      refine fun m h => ih _ ?_
      dsimp only
      split
      · exact h
      · exact Memory.wf_put _ _ _ h
  unfold State.memWrite
  split
  · exact k _ _ h
  · exact Memory.wf_putBytes _ _ _ h

/-- While no Herran port is down, a write of the package writes every byte. -/
theorem State.memWrite_up {s : State} (h : s.anyDown = false) (pa : Nat) (bs : List Byte) : s.memWrite pa bs = s.mem.putBytes pa bs := by
  simp [State.memWrite, h]

/-- While no Herran port is down, the package reads memory as it stands. -/
theorem State.seen_up {s : State} (h : s.anyDown = false) : s.seen = s.mem := by simp [State.seen, h]

/-- What a port that is down loses reads 0, and every other byte as it stands (R118, R388). -/
theorem Memory.get_seen (s : State) (a : Nat) : Memory.get s.seen a = if s.anyDown && s.peerDown a then 0 else s.mem.get a := by
  have k : ∀ m : Memory, SMap.get? (m.filter fun c => !s.peerDown c.1) a = if s.peerDown a then none else SMap.get? m a := by
    intro m
    induction m with
    | nil => simp [SMap.get?]
    | cons c m ih =>
      obtain ⟨i, x⟩ := c
      by_cases h : s.peerDown i <;> by_cases e : i = a
      · subst e; simp_all
      · simp_all [SMap.get?]
      · subst e; simp_all [SMap.get?]
      · simp_all [SMap.get?]
  unfold State.seen
  cases h : s.anyDown
  · simp
  · simp only [if_true, Bool.true_and, Memory.get, k]
    split <;> rfl

/-- A store to device registers is none to memory. -/
@[simp] theorem State.devWrite_mem (s : State) (pa n : Nat) : (s.devWrite pa n).mem = s.mem := by
  have h : ∀ (l : List Nat) (s : State), (l.foldl (fun (s : State) i => s.clearCounter (8 * (pa / 8) + 8 * i)) s).mem = s.mem := by
    intro l
    induction l with
    | nil => intro s; rfl
    | cons i l ih => intro s; simp only [List.foldl_cons, ih]; unfold State.clearCounter; dsimp only; split <;> rfl
  unfold State.devWrite
  split <;> simp [State.count, h]

/-- A guarded write of the hub keeps the canonical form. -/
theorem State.store_wf (s : State) (pa : Nat) (bs : List Byte) (h : Memory.wf s.mem) : Memory.wf (s.store pa bs).mem := by
  unfold State.store
  split
  · exact h
  · split
    · simpa using h
    · unfold State.count
      split <;> exact State.memWrite_wf s pa bs h

/-- A journal entry keeps the canonical form. -/
theorem State.journal_wf (s : State) (q status code kind k cause : Nat) (h : Memory.wf s.mem) : Memory.wf (s.journal q status code kind k cause).mem := by
  unfold State.journal
  split
  · exact h
  · exact State.store_wf _ _ _ h

/-- A completion record keeps the canonical form. -/
theorem State.record_wf (s : State) (q tag status code kind k cause : Nat) (h : Memory.wf s.mem) :
    Memory.wf (s.record q tag status code kind k cause).mem := State.store_wf _ _ _ h

/-- The answer of a command keeps the canonical form. -/
theorem State.answer_wf (s : State) (q tag status code kind k cause : Nat) (h : Memory.wf s.mem) :
    Memory.wf (s.answer q tag status code kind k cause).mem := State.record_wf _ _ _ _ _ _ _ _ (State.journal_wf _ _ _ _ _ _ _ h)

/-- The bytes of a value are as many as were asked for. -/
@[simp] theorem leBytes_length (n x : Nat) : (leBytes n x).length = n := by
  induction n generalizing x with
  | zero => rfl
  | succ n ih => simp [leBytes, ih]

/-- A value is read back from its bytes (R4). -/
theorem leNat_leBytes (n x : Nat) : leNat (leBytes n x) = x % 256 ^ n := by
  induction n generalizing x with
  | zero => simp [leBytes, leNat, Nat.mod_one]
  | succ n ih =>
    have h : x % 256 ^ (n + 1) = x % 256 + 256 * (x / 256 % 256 ^ n) := by
      rw [show 256 ^ (n + 1) = 256 * 256 ^ n by ring, Nat.mod_mul]
    simp only [leBytes, leNat, ih, BitVec.toNat_ofNat, h]

end Sys2Proof.Machine
end

