-- ==== Sys2Proof/Tests/Slice0.lean ====
section
/-! SUPPORT. Tests of single decodings and steps, and for every statement with hypotheses a witness: a concrete state and operands that
meet them. The words of the decode tests are laid out from the encoding tables of R29 to R44, with a different value in every field. -/

namespace Sys2Proof.Tests

open Sys2Proof Sys2Proof.Machine

-- One theorem after the other: each `decide +kernel` waits for the declarations before it.
set_option Elab.async false

/-! ### Well-formedness -/

theorem test_wellFormed_refuses : ∀ i ∈ [Instr.loopi 6 0, .pref 4 1 0, .ord 5 0, .fence 0 0, .fence 5 1, .csrr 1 0x002, .csrw 1 2 0x046,
    .csrs 1 2 0x012, .csrc 1 2 0xFFF, .mstat 1 6, .rstat 1 3, .rsel 1 2 3, .rfree 1 0], i.wellFormed = false ∧
    decode (encode i) = .error .badOperand := by decide

theorem test_wellFormed_allows : ∀ i ∈ [Instr.loopi 6 1, .pref 3 1 0, .ord 4 3, .fence 1 0, .fence 4 3, .csrr 1 0x061, .csrw 1 2 0x060,
    .csrs 1 2 0x000, .csrc 1 2 0x026, .mstat 1 5, .rstat 1 4, .rsel 1 2 2, .rfree 1 15], i.wellFormed = true := by decide

/-! ### Decoding -/

theorem test_decode_01 : ∀ p ∈ [(0x06AA3800#32, Instr.add 21 10 7), (0x06AA3801#32, .sub 21 10 7), (0x06AA3802#32, .and 21 10 7),
      (0x06AA3803#32, .or 21 10 7), (0x06AA3804#32, .xor 21 10 7), (0x06AA3805#32, .andn 21 10 7), (0x06AA3806#32, .shl 21 10 7),
      (0x06AA3807#32, .shr 21 10 7), (0x06AA3808#32, .sra 21 10 7), (0x06AA3809#32, .rol 21 10 7), (0x06AA380A#32, .min 21 10 7),
      (0x06AA380B#32, .max 21 10 7), (0x06AA380C#32, .minn 21 10 7), (0x06AA380D#32, .maxn 21 10 7), (0x06AA380E#32, .seq 21 10 7),
      (0x06AA380F#32, .sne 21 10 7), (0x06AA3810#32, .slt 21 10 7), (0x06AA3811#32, .sltn 21 10 7), (0x06AA0012#32, .clz 21 10),
      (0x06AA0013#32, .ctz 21 10), (0x06AA0014#32, .popc 21 10), (0x06AA3818#32, .mul 21 10 7), (0x06AA3819#32, .mulh 21 10 7),
      (0x06AA381A#32, .mulhn 21 10 7), (0x06AA381B#32, .div 21 10 7), (0x06AA381C#32, .divn 21 10 7), (0x06AA381D#32, .rem 21 10 7),
      (0x06AA381E#32, .remn 21 10 7), (0x06AA0020#32, .jalr 21 10), (0x04000021#32, .pause), (0x06AA0066#32, .shli 21 10 38),
      (0x06AA00A6#32, .shri 21 10 38), (0x06AA00E6#32, .srai 21 10 38)],
    decode p.1 = .ok p.2 ∧ encode p.2 = p.1 := by decide

theorem test_decode_02 : ∀ p ∈ [(0x0AAAC35A#32, Instr.addi 21 10 0xc35a)],
    decode p.1 = .ok p.2 ∧ encode p.2 = p.1 := by decide

theorem test_decode_03 : ∀ p ∈ [(0x0EAAC35A#32, Instr.andi 21 10 0xc35a)],
    decode p.1 = .ok p.2 ∧ encode p.2 = p.1 := by decide

theorem test_decode_04 : ∀ p ∈ [(0x12AAC35A#32, Instr.ori 21 10 0xc35a)],
    decode p.1 = .ok p.2 ∧ encode p.2 = p.1 := by decide

theorem test_decode_05 : ∀ p ∈ [(0x16AAC35A#32, Instr.xori 21 10 0xc35a)],
    decode p.1 = .ok p.2 ∧ encode p.2 = p.1 := by decide

theorem test_decode_06 : ∀ p ∈ [(0x1AAAC35A#32, Instr.slti 21 10 0xc35a)],
    decode p.1 = .ok p.2 ∧ encode p.2 = p.1 := by decide

theorem test_decode_07 : ∀ p ∈ [(0x1EA0C35A#32, Instr.lui 21 0xc35a), (0x1EA1C35A#32, .addpc 21 0xc35a),
      (0x1EA2C35A#32, .loopi 21 0xc35a)],
    decode p.1 = .ok p.2 ∧ encode p.2 = p.1 := by decide

theorem test_decode_08 : ∀ p ∈ [(0x2147C35A#32, Instr.beq 10 7 0xc35a)],
    decode p.1 = .ok p.2 ∧ encode p.2 = p.1 := by decide

theorem test_decode_09 : ∀ p ∈ [(0x2547C35A#32, Instr.bne 10 7 0xc35a)],
    decode p.1 = .ok p.2 ∧ encode p.2 = p.1 := by decide

theorem test_decode_0A : ∀ p ∈ [(0x2947C35A#32, Instr.blt 10 7 0xc35a)],
    decode p.1 = .ok p.2 ∧ encode p.2 = p.1 := by decide

theorem test_decode_0B : ∀ p ∈ [(0x2D47C35A#32, Instr.bge 10 7 0xc35a)],
    decode p.1 = .ok p.2 ∧ encode p.2 = p.1 := by decide

theorem test_decode_0C : ∀ p ∈ [(0x3147C35A#32, Instr.bltn 10 7 0xc35a)],
    decode p.1 = .ok p.2 ∧ encode p.2 = p.1 := by decide

theorem test_decode_0D : ∀ p ∈ [(0x3547C35A#32, Instr.bgen 10 7 0xc35a)],
    decode p.1 = .ok p.2 ∧ encode p.2 = p.1 := by decide

theorem test_decode_0E : ∀ p ∈ [(0x3AD5A5C3#32, Instr.j 0x2d5a5c3)],
    decode p.1 = .ok p.2 ∧ encode p.2 = p.1 := by decide

theorem test_decode_0F : ∀ p ∈ [(0x3ED5A5C3#32, Instr.jal 0x2d5a5c3)],
    decode p.1 = .ok p.2 ∧ encode p.2 = p.1 := by decide

theorem test_decode_10 : ∀ p ∈ [(0x42AA0A53#32, Instr.ldB 21 10 0xa53), (0x42AA1A53#32, .ldH 21 10 0xa53),
      (0x42AA2A53#32, .ldW 21 10 0xa53), (0x42AA3A53#32, .ldD 21 10 0xa53), (0x42AA4A53#32, .ldBn 21 10 0xa53),
      (0x42AA5A53#32, .ldHn 21 10 0xa53), (0x42AA6A53#32, .ldWn 21 10 0xa53)],
    decode p.1 = .ok p.2 ∧ encode p.2 = p.1 := by decide

theorem test_decode_11 : ∀ p ∈ [(0x46AA0A53#32, Instr.stB 21 10 0xa53), (0x46AA1A53#32, .stH 21 10 0xa53),
      (0x46AA2A53#32, .stW 21 10 0xa53), (0x46AA3A53#32, .stD 21 10 0xa53)],
    decode p.1 = .ok p.2 ∧ encode p.2 = p.1 := by decide

theorem test_decode_12 : ∀ p ∈ [(0x4AAA0A53#32, Instr.ldsB 21 10 0xa53), (0x4AAA1A53#32, .ldsH 21 10 0xa53),
      (0x4AAA2A53#32, .ldsW 21 10 0xa53), (0x4AAA3A53#32, .ldsD 21 10 0xa53), (0x4AAA4A53#32, .ldsBn 21 10 0xa53),
      (0x4AAA5A53#32, .ldsHn 21 10 0xa53), (0x4AAA6A53#32, .ldsWn 21 10 0xa53)],
    decode p.1 = .ok p.2 ∧ encode p.2 = p.1 := by decide

theorem test_decode_13 : ∀ p ∈ [(0x4EAA0A53#32, Instr.stsB 21 10 0xa53), (0x4EAA1A53#32, .stsH 21 10 0xa53),
      (0x4EAA2A53#32, .stsW 21 10 0xa53), (0x4EAA3A53#32, .stsD 21 10 0xa53)],
    decode p.1 = .ok p.2 ∧ encode p.2 = p.1 := by decide

theorem test_decode_14 : ∀ p ∈ [(0x504AC35A#32, Instr.pref 2 10 0xc35a)],
    decode p.1 = .ok p.2 ∧ encode p.2 = p.1 := by decide

theorem test_decode_15 : ∀ p ∈ [(0x56AA0000#32, Instr.tlook 21 10), (0x56AA3801#32, .tins 21 10 7), (0x56AA0002#32, .tinv 21 10)],
    decode p.1 = .ok p.2 ∧ encode p.2 = p.1 := by decide

theorem test_decode_18 : ∀ p ∈ [(0x61C00000#32, Instr.ord 3 2)],
    decode p.1 = .ok p.2 ∧ encode p.2 = p.1 := by decide

theorem test_decode_19 : ∀ p ∈ [(0x66AA3820#32, Instr.amoAdd 21 10 7 1), (0x66AA3821#32, .amoAnd 21 10 7 1),
      (0x66AA3822#32, .amoOr 21 10 7 1), (0x66AA3823#32, .amoXor 21 10 7 1), (0x66AA3824#32, .amoMin 21 10 7 1),
      (0x66AA3825#32, .amoMax 21 10 7 1), (0x66AA3826#32, .amoMinn 21 10 7 1), (0x66AA3827#32, .amoMaxn 21 10 7 1),
      (0x66AA3828#32, .amoSwp 21 10 7 1), (0x66AA3809#32, .amoFadd 21 10 7)],
    decode p.1 = .ok p.2 ∧ encode p.2 = p.1 := by decide

theorem test_decode_1A : ∀ p ∈ [(0x6AAA3800#32, Instr.casW 21 10 7), (0x6AAA3801#32, .casD 21 10 7), (0x6AAA3802#32, .woclr 21 10 7),
      (0x6AAA0003#32, .wotest 21 10)],
    decode p.1 = .ok p.2 ∧ encode p.2 = p.1 := by decide

theorem test_decode_1B : ∀ p ∈ [(0x6DC00000#32, Instr.fence 3 2)],
    decode p.1 = .ok p.2 ∧ encode p.2 = p.1 := by decide

theorem test_decode_1C : ∀ p ∈ [(0x72AA0000#32, Instr.cfgld 21 10), (0x70000001#32, .cfggo), (0x70000021#32, .cfggoS),
      (0x72A00002#32, .cfgwaitLd 21), (0x72A00022#32, .cfgwaitGo 21), (0x72A00003#32, .cfgsigA 21), (0x72A00023#32, .cfgsigSh 21),
      (0x72AA0004#32, .cfgsave 21 10), (0x72AA0005#32, .cfgrest 21 10)],
    decode p.1 = .ok p.2 ∧ encode p.2 = p.1 := by decide

theorem test_decode_1D : ∀ p ∈ [(0x76AA04C0#32, Instr.strm 21 10 38), (0x740A3CC1#32, .pws 10 7 38), (0x740A3CC2#32, .pwv 10 7 38),
      (0x76AA04C3#32, .prd 21 10 38), (0x740A04C4#32, .mki 10 38), (0x76A00005#32, .drain 21), (0x76A03CC6#32, .pstat 21 7 38)],
    decode p.1 = .ok p.2 ∧ encode p.2 = p.1 := by decide

theorem test_decode_1E : ∀ p ∈ [(0x78000260#32, Instr.accz 19), (0x7AAA0261#32, .accrd 21 10 19), (0x7AAA0002#32, .bktokTake 21 10),
      (0x7AAA0022#32, .bktokGive 21 10), (0x7AAA0042#32, .bktokQuery 21 10)],
    decode p.1 = .ok p.2 ∧ encode p.2 = p.1 := by decide

theorem test_decode_22 : ∀ p ∈ [(0x8AAA04C0#32, Instr.mtok 21 10 38), (0x8AAA3801#32, .mbld 21 10 7), (0x8AA000A2#32, .mstat 21 5),
      (0x88000123#32, .mwait 9)],
    decode p.1 = .ok p.2 ∧ encode p.2 = p.1 := by decide

theorem test_decode_24 : ∀ p ∈ [(0x92AA0040#32, Instr.rload 21 10 2), (0x92AA0041#32, .rsel 21 10 2), (0x92A00042#32, .rstat 21 2),
      (0x92A00123#32, .rfree 21 9)],
    decode p.1 = .ok p.2 ∧ encode p.2 = p.1 := by decide

theorem test_decode_26 : ∀ p ∈ [(0x9AAA04C0#32, Instr.cparm 21 10 38), (0x9AAA3801#32, .cpfire 21 10 7),
      (0x9AAA04C2#32, .cpstat 21 10 38), (0x9AA004C3#32, .cpres 21 38), (0x9AA004C4#32, .cpkill 21 38)],
    decode p.1 = .ok p.2 ∧ encode p.2 = p.1 := by decide

theorem test_decode_27 : ∀ p ∈ [(0x9EAA3840#32, Instr.tbinit 21 10 7 2), (0x9EAA3841#32, .tbarr 21 10 7 2),
      (0x9EAA3842#32, .tbexp 21 10 7 2), (0x9EAA3843#32, .tbwait 21 10 7 2), (0x9EAA0044#32, .tbtest 21 10 2)],
    decode p.1 = .ok p.2 ∧ encode p.2 = p.1 := by decide

theorem test_decode_29 : ∀ p ∈ [(0xA6AA0120#32, Instr.slbind 21 10 9), (0xA6AA0121#32, .slstat 21 10 9), (0xA6A00122#32, .slrel 21 9),
      (0xA6AA0003#32, .warpset 21 10)],
    decode p.1 = .ok p.2 ∧ encode p.2 = p.1 := by decide

theorem test_decode_2A : ∀ p ∈ [(0xAAAA0120#32, Instr.spbind 21 10 9), (0xAAAA0121#32, .sphdr 21 10 9), (0xAAAA0122#32, .spstat 21 10 9)],
    decode p.1 = .ok p.2 ∧ encode p.2 = p.1 := by decide

theorem test_decode_2C : ∀ p ∈ [(0xB2AA0040#32, Instr.wpush 21 10 2), (0xB2AA0041#32, .wpop 21 10 2), (0xB2AA0042#32, .wtry 21 10 2),
      (0xB2A03883#32, .wdone 21 7 2), (0xB2A038A3#32, .wdoneF 21 7 2), (0xB2AA3804#32, .wpromo 21 10 7), (0xB2A00005#32, .wfloor 21),
      (0xB2A00025#32, .wfloorR 21), (0xB2AA0006#32, .wdomJoin 21 10), (0xB2A00026#32, .wdomLeave 21), (0xB2A00046#32, .wdomQuery 21),
      (0xB2AA0007#32, .wstat 21 10), (0xB2A00048#32, .wdrain 21 2)],
    decode p.1 = .ok p.2 ∧ encode p.2 = p.1 := by decide

theorem test_decode_2F : ∀ p ∈ [(0xBEAA0000#32, Instr.gjoin 21 10), (0xBEA00001#32, .gleave 21), (0xBEA00042#32, .gbar 21 2),
      (0xBEA00003#32, .gsize 21), (0xBEA00004#32, .segend 21), (0xBEAA0005#32, .park 21 10), (0xBEA00046#32, .ctract 21 2)],
    decode p.1 = .ok p.2 ∧ encode p.2 = p.1 := by decide

theorem test_decode_3D : ∀ p ∈ [(0xF40A0000#32, Instr.trap 10), (0xF6AA0001#32, .sysc 21 10), (0xF4000002#32, .halt),
      (0xF4000010#32, .eret), (0xF40A3811#32, .invr 10 7), (0xF40A0012#32, .inva 10)],
    decode p.1 = .ok p.2 ∧ encode p.2 = p.1 := by decide

theorem test_decode_3E : ∀ p ∈ [(0xFAA00042#32, Instr.csrr 21 0x42), (0xFAAA1042#32, .csrw 21 10 0x42),
      (0xFAAA2042#32, .csrs 21 10 0x42), (0xFAAA3042#32, .csrc 21 10 0x42)],
    decode p.1 = .ok p.2 ∧ encode p.2 = p.1 := by decide

/-- Field a of WDOM unit 2 is an operand that is not read (R43, R318). -/
theorem test_decode_wdom_a : decode 0xB2AA0046#32 = .ok (.wdomQuery 21) := by decide

/-! ### Witnesses -/

/-- A context with the general registers 1 to 4 at the values given, at address 0x1000. -/
def cx (g1 : W64 := 0) (g2 : W64 := 0) (g3 : W64 := 0) (g4 : W64 := 0) : Ctx :=
  { (((({} : Ctx).w 1 g1).w 2 g2).w 3 g3).w 4 g4 with pc := 0x1000 }

/-- A region of one tile, tile 0, with a save area and no contract. -/
def rg : Region :=
  { st := .running, queue := 0, tag := 0, lprio := 0, qprio := 0, ordn := 0, asid := 5, dies := 1, image := 0, lp := 0, recVa := 0,
    saveVa := 0, live := 0, w := 1, h := 1 }

/-- The machine in which the context of tile 0, of region 1, is on turn. -/
def st (c : Ctx) (tl : Tile := {}) : State :=
  { State.reset with ctxs := [(0, c)], tiles := [(0, { tl with region := 1 })], regions := [(1, rg)] }

/-- The word `i` runs in `st c tl`, and the condition holds. -/
def wit (i : Instr) (c : Ctx) (tl : Tile) (p : State → Ctx → Prop) : Prop := Runs (st c tl) i c ∧ p (st c tl) c

/-- The context of `st c tl` is on turn. -/
theorem runs_st (c : Ctx) (tl : Tile) (i : Instr) : Runs (st c tl) i c ↔ (c.halted || !ordOk c.ord i || !c.allows i) = false := by
  simp [Runs, State.curCtx, State.ctxAt, st, SMap.get?, State.reset, and_assoc]

theorem wit_st (i : Instr) (c : Ctx) (tl : Tile) (p : State → Ctx → Prop) :
    wit i c tl p ↔ (c.halted || !ordOk c.ord i || !c.allows i) = false ∧ p (st c tl) c := and_congr_left' (runs_st c tl i)

/-- The words that only write a register run in every state of these witnesses. -/
theorem wit_ScalarResults : ∀ i ∈ [Instr.add 3 1 2, .sub 3 1 2, .and 3 1 2, .or 3 1 2, .xor 3 1 2, .andn 3 1 2, .shl 3 1 2, .shr 3 1 2, .sra 3 1 2,
    .rol 3 1 2, .min 3 1 2, .max 3 1 2, .minn 3 1 2, .maxn 3 1 2, .seq 3 1 2, .sne 3 1 2, .slt 3 1 2, .sltn 3 1 2, .clz 3 1, .ctz 3 1,
    .popc 3 1, .mul 3 1 2, .mulh 3 1 2, .mulhn 3 1 2, .shli 3 1 63, .shri 3 1 63, .srai 3 1 63, .add 0 1 2],
    Runs (st (cx 7 9)) i (cx 7 9) := by simp only [runs_st]; decide

theorem wit_DivideFamily : ∀ c ∈ [cx 7 0, cx 0x8000000000000000 0xFFFFFFFFFFFFFFFF, cx 0xFFFFFFFFFFFFFFF9 2],
    ∀ i ∈ [Instr.div 3 1 2, .rem 3 1 2, .divn 3 1 2, .remn 3 1 2, .div 0 1 2], Runs (st c) i c := by simp only [runs_st]; decide

theorem wit_ImmediateResults : ∀ i ∈ [Instr.addi 3 1 0x8000, .andi 3 1 0x8000, .ori 3 1 0x8000, .xori 3 1 0x8000, .slti 3 1 0x8000,
    .lui 3 0x8000, .addpc 3 0x8000, .addi 0 1 1], Runs (st (cx 7 9)) i (cx 7 9) := by simp only [runs_st]; decide

theorem wit_BranchesAndJumps :
    (∀ i ∈ [Instr.beq 1 2 4, .bne 1 2 4, .blt 1 2 4, .bge 1 2 4, .bltn 1 2 4, .bgen 1 2 4, .j 4, .jal 4, .jalr 31 1],
      ∀ c ∈ [cx 8 8, cx 8 0xFFFFFFFFFFFFFFFC, cx 0xFFFFFFFFFFFFFFFC 8], Runs (st c) i c)
    ∧ (cx 8 8).r 1 = (cx 8 8).r 2 ∧ ((cx 0xFFFFFFFFFFFFFFFC 8).r 1).toInt < ((cx 0xFFFFFFFFFFFFFFFC 8).r 2).toInt
    ∧ ((cx 8 0xFFFFFFFFFFFFFFFC).r 1).toNat < ((cx 8 0xFFFFFFFFFFFFFFFC).r 2).toNat
    ∧ ((cx 8 8).r 1).toNat % 4 = 0 ∧ wit (.jalr 31 1) (cx 7 0) {} (fun _ c => (c.r 1).toNat % 4 ≠ 0) := by simp only [wit_st, Runs]; decide

/-- A context inside a hardware loop: the outer of two levels of the stack if `n` is 1, both if it is 2. -/
def cxLoop (n : BitVec 2) (last cnt : Nat) : Ctx :=
  { cx 3 0x100000000 with ldep := n, l0 := ⟨BitVec.ofNat 32 cnt, 0x0FF0, BitVec.ofNat 64 last⟩, l1 := ⟨1, 0x0FF8, 0x1000⟩ }

theorem wit_HardwareLoops :
    wit (.loopi 3 2) (cx 3 4) {} (fun _ c => c.r 3 = 0)
    ∧ wit (.loopi 1 2) (cx 3 4) {} (fun _ c => c.r 1 ≠ 0 ∧ (c.r 1).toNat < 2 ^ 32 ∧ c.stack = [])
    ∧ wit (.loopi 1 2) (cxLoop 1 0x1008 5) {} (fun _ c => c.r 1 ≠ 0 ∧ (c.r 1).toNat < 2 ^ 32 ∧ c.stack.length = 1 ∧ (c.pc + 8).toNat ≤ 0x1008)
    ∧ wit (.loopi 2 2) (cx 3 0x100000000) {} (fun _ c => 2 ^ 32 ≤ (c.r 2).toNat)
    ∧ wit (.loopi 1 2) (cxLoop 2 0x1008 5) {} (fun _ c => c.r 1 ≠ 0 ∧ (c.r 1).toNat < 2 ^ 32 ∧ 2 ≤ c.stack.length)
    ∧ wit (.loopi 1 2) (cxLoop 1 0x1004 5) {} (fun _ c => c.r 1 ≠ 0 ∧ (c.r 1).toNat < 2 ^ 32 ∧ c.stack.length = 1 ∧ ¬ (c.pc + 8).toNat ≤ 0x1004)
    ∧ ((cxLoop 1 0x1000 2).ldep = 1 ∧ (cxLoop 1 0x1000 2).l0.last = (cxLoop 1 0x1000 2).pc ∧ 1 < (cxLoop 1 0x1000 2).l0.cnt.toNat)
    ∧ (cxLoop 1 0x1000 1).l0.cnt.toNat ≤ 1
    ∧ ((cxLoop 2 0x1000 2).ldep = 2 ∧ (cxLoop 2 0x1000 2).l1.last = (cxLoop 2 0x1000 2).pc ∧ (cxLoop 2 0x1000 2).l1.cnt.toNat ≤ 1) := by
  simp only [wit_st]; decide

/-- A monitor-level context with its loop stack. -/
def cxMon (l : List LoopEnt) : Ctx := { cx 3 4 with lvl := true, mloop := l }

theorem wit_HardwareLoops_monitor :
    (cxMon [⟨2, 0x0FF0, 0x1004⟩]).stack = [⟨2, 0x0FF0, 0x1004⟩] ∧ (0x1004 : W64) ≠ (cxMon []).pc
    ∧ (cxMon [⟨2, 0x0FF0, 0x1000⟩]).stack = [⟨2, 0x0FF0, 0x1000⟩] ∧ (0x1000 : W64) = (cxMon []).pc ∧ (cxMon []).stack = []
    ∧ (cxMon [⟨1, 0x0FF0, 0x1000⟩, ⟨2, 0x0FF0, 0x1008⟩]).stack = [⟨1, 0x0FF0, 0x1000⟩, ⟨2, 0x0FF0, 0x1008⟩] := by decide

theorem wit_CsrAccess :
    (∀ i ∈ [Instr.csrw 3 1 0x020, .csrs 3 1 0x020, .csrc 3 1 0x020], wit i (cxMon []) {} (fun _ c => csrWritable c.lvl 0x020 = true))
    ∧ wit (.csrr 3 0x000) (cx 2) {} (fun _ c => csrReadable c.lvl 0x000 = true)
    ∧ wit (.csrr 3 0x044) (cxMon []) {} (fun _ c => csrReadable c.lvl 0x044 = true)
    ∧ wit (.csrr 3 0x040) (cx 2) {} (fun _ c => csrReadable c.lvl 0x040 = false)
    ∧ (∀ i ∈ [Instr.csrw 3 1 0x000, .csrs 3 1 0x000, .csrc 3 1 0x000], wit i (cx 2) {} (fun _ c => csrWritable c.lvl 0x000 = false)) := by
  simp only [wit_st]; decide

theorem wit_RegisterWordFrame : Writes (.addi 3 1 5) 3 (fun c => c.r 1 + (5 : BitVec 16).signExtend 64) ∧ Runs (st (cx 7)) (.addi 3 1 5) (cx 7) :=
  ⟨fun s c h _ => runWord_runs h _, by simp only [runs_st]; decide⟩

/-- Pages of 64 kB at 0x10000. -/
def pg (k : PageKind) (w r : Bool) : TlbEnt :=
  { asid := 0, va := 0x10000, size := 0x10000, pa := 0x20000, kind := k, cow := false, x := true, w := w, r := r }

/-- A tile that holds one translation. -/
def tlPg (e : TlbEnt) : Tile := { tlb := [e] }

/-- The address 0x10008 in register 1. -/
def cxMem : Ctx := cx 0x10008 5 6

/-- The context behind an ORD of an order. -/
def under (o : BitVec 3) (c : Ctx) : Ctx := { c with ord := some (o, 1) }

theorem fresh_idle (c : Ctx) (h : c.wait = .idle) : Fresh c := fun id => by rw [h]; exact Wait.noConfusion

theorem wit_LoadsIssue :
    (∀ p ∈ [(Instr.ldB 3 1 0xFF8, 1, PageKind.normal), (.ldH 3 1 0, 2, .device), (.ldW 3 1 4, 4, .writeOnce), (.ldD 3 1 0xFF8, 8, .normal),
        (.ldBn 3 1 0, 1, .normal), (.ldHn 3 1 0, 2, .normal), (.ldWn 3 1 0, 4, .normal), (.ldD 0 1 0xFF8, 8, .normal)],
      ∀ c ∈ [cxMem, under 1 cxMem, under 4 cxMem], ∀ o ∈ [0, 0xFF8],
        wit p.1 c (tlPg (pg p.2.2 true true)) fun s c => checkAccess s s.cur.toNat c.asid (c.r 1 + (BitVec.ofNat 12 o).signExtend 64) p.2.1 .load false = .ok (pg p.2.2 true true)
          ∧ (c.order = 4 → MayRelease s c) ∧ s.loadsOut s.cur.toNat < 16)
    ∧ wit (.ldD 3 1 0) { cxMem with wait := .access 7 } {} (fun s c => c.wait = .access 7 ∧ ∀ q ∈ s.reqs, q.id ≠ 7) := by
  simp only [wit_st, MayRelease]; decide +kernel

theorem wit_LoadsIssue_fresh : Fresh cxMem ∧ Fresh (under 1 cxMem) ∧ Fresh (under 4 cxMem) := ⟨fresh_idle _ rfl, fresh_idle _ rfl, fresh_idle _ rfl⟩

theorem wit_StoresIssue :
    (∀ p ∈ [(Instr.stB 3 1 0xFF8, 1, PageKind.normal), (.stH 3 1 0, 2, .device), (.stW 3 1 4, 4, .normal), (.stD 3 1 0xFF8, 8, .writeOnce)],
      ∀ c ∈ [cxMem, under 2 cxMem, under 4 cxMem], ∀ o ∈ [0, 0xFF8],
        wit p.1 c (tlPg (pg p.2.2 true true)) fun s c =>
          checkAccess s s.cur.toNat c.asid (c.r 1 + (BitVec.ofNat 12 o).signExtend 64) p.2.1 .store (p.2.1 = 8) = .ok (pg p.2.2 true true)
          ∧ (c.order = 2 ∨ c.order = 3 ∨ c.order = 4 → MayRelease s c) ∧ s.storesOut s.cur.toNat < 32)
    ∧ wit (.stD 3 1 0) { cxMem with wait := .access 7 } {} (fun s c => c.wait = .access 7 ∧ ∀ q ∈ s.reqs, q.id ≠ 7) := by
  simp only [wit_st, MayRelease]; decide +kernel

/-- A configuration whose SE at site 1 is a lookup table that claims its bank 0. -/
def planeLut : Plane :=
  { addr := 0, asid := 0, sig := 0, mask := 0, ves := [], ses := [(1, { word := 0x42000001, pre := [] })], links := [], vps := [], rings := [], cuts := [] }

theorem wit_LocalSpace :
    (∀ p ∈ [(Instr.ldsB 3 1 0, 1), (.ldsH 3 1 0, 2), (.ldsW 3 1 0, 4), (.ldsD 3 1 0, 8), (.ldsBn 3 1 0, 1), (.ldsHn 3 1 0, 2), (.ldsWn 3 1 0, 4),
        (.stsB 3 1 0, 1), (.stsH 3 1 0, 2), (.stsW 3 1 0, 4), (.stsD 3 1 0, 8)],
      (∀ x ∈ [0x8, 0xFFFF8], wit p.1 (cx (BitVec.ofNat 64 x)) {} fun s c => (c.r 1).toNat % p.2 = 0 ∧ (c.r 1).toNat < 2 ^ 20 ∧ ∀ k < p.2, (s.tile 0).seAvailable ((c.r 1).toNat + k) = true)
      ∧ wit p.1 (cx 0x100000) {} fun _ c => (c.r 1).toNat % p.2 = 0 ∧ 2 ^ 20 ≤ (c.r 1).toNat)
    ∧ (∀ p ∈ [(Instr.ldsH 3 1 0, 2), (.ldsW 3 1 0, 4), (.ldsD 3 1 0, 8), (.stsD 3 1 0, 8)], wit p.1 (cx 0x9) {} fun _ c => (c.r 1).toNat % p.2 ≠ 0)
    ∧ (∀ p ∈ [(Instr.ldsH 3 1 0, 2), (.stsD 3 1 0, 8)], wit p.1 (cx 0x8) { p0 := some planeLut } fun s c =>
        (c.r 1).toNat % p.2 = 0 ∧ (c.r 1).toNat < 2 ^ 20 ∧ ¬ ∀ k < p.2, (s.tile 0).seAvailable ((c.r 1).toNat + k) = true) := by
  simp only [wit_st]; decide +kernel

/-- The accesses of the words whose address is in register 1, with their alignment. -/
def accesses : List (Instr × Nat) :=
  [(.ldB 3 1 0, 1), (.ldH 3 1 0, 2), (.ldW 3 1 0, 4), (.ldD 3 1 0, 8), (.ldBn 3 1 0, 1), (.ldHn 3 1 0, 2), (.ldWn 3 1 0, 4), (.stB 3 1 0, 1),
   (.stH 3 1 0, 2), (.stW 3 1 0, 4), (.stD 3 1 0, 8), (.amoAdd 3 1 2 0, 4), (.amoAnd 3 1 2 1, 8), (.amoOr 3 1 2 0, 4), (.amoXor 3 1 2 1, 8),
   (.amoMin 3 1 2 0, 4), (.amoMax 3 1 2 1, 8), (.amoMinn 3 1 2 0, 4), (.amoMaxn 3 1 2 1, 8), (.amoSwp 3 1 2 1, 8), (.amoFadd 3 1 2, 4),
   (.casW 3 1 2, 4), (.casD 3 1 2, 8)]

theorem wit_AccessTraps :
    (∀ p ∈ accesses, (wit p.1 (cx 0x10009) {} fun _ c => p.2 ≠ 1 → (c.r 1).toNat % p.2 ≠ 0)
      ∧ (wit p.1 (cx 0x200000000000000) {} fun _ c => (c.r 1).toNat % p.2 = 0 ∧ 2 ^ 57 ≤ (c.r 1).toNat)
      ∧ wit p.1 (cx 0x10008) (tlPg (pg .normal false false)) fun s c => (c.r 1).toNat % p.2 = 0 ∧ (c.r 1).toNat < 2 ^ 57
          ∧ tlbFind (s.tlbOf s.cur.toNat) c.asid (c.r 1) = some (pg .normal false false))
    ∧ Fresh (cx 0x10009) ∧ Fresh (cx 0x200000000000000) ∧ Fresh (cx 0x10008) := by
  refine ⟨?_, fresh_idle _ rfl, fresh_idle _ rfl, fresh_idle _ rfl⟩
  simp only [wit_st]; decide +kernel

/-- A context whose tag table holds the line of 0x10040 in way 2. -/
def cxTag : Ctx := { cx 0x10040 0xC005 with tags := [(6, 0x8000000000040005)] }

theorem wit_PrefetchAndTags :
    wit (.pref 2 1 0) (cx 0xFFFFFFFFFFFFFFFF) {} (fun _ _ => True)
    ∧ wit (.tlook 3 1) cxTag {} (fun _ c => c.tagHit (c.r 1) = some 2) ∧ wit (.tlook 3 1) (cx 0x10040) {} (fun _ c => c.tagHit (c.r 1) = none)
    ∧ wit (.tins 3 1 2) cxTag {} (fun _ c => c.tagHit (c.r 1) = some 2 ∧ 2 ≠ (c.r 2).toNat / 2 ^ 14 % 4)
    ∧ wit (.tins 3 1 1) cxTag {} (fun _ c => c.tagHit (c.r 1) = some 2 ∧ 2 ≠ (c.r 1).toNat / 2 ^ 14 % 4)
    ∧ wit (.tins 3 1 3) (cxTag.w 3 0x8005) {} (fun _ c => c.tagHit (c.r 1) = some 2 ∧ 2 = (c.r 3).toNat / 2 ^ 14 % 4)
    ∧ wit (.tins 3 1 2) (cx 0x10040 5) {} (fun _ c => c.tagHit (c.r 1) = none)
    ∧ wit (.tinv 3 1) cxTag {} (fun _ c => c.tagHit (c.r 1) = some 2) ∧ wit (.tinv 3 1) (cx 0x10040) {} (fun _ c => c.tagHit (c.r 1) = none) := by
  simp only [wit_st]; decide +kernel

theorem wit_AtomicsIssue :
    (∀ p ∈ [(Instr.amoAdd 3 1 2 0, 4), (.amoAnd 3 1 2 1, 8), (.amoOr 3 1 2 0, 4), (.amoXor 3 1 2 1, 8), (.amoMin 3 1 2 0, 4), (.amoMax 3 1 2 1, 8),
        (.amoMinn 3 1 2 0, 4), (.amoMaxn 3 1 2 1, 8), (.amoSwp 0 1 2 1, 8), (.amoFadd 3 1 2, 4), (.casW 3 1 2, 4), (.casD 3 1 2, 8)],
      ∀ c ∈ [cxMem, under 3 cxMem], wit p.1 c (tlPg (pg .normal true true)) fun s c =>
        checkAtomic s s.cur.toNat c.asid (c.r 1) p.2 true true = .ok (pg .normal true true)
        ∧ (c.order = 2 ∨ c.order = 3 ∨ c.order = 4 → MayRelease s c) ∧ s.loadsOut s.cur.toNat < 16)
    ∧ wit (.casD 3 1 2) { cxMem with wait := .access 7 } {} (fun s c => c.wait = .access 7 ∧ ∀ q ∈ s.reqs, q.id ≠ 7) := by
  simp only [wit_st, MayRelease]; decide +kernel

/-- A request of the context of tile 0. -/
def rq (op : HomeOp) (n : Nat) : Req :=
  { id := 7, agent := .ctx 0, op := op, pa := 0x20008, n := n, kind := .normal, dat := leBytes n 5, expect := 9, reg := some 3, signed := false,
    acked := false, va := 0x10008, asid := 0, st := .issued, failed := false, retried := false, bornAt := 0, ordered := 0 }

/-- The machine with that one request in flight. -/
def stRq (q : Req) : State := { st cxMem with reqs := [q], mem := [(0x20008, 9)] }

theorem wit_AtomicValues : ∀ op ∈ [HomeOp.add, .and, .or, .xor, .min, .max, .minn, .maxn, .swp, .fadd, .cas], ∀ n ∈ [4, 8],
    (stRq (rq op n)).req? 7 = some (rq op n) ∧ (rq op n).st = .issued ∧ (stRq (rq op n)).blocked (rq op n) = false ∧ (stRq (rq op n)).cut (rq op n) = false
    ∧ leNat (rq op n).dat < 2 ^ (8 * n) ∧ (stRq (rq op n)).mem.nat (rq op n).pa n = (rq op n).expect.toNat % 2 ^ (8 * n)
    ∧ (stRq { rq op n with expect := 8 }).mem.nat (rq op n).pa n ≠ ({ rq op n with expect := 8 } : Req).expect.toNat % 2 ^ (8 * n) := by decide +kernel

/-- A read and a write that their home may perform, of a normal page and of a write-once word that is absent or present. -/
theorem wit_HomeAccess :
    (∀ q ∈ [rq .read 8, rq .write 8, { rq .read 8 with kind := .writeOnce }, { rq .write 8 with kind := .writeOnce }],
      (stRq q).req? 7 = some q ∧ q.st = .issued ∧ (stRq q).blocked q = false ∧ (stRq q).channelStalled q = false ∧ (stRq q).cut q = false ∧ q.pa % 8 = 0 ∧ q.dat.length = q.n
      ∧ (stRq q).allPresent q.pa q.n = false ∧ (stRq q).present? q.pa = false ∧ (stRq q).deferredAt (homeTile q.pa) < 4096
      ∧ ({ stRq q with present := [0x4001] } : State).allPresent q.pa q.n = true ∧ ({ stRq q with present := [0x4001] } : State).present? q.pa = true) := by
  decide +kernel

/-- A read of a device register, and a write to a counter. -/
theorem wit_HomeAccess_device :
    (∀ q ∈ [{ rq .read 8 with kind := .device, pa := 0x3F000000000 }, { rq .write 8 with kind := .device, pa := 0x3F000000000 }, { rq .write 4 with kind := .device, pa := 0x30000000000 }],
      (stRq q).req? 7 = some q ∧ q.st = .issued ∧ (stRq q).blocked q = false ∧ (stRq q).channelStalled q = false ∧ (stRq q).cut q = false ∧ q.kind = .device
      ∧ (inDevice q.pa = true ∨ q.dat.length = q.n))
    ∧ (0x3F000000000 % 8 = 0 ∧ inDevice 0x3F000000000 = true ∧ isCounter ((0x3F000000000 - 0x3F000000000) / 8) = true ∧ 0x3F000000000 < 0x3F100000000) := by decide +kernel

/-- The write of a write-once word for which a read waits, deferred. -/
theorem wit_HomeAccess_deferred :
    (let q : Req := { rq .write 8 with kind := .writeOnce }; let r : Req := { rq .read 8 with kind := .writeOnce, id := 8, st := .deferred }
      let s : State := { stRq q with reqs := [q, r] }; s.req? 7 = some q ∧ s.req? 8 = some r ∧ s.blocked q = false ∧ s.channelStalled q = false ∧ s.cut q = false
      ∧ q.pa % 8 = 0 ∧ q.n = 8 ∧ q.dat.length = 8 ∧ s.present? q.pa = false ∧ r.id ≠ 7 ∧ r.st = .deferred ∧ ∀ w ∈ wordsOf r.pa r.n, w ∈ s.present ∨ w = q.pa / 8) := by
  decide +kernel

/-- A request of tile 0 to a peer, every port of the package being down. -/
def rqPeer (st : ReqSt) : Req := { rq .write 8 with pa := 0x80000000000000, st := st }
def stDown (q : Req) : State := { stRq q with hub := { (stRq q).hub with ports := (List.range 36).map fun p => (p, { down := true }) } }

theorem wit_HomeAccess_cut : ∀ x ∈ [ReqSt.issued, .performed], (stDown (rqPeer x)).cut (rqPeer x) = true ∧ (stDown (rqPeer x)).req? 7 = some (rqPeer x)
    ∧ (stDown (rqPeer x)).blocked (rqPeer x) = false ∧ (stDown (rqPeer x)).channelStalled (rqPeer x) = false ∧ (stDown (rqPeer x)).ctxAt 0 = some cxMem := by
  have h : ∀ k < 36, (SMap.getD (stDown (rqPeer .issued)).hub.ports k {}).down = true := by decide +kernel
  have c : ∀ x, (stDown (rqPeer x)).cut (rqPeer x) = true := fun x => by
    simp only [State.cut, State.peerDown, Bool.and_eq_true]
    exact ⟨rfl, rfl, h _ (Nat.mod_lt _ (by decide))⟩
  intro x hx
  exact ⟨c x, by revert x; decide +kernel⟩

/-- A read of a remote address, sent long ago. -/
def rqFar (again : Bool) : Req := { rq .read 8 with pa := 0x40000000000000, retried := again }

theorem wit_RequestAnswers :
    (∀ q ∈ [{ rq .add 8 with st := .performed }, { rq .read 4 with st := .performed, signed := true }], (stRq q).req? 7 = some q ∧ q.agent = .ctx 0
      ∧ (stRq q).ctxAt 0 = some cxMem ∧ q.op ≠ .write ∧ q.st = .performed ∧ q.reg = some 3)
    ∧ (let q : Req := { rq .write 8 with st := .performed }; (stRq q).req? 7 = some q ∧ q.op = .write ∧ q.acked = false)
    ∧ (let q : Req := { rq .write 8 with st := .performed, acked := true, failed := true }; let c : Ctx := { cxMem with wait := .access 7 }
      ({ st c with reqs := [q] } : State).req? 7 = some q ∧ ({ st c with reqs := [q] } : State).ctxAt 0 = some c ∧ q.acked = true ∧ c.wait = .access 7 ∧ q.failed = true)
    ∧ (∀ again ∈ [false, true], let s : State := { stRq (rqFar again) with cyc := [(0, 4096)] }
      s.req? 7 = some (rqFar again) ∧ isRemote (rqFar again).pa = true ∧ (rqFar again).lost = false ∧ (rqFar again).retried = again
      ∧ (rqFar again).bornAt.toNat + s.hub.br ≤ (s.cycles (islandOf 0)).toNat ∧ (rqFar again).op = .read)
    ∧ (let q : Req := { rqFar true with op := .write }; let s : State := { stRq q with cyc := [(0, 4096)] }
      s.req? 7 = some q ∧ isRemote q.pa = true ∧ q.lost = false ∧ q.retried = true ∧ q.bornAt.toNat + s.hub.br ≤ (s.cycles (islandOf 0)).toNat ∧ q.op = .write)
    ∧ (∀ q ∈ [{ rq .add 8 with st := .performed }, { rq .write 8 with st := .performed }], (stRq q).cut q = false) := by decide +kernel

theorem wit_OrderWords :
    wit (.ord 2 1) cxMem {} (fun _ c => ∀ e ∈ c.stack, e.last ≠ c.pc) ∧ wit (.ord 2 1) (cxLoop 1 0x1000 5) {} (fun _ c => ∃ e ∈ c.stack, e.last = c.pc)
    ∧ ((st (under 2 cxMem)).curCtx = some (under 2 cxMem) ∧ (under 2 cxMem).halted = false ∧ (under 2 cxMem).ord = some (2, 1))
    ∧ wit (.fence 3 1) cxMem {} (fun s _ => s.outstanding s.cur.toNat = false) ∧ wit (.fence 3 0) cxMem {} (fun _ _ => (0 : Nat) = 0)
    ∧ (∀ i ∈ [Instr.ldD 1 2 0, .add 1 2 3, .fence 1 1], (fieldsOf i).op ≠ 0 ∧ ordOk (some (2, 1)) i = false)
    ∧ (Runs (stRq (rq .read 8)) (.fence 3 1) cxMem ∧ (1 : BitVec 2) ≠ 0 ∧ (3 : BitVec 3) ≠ 1 ∧ (stRq (rq .read 8)).outstanding (stRq (rq .read 8)).cur.toNat = true)
    ∧ wit .pause cxMem {} (fun _ _ => True) := by
  unfold wit Runs; decide +kernel

theorem wit_WriteOnceWords :
    wit (.woclr 3 1 2) (cx 0x10004 8) {} (fun _ c => c.wait = .idle ∧ ((c.r 1).toNat % 8 ≠ 0 ∨ (c.r 2).toNat % 8 ≠ 0))
    ∧ wit (.woclr 3 1 2) (cx 0x10008 0x100008) {} (fun _ c => c.wait = .idle ∧ (c.r 1).toNat % 8 = 0 ∧ (c.r 2).toNat % 8 = 0 ∧ 2 ^ 20 < (c.r 2).toNat)
    ∧ wit (.woclr 3 1 2) (cx 0x10008 0) {} (fun _ c => c.wait = .idle ∧ (c.r 1).toNat % 8 = 0 ∧ c.r 2 = 0)
    ∧ (∀ x ∈ [(8, false), (0, true)], wit (.woclr 3 1 2) { cx 0x10008 8 with wait := .sectors 9 0x20008 8 1 x.1 x.2 } {} (fun _ c =>
        c.wait = .sectors 9 0x20008 8 1 x.1 x.2 ∧ (x.2 = true ∨ 8 ≤ x.1)))
    ∧ (∀ x ∈ [8, 0x1FF8], wit (.woclr 3 1 2) (cx 0x10008 (BitVec.ofNat 64 x)) (tlPg (pg .writeOnce true true)) (fun s c => c.wait = .idle ∧ (c.r 1).toNat % 8 = 0
        ∧ (c.r 2).toNat % 8 = 0 ∧ 0 < (c.r 2).toNat ∧ (c.r 2).toNat ≤ 2 ^ 20
        ∧ checkAccess s s.cur.toNat c.asid (c.r 1) 8 .store true = .ok (pg .writeOnce true true) ∧ (pg .writeOnce true true).kind = .writeOnce
        ∧ checkAccess s s.cur.toNat c.asid (c.r 1 + c.r 2 - 8) 8 .store true = .ok (pg .writeOnce true true) ∧ c.order = 0))
    ∧ (let c : Ctx := { cx 0x10008 0x100 with wait := .sectors 9 0x20008 0x100 1 0x38 false }; (st c).ctxAt 0 = some c ∧ 0x20008 % 8 = 0 ∧ 0x38 % 8 = 0 ∧ 0x100 % 8 = 0 ∧ 0x38 < 0x100
      ∧ (st c).reqs = [])
    ∧ wit (.wotest 3 1) cxMem (tlPg (pg .writeOnce true true)) (fun s c =>
        checkAccess s s.cur.toNat c.asid (c.r 1) 1 .load false = .ok (pg .writeOnce true true) ∧ s.loadsOut s.cur.toNat < 16)
    ∧ wit (.wotest 3 1) cxMem (tlPg (pg .normal true true)) (fun s c =>
        checkAccess s s.cur.toNat c.asid (c.r 1) 1 .load false = .ok (pg .normal true true) ∧ (pg .normal true true).kind ≠ .writeOnce)
    ∧ (let q : Req := rq .woTest 64; (stRq q).req? 7 = some q ∧ q.op = .woTest ∧ q.st = .issued ∧ (stRq q).blocked q = false ∧ (stRq q).channelStalled q = false) := by
  simp only [wit_st]; decide +kernel

/-- A walk of ASID 5 at a level, and the machine with it under way, the table at 0x20000 holding one entry. -/
def wk (level : Nat) (done : Option (Option TlbEnt)) : Walk :=
  { id := 7, tile := 0, asid := 5, va := 0x10000, level := level, table := 0x20000, done := done, stale := false, what := .load, quiet := false }
def stWk (w : Walk) (x : Wait) (a entry : Nat) : State := { st { cxMem with wait := x } with walks := [w], mem := Memory.putBytes [] a (leBytes 8 entry) }

theorem wit_WalkSteps :
    (∀ w ∈ [wk 5 none, wk 1 none, wk 0 none, wk 0 (some none), wk 0 (some (some (pg .normal true true)))],
      (stWk w (.walk 7) 0 0).walks.find? (fun w => w.id == 7) = some w ∧ (stWk w (.walk 7) 0 0).mapped w.asid w.va = none
      ∧ (stWk w (.walk 7) 0 0).walkerFor w = some 0)
    ∧ readPte 5 5 0x10000 (BitVec.ofNat 64 ((stWk (wk 5 none) .idle 0x20028 0x30001).mem.nat (0x20000 + 8 * 5) 8)) = .table 0x30000
    ∧ readPte 0 5 0x10000 (BitVec.ofNat 64 ((stWk (wk 0 none) .idle 0x20080 0).mem.nat (0x20000 + 8 * (0x10000 / 2 ^ (12 + 9 * 0) % 512)) 8)) = .invalid
    ∧ readPte 0 5 0x10000 (BitVec.ofNat 64 ((stWk (wk 0 none) .idle 0x20080 0x4001F).mem.nat (0x20000 + 8 * (0x10000 / 2 ^ (12 + 9 * 0) % 512)) 8))
        = .leaf ⟨5, 0x10000, 4096, 0x40000, .normal, false, true, true, true⟩
    ∧ (∀ x ∈ [Wait.walk 7, .fetch 7], (stWk (wk 0 (some none)) x 0 0).ctxAt 0 = some { cxMem with wait := x }) := by decide +kernel

/-- The walk of a fetch is refused, with an ORD before the word and without. -/
theorem wit_WalkSteps_fetch : ∀ o ∈ [none, some (2, 1)], let c : Ctx := { cxMem with ord := o, wait := .fetch 7 }; let w := wk 0 (some none)
    let s : State := { st c with walks := [w] }
    s.walks.find? (fun w => w.id == 7) = some w ∧ s.mapped w.asid w.va = none ∧ w.stale = false ∧ w.quiet = false ∧ s.ctxAt w.tile = some c ∧ c.ord = o := by
  decide +kernel

/-- The context at an address. -/
def cxAt (pc : W64) : Ctx := { cxMem with pc := pc }

theorem wit_FetchTraps :
    (let c := cxAt 0x200000000000000; (st c).ctxAt 0 = some c ∧ c.wait = .idle ∧ c.pc.toNat % 4 = 0 ∧ 2 ^ 57 ≤ c.pc.toNat)
    ∧ (let c := cxAt 0x10008; let e : TlbEnt := { pg .normal true true with x := false }
      c.pc.toNat % 4 = 0 ∧ c.pc.toNat < 2 ^ 57 ∧ tlbFind ((st c (tlPg e)).tlbOf 0) c.asid c.pc = some e ∧ e.x = false)
    ∧ (let c := cxAt 0x10008; (st c (tlPg (pg .normal true true))).fetch 0 c = .word 0)
    ∧ (let c : Ctx := { cxMem with pend := [⟨0x20, 5, 0⟩] }; c.lvl = false ∧ c.wait = .idle ∧ c.halted = false ∧ c.isRoot = false ∧ c.ord = none)
    ∧ (let c : Ctx := { cxMem with wait := .access 7, word := encode (.ldD 3 1 0) }; c.wait = .access 7 ∧ (∀ q ∈ (st c).reqs, q.id ≠ 7)
      ∧ decode c.word = .ok (.ldD 3 1 0) ∧ c.lvl = false)
    ∧ (let c : Ctx := { cxMem with wait := .redo }; (st c).ctxAt 0 = some c ∧ (st c).canIssue 0 c = true)
    ∧ (let c : Ctx := under 2 (cxAt 0x200000000000000); (st c).ctxAt 0 = some c ∧ c.halted = false ∧ c.isRoot = false ∧ c.lvl = false ∧ c.wait = .idle
      ∧ c.pc.toNat % 4 = 0 ∧ 2 ^ 57 ≤ c.pc.toNat ∧ c.ord = some (2, 1)) := by decide +kernel

/-- The address at which the context of tile 0 stands in the next state. -/
def outPc (o : Out) : Option W64 := match o with
  | .next t => (t.ctxAt 0).map fun c => c.pc
  | _ => none

/-- A word that waits and is run again: a CFGWAIT and a MWAIT. -/
theorem wit_FetchTraps_waits : ∀ i ∈ [Instr.cfgwaitLd 3, .mwait 0], (∃ u, waitRun i u ≠ .next u)
    ∧ (let c : Ctx := { cxMem with wait := .again, word := encode i }; (st c).ctxAt 0 = some c ∧ c.waits = true ∧ c.wait ≠ .redo ∧ (st c).canIssue 0 c = true
      ∧ decode c.word = .ok i) := by
  intro i hi
  refine ⟨⟨st cxMem, fun h => ?_⟩, by revert i; decide +kernel⟩
  have hc : outPc (waitRun i (st cxMem)) = outPc (.next (st cxMem)) := congrArg outPc h
  exact absurd hc (by clear h hc; revert i; decide +kernel)

theorem wit_FetchTraps_word : ∀ i, decode 0 ≠ .ok i := by
  have h : decode 0#32 = .error .reservedMajor := by decide
  intro i hi; cases h.symm.trans hi

/-- An image of 64 bytes that configures no site, with its signature. -/
def imgOf (sig : W64) : List Byte := leBytes 4 0x4B434647 ++ leBytes 4 64 ++ List.replicate 20 0 ++ leBytes 8 sig.toNat ++ List.replicate 28 0
def img : List Byte := imgOf (crc64 (imgOf 0))

/-- A tile that holds one normal page, and the machine with bytes at 0x10040, which is 0x20040 in memory. -/
def stMem (c : Ctx) (tl : Tile) (bs : List Byte) : State := { st c { tl with tlb := [pg .normal true true] } with mem := Memory.putBytes [] 0x20040 bs }

/-- A plane that configures nothing. -/
def pl0 : Plane := { addr := 0x10040, asid := 0, sig := 9, mask := 0, ves := [], ses := [], links := [], vps := [], rings := [], cuts := [] }

theorem wit_ConfigWords :
    wit (.cfgld 3 1) (cx 0x10020) {} (fun _ c => (c.r 1).toNat % 64 ≠ 0)
    ∧ (Runs (stMem (cx 0x10040) {} []) (.cfgld 3 1) (cx 0x10040) ∧ ((cx 0x10040).r 1).toNat % 64 = 0
      ∧ (stMem (cx 0x10040) {} []).ownRead 0 (cx 0x10040) 0x10040 64 = .ok (List.replicate 64 0) ∧ imgWord (List.replicate 64 0) 0 ≠ 0x4B434647)
    ∧ (let s := stMem (cx 0x10040) {} img; Runs s (.cfgld 3 1) (cx 0x10040) ∧ s.ownRead 0 (cx 0x10040) 0x10040 64 = .ok img ∧ imgWord img 0 = 0x4B434647
      ∧ imgWord img 1 = 64 ∧ imageStatus img (s.tile 0).busy (s.inRegionOf 0) 0 = (0, 0))
    ∧ (let s := stMem (cx 0x10040) {} (imgOf 1); s.ownRead 0 (cx 0x10040) 0x10040 64 = .ok (imgOf 1) ∧ imgWord (imgOf 1) 0 = 0x4B434647 ∧ imgWord (imgOf 1) 1 = 64
      ∧ (imageStatus (imgOf 1) (s.tile 0).busy (s.inRegionOf 0) 0).1 ≠ 0)
    ∧ (∀ i ∈ [Instr.cfggo, .cfggoS], wit i cxMem { p1 := some pl0 } (fun s _ => (s.tile 0).shadow ≠ none ∧ (s.tile 0).swapping = false)
        ∧ wit i cxMem {} (fun s _ => (s.tile 0).shadow = none) ∧ wit i cxMem { p1 := some pl0, swapping := true } (fun s _ => (s.tile 0).swapping = true))
    ∧ (∀ i ∈ [Instr.cfgwaitLd 3, .cfgwaitGo 3, .cfgsigA 3, .cfgsigSh 3], wit i cxMem {} (fun s _ => (s.tile 0).loading = none ∧ (s.tile 0).swapping = false)
        ∧ wit i cxMem { loading := some pl0, swapping := true } (fun s _ => (s.tile 0).loading ≠ none ∧ (s.tile 0).swapping = true)
        ∧ wit i { cxMem with wait := .again } { frozen := true } (fun s c => (s.tile 0).frozen = true ∧ c.wait = .again)) := by
  simp only [wit_st, Runs]; decide +kernel

/-- A save area at 0x10000 with room for 8192 bytes, empty, and with a saved tile that had no plane. -/
def stArea (saved : Bool) : State :=
  { st (cx 0x10000) { tlb := [pg .normal true true] } with
    mem := if saved then Memory.putBytes (Memory.putBytes [] 0x20000 (leBytes 16 (0x14B534156 + 8192 * 2 ^ 64))) 0x20020 (leBytes 8 1856)
      else Memory.putBytes [] 0x20008 (leBytes 8 8192) }

theorem wit_SaveAndRestore :
    (let s := stArea false; Runs s (.cfgsave 3 1) (cx 0x10000) ∧ s.outstanding 0 = false ∧ 0x10000 % 4096 = 0 ∧ s.regionOf 0 = some (1, rg)
      ∧ s.atBoundary 1 rg = true ∧ s.ownRead 0 (cx 0x10000) 0x10000 32 = .ok (s.mem.bytes 0x20000 32) ∧ (imgDouble (s.mem.bytes 0x20000 32) 8).toNat = 8192
      ∧ (saveBytes (s.tile 0) 8192 0).length ≤ 8192)
    ∧ (let s := stArea true; Runs s (.cfgrest 3 1) (cx 0x10000) ∧ s.atBoundary 1 rg = true
      ∧ s.ownRead 0 (cx 0x10000) 0x10000 128 = .ok (s.mem.bytes 0x20000 128) ∧ saveLegal (s.mem.bytes 0x20000 128) = true
      ∧ (imgDouble (s.mem.bytes 0x20000 128) 32).toNat = 1856 ∧ s.ownRead 0 (cx 0x10000) 0x10000 1856 = .ok (s.mem.bytes 0x20000 1856)
      ∧ imgDouble (s.mem.bytes 0x20000 1856) 40 = 0 ∧ imgDouble (s.mem.bytes 0x20000 1856) 48 = 0 ∧ imgDouble (s.mem.bytes 0x20000 1856) 56 = 0
      ∧ imgDouble (s.mem.bytes 0x20000 1856) 64 = 0)
    ∧ (∀ i ∈ [Instr.cfgsave 3 1, .cfgrest 3 1], wit i (cx 0x10800) {} (fun s c => s.outstanding 0 = false ∧ (c.r 1).toNat % 4096 ≠ 0)
      ∧ wit i { cx 0x10000 with segOpen := true } {} (fun s c => s.outstanding 0 = false ∧ (c.r 1).toNat % 4096 = 0 ∧ s.regionOf 0 = some (1, rg) ∧ ¬ s.atBoundary 1 rg = true)) := by
  simp only [wit_st, Runs]; decide +kernel

/-- The write of a save area that its pages allow goes on from one state, whatever follows; a plane that never was is read as none. -/
theorem wit_SaveAndRestore_write : (∃ s', ∀ f, (stArea false).writeOwn 0 (cx 0x10000) 0x10000 (List.replicate 1856 1) f = f s')
    ∧ ∀ f, (stArea true).ownPlane 0 (cx 0x10000) 0 0 f = f (none, true) := by
  have h1 : pageStarts 0x10000 (List.replicate 1856 (1 : Byte)).length = [0x10000] := by decide +kernel
  have h2 : checkAccess (stArea false) 0 (cx 0x10000).asid 0x10000 1 .store true = .ok (pg .normal true true) := by decide +kernel
  refine ⟨?_, fun f => by simp [State.ownPlane]⟩
  simp only [State.writeOwn, h1, List.foldr, State.withPage, h2]
  exact ⟨_, fun _ => rfl⟩

/-- One tile, in a state of its own. -/
def stTl (tl : Tile) : State := st cxMem tl

/-- A configuration of a VE that adds its first two inputs, with a region port into the site and one out of it. -/
def veCfg : VeCfg :=
  ⟨[0x40178000, 0x38000, 0x38000, 0x38000, 0x38000, 0x38000], [0x80000000, 0x80000000, 0, 0, 0x80000000, 0], List.replicate 8 0, List.replicate 32 0⟩
def pl1 : Plane := { pl0 with ves := [(0, veCfg)], links := [(0, [0xD000])], vps := [(0, 0x80000000), (1, 0xC1000000)], mask := 1 }

/-- A data token on channel 0 with all lanes valid, and EOS. -/
def tokD : Tok := ⟨mkHdr 0 0xFFFF 0 0, false, lanesOf fun i => BitVec.ofNat 32 (i + 1)⟩
def tokEos : Tok := mkMarker 3 0 false

theorem wit_ConfigEvents :
    (let tl : Tile := { loading := some pl1, arrived := [3], inq := [⟨0, 5, none, tokD, true⟩] };
      ((stTl tl).tile 0).loading = some pl1 ∧ tl.frozen = false ∧ 0 < 64 ∧ 0 ∉ ((stTl tl).tile 0).arrived ∧ (stTl tl).aheadOf 0 0 = false
      ∧ ((stTl tl).tile 0).arrived.length < 63)
    ∧ (let tl : Tile := { loading := some pl1, arrived := (List.range 63).map (· + 1) }; 0 ∉ tl.arrived ∧ (stTl tl).aheadOf 0 0 = false ∧ 63 ≤ tl.arrived.length)
    ∧ (let tl : Tile := { p0 := some pl1, p1 := some pl1, swapping := true, ves := [(0, { eos := true })] }
      let t := (stTl tl).tile 0; t.shadow = some pl1 ∧ t.swapping = true ∧ t.strict = false ∧ t.frozen = false ∧ 0 ∉ t.flipped ∧ t.siteReady 0 = true
      ∧ t.passedEos 0 = true ∧ isVe 0 = true)
    ∧ (let tl : Tile := { p0 := some pl1, p1 := some pl1, swapping := true, flipped := List.range 64 }
      let t := (stTl tl).tile 0; t.frozen = false ∧ t.epoch = false ∧ t.swapping = true ∧ 64 ≤ t.flipped.length ∧ t.drained = true)
    ∧ (∀ tl ∈ [({ loading := some pl1, frozen := true } : Tile), { loading := some pl1, inq := [⟨0, 5, none, tokD, true⟩] }], tl.loading = some pl1
      ∧ (tl.frozen = true ∨ (stTl tl).aheadOf 0 5 = true))
    ∧ (let tl : Tile := { p0 := some pl1, p1 := some pl1, swapping := true, strict := true, ves := [(0, { eos := true })], bufs := [(qKey 0 1, { toks := [tokD] })] }
      let t := (stTl tl).tile 0; t.shadow = some pl1 ∧ t.swapping = true ∧ t.strict = true ∧ t.frozen = false ∧ 0 ∉ t.flipped ∧ t.siteReady 0 = true
      ∧ t.passedEos 0 = true ∧ t.strayAt 0 = some (1, tokD) ∧ (stTl tl).regionOf 0 = some (1, rg))
    ∧ (∀ strict ∈ [false, true], ((stTl { p0 := some pl1, p1 := some pl1, swapping := true, strict := strict, flipped := [0] }).tile 0).isStray 0 tokD = true) := by decide +kernel

/-- A descriptor of two tokens of 64 bytes from 0x11000 on, 64 bytes apart, without edge, for a load or a store. -/
def descOf (count : Nat) : List Byte := leBytes 32 (0x11000 + count * 2 ^ 64 + 64 * 2 ^ 96 + 64 * 2 ^ 128)

/-- The machine with a request latched for the region of tile 0. -/
def stLatched (c : Ctx) : State := { st c with regions := [(1, { rg with latched := true })] }

theorem wit_StreamBinding :
    (∀ n ∈ [0, 1], let s := stMem (cx 0x10040) { p0 := some pl1 } (descOf 2); Runs s (.strm 3 1 (BitVec.ofNat 6 n)) (cx 0x10040) ∧ s.outstanding 0 = false
      ∧ s.latched 0 = false ∧ 0x10040 % 32 = 0 ∧ s.ownRead 0 (cx 0x10040) 0x10040 32 = .ok (descOf 2)
      ∧ (s.tile 0).port? n = some (if n = 0 then 0x80000000 else 0xC1000000, false) ∧ (s.tile 0).bound n = false
      ∧ (s.tile 0).holdsBind n = false ∧ ((s.tile 0).buf (vKey n)).toks = [] ∧ (({ out := n = 1, desc := doublesOf 4 (descOf 2), asid := 0 } : Strm)).legal = true)
    ∧ ((stMem (cx 0x10040) { p0 := some pl1 } (descOf 2)).tile 0).port? 2 = none
    ∧ ((stMem (cx 0x10040) { p0 := some pl1, ports := [(0, { out := false, desc := [], asid := 0 })] } (descOf 2)).tile 0).bound 0 = true
    ∧ (({ out := false, desc := doublesOf 4 (descOf 0), asid := 0 } : Strm)).legal = false
    ∧ wit (.strm 3 1 0) (cx 0x10050) {} (fun s c => s.outstanding 0 = false ∧ s.latched 0 = false ∧ (c.r 1).toNat % 32 ≠ 0)
    ∧ (let s := stLatched cxMem; Runs s (.strm 3 1 0) cxMem ∧ s.outstanding 0 = false ∧ cxMem.segOpen = false ∧ s.latched 0 = true) := by
  simp only [wit_st, Runs]; decide +kernel

theorem wit_PortWords :
    (∀ i ∈ [Instr.pws 1 2 0, .pwv 1 2 0, .mki 1 0], wit i (cx 0x40 0xFFFF) { p0 := some pl1 } (fun s c => s.latched 0 = false ∧ (s.tile 0).injectable 0 = true
        ∧ bits64 (c.r 2) 18 16 = 0 ∧ checkLocal s 0 (c.r 1) 64 64 = none ∧ s.canInject 0 0 = true)
      ∧ wit i (cx 0x40 0xFFFF) {} (fun s _ => s.latched 0 = false ∧ (s.tile 0).injectable 0 = false)
      ∧ Runs (stLatched cxMem) i cxMem ∧ cxMem.segOpen = false ∧ (stLatched cxMem).latched 0 = true)
    ∧ (∀ v ∈ [0, 3, 0x10], wit (.mki 1 0) (cx (BitVec.ofNat 64 v)) { p0 := some pl1 } (fun s c => (c.r 1).toNat % 256 ∈ [0, 1, 2, 3, 16] ∧ s.canInject 0 0 = true))
    ∧ (let full : Tile := { p0 := some pl1, bufs := [(qKey 0 0, { toks := List.replicate 4 tokD })] }
      wit (.pws 1 2 0) (cx 0x40 0xFFFF) full (fun s _ => (s.tile 0).injectable 0 = true ∧ s.canInject 0 0 = false))
    ∧ (∀ v ∈ [0, 15, 16, 31], wit (.prd 3 1 1) (cx (BitVec.ofNat 64 v)) { p0 := some pl1, bufs := [(vKey 1, { toks := [tokD, tokEos] })] } (fun s c => s.readable 0 1 = true
        ∧ ((s.tile 0).buf (vKey 1)).toks = [tokD, tokEos] ∧ (s.tile 0).frozen = false ∧ ((c.r 1).getLsbD 4 = decide (16 ≤ v))))
    ∧ wit (.prd 3 1 0) (cx 0) { p0 := some pl1 } (fun s c => s.readable 0 0 = false ∧ c.wait ≠ .again)
    ∧ (∀ i ∈ [Instr.pws 1 2 0, .pwv 1 2 0, .mki 1 0], wit i { cx 0x40 0xFFFF with wait := .again, segOpen := true } {} (fun s c => c.wait = .again ∧ c.segOpen = true
        ∧ (s.tile 0).injectable 0 = false))
    ∧ wit (.prd 3 1 1) { cx 0 with wait := .again } { frozen := true } (fun s c => s.readable 0 1 = false ∧ c.wait = .again ∧ (s.tile 0).frozen = true)
    ∧ wit (.pstat 3 2 1) (cx 0 0x3F) { p0 := some pl1 } (fun s _ => (s.tile 0).port? 1 = some (0xC1000000, false) ∧ isVe (vpSite 0xC1000000) = true)
    ∧ wit (.drain 3) cxMem { p0 := some pl1, dropped := 5 } (fun s _ => s.tileIdle 0 = true ∧ (s.tile 0).frozen = false) := by
  simp only [wit_st, Runs]; decide +kernel

/-- PWV as it issues: it may, finds no slot, names a port that takes no token, or is misaligned. -/
theorem wit_PortWords_pwv :
    (∀ b ∈ [true, false], let tl : Tile := { p0 := some pl1, bufs := [(qKey 0 0, { toks := if b then [] else List.replicate 4 tokD })] }
      wit (.pwv 1 2 0) (cx 0x40 0xFFFF) tl (fun s c => (∀ ls, c.wait ≠ .slot ls) ∧ s.latched 0 = false ∧ (s.tile 0).injectable 0 = true
        ∧ checkLocal s 0 (c.r 1) 64 64 = none ∧ bits64 (c.r 2) 18 16 = 0
        ∧ (s.setTile 0 ((s.tile 0).seqAccess (c.r 1).toNat)).canInject 0 0 = b))
    ∧ wit (.pwv 1 2 0) (cx 0x44 0xFFFF) { p0 := some pl1 } (fun s c => (∀ ls, c.wait ≠ .slot ls) ∧ s.latched 0 = false ∧ (s.tile 0).injectable 0 = true
        ∧ (c.r 1).toNat % 64 ≠ 0)
    ∧ wit (.pwv 1 2 0) (cx 0x40 0xFFFF) {} (fun s c => (∀ ls, c.wait ≠ .slot ls) ∧ s.latched 0 = false ∧ (s.tile 0).injectable 0 = false) := by
  simp only [wit_st]
  refine ⟨fun b hb => ⟨?_, fun _ => nofun, ?_⟩, ⟨?_, fun _ => nofun, ?_⟩, ⟨?_, fun _ => nofun, ?_⟩⟩ <;> first | decide +kernel | (revert b; decide +kernel)

/-- PWV in its wait, with the lanes that it has read. -/
theorem wit_PortWords_slot :
    ∀ b ∈ [true, false], let tl : Tile := { p0 := some pl1, bufs := [(qKey 0 0, { toks := if b then [] else List.replicate 4 tokD })] }
      wit (.pwv 1 2 0) { cx 0x40 0xFFFF with wait := .slot tokD.lanes, segOpen := true } tl (fun s c => c.wait = .slot tokD.lanes ∧ c.segOpen = true
        ∧ s.canInject 0 0 = b) := by
  simp only [wit_st, Runs]; decide +kernel

/-- A tile whose bank 0 has an owner. -/
def tlBank (o : Nat) : Tile := { banks := [(0, o)] }

theorem wit_BankWords :
    (∀ n ∈ [0, 31], wit (.accz (BitVec.ofNat 5 n)) cxMem {} (fun s _ => (s.tile 0).frozen = false ∧ ∀ k ∈ (s.tile 0).mx.q, k.selects (n / 8) = false)
      ∧ wit (.accrd 3 1 (BitVec.ofNat 5 n)) (cx 0x7FF) {} (fun s _ => ∀ k ∈ (s.tile 0).mx.q, k.selects (n / 8) = false))
    ∧ (∀ o ∈ [0, 2], wit (.bktokTake 3 1) (cx 0) (tlBank o) (fun s c => (c.r 1).toNat < 2 ^ 20 ∧ SMap.getD (s.tile 0).banks ((c.r 1).toNat / 8192) 0 = o))
    ∧ wit (.bktokTake 3 1) (cx 0) (tlBank 1) (fun s c => SMap.getD (s.tile 0).banks ((c.r 1).toNat / 8192) 0 = 1 ∧ ((s.tile 0).se (seSite 0)).eos = false)
    ∧ (∀ o ∈ [0, 1, 2, 3], ∀ i ∈ [Instr.bktokGive 3 1, .bktokQuery 3 1], wit i (cx 0) (tlBank o) (fun s c => (c.r 1).toNat < 2 ^ 20
        ∧ SMap.getD (s.tile 0).banks ((c.r 1).toNat / 8192) 0 = o))
    ∧ (∀ i ∈ [Instr.accz 31, .accrd 3 1 31, .bktokTake 3 1], wit i { cx 0 with wait := .again } { frozen := true } (fun s c => (c.r 1).toNat < 2 ^ 20
        ∧ ¬ ((s.tile 0).frozen = false ∨ c.wait ≠ .again)))
    ∧ (∀ i ∈ [Instr.bktokTake 3 1, .bktokGive 3 1, .bktokQuery 3 1], wit i (cx 0x100000) {} (fun _ c => ¬ (c.r 1).toNat < 2 ^ 20))
    ∧ (let c : Ctx := { cx 0 with wait := .again, word := encode (.bktokTake 3 1) }; let s := st c { tlBank 1 with ses := [(seSite 0, { eos := true })] }
      s.ctxAt 0 = some c ∧ c.wait = .again ∧ (s.tile 0).frozen = false ∧ decode c.word = .ok (.bktokTake 3 1) ∧ SMap.getD (s.tile 0).banks 0 0 = 1 ∧ ((s.tile 0).se (seSite 0)).eos = true) := by
  simp only [wit_st]; decide +kernel

/-- A tile of that plane whose site 0 has tokens at its first two inputs. -/
def tlVe (a b : List Tok) : Tile := { p0 := some pl1, bufs := [(qKey 0 0, { toks := a }), (qKey 0 1, { toks := b })] }

theorem wit_VeFirings :
    (let s := stTl (tlVe [tokD, tokEos] [tokD]); let tl := s.tile 0; tl.veCfg 0 = some veCfg ∧ tl.presented veCfg 0 = some [(0, 0, 0), (1, 0, 0)] ∧ tl.frozen = false
      ∧ (tl.ve 0).ready = true ∧ s.writeFree 0 0 veCfg = true ∧ isectOn veCfg = false)
    ∧ (let s := stTl (tlVe [tokEos] [tokEos, tokD]); let tl := s.tile 0; tl.presented veCfg 0 = some [(0, 5, 3), (1, 5, 3)] ∧ (tl.ve 0).ready = true
      ∧ s.writeFree 0 0 veCfg = true ∧ ∀ k ∈ readSet veCfg, tl.shown veCfg 0 k = .head tokEos) := by decide +kernel

/-- The same VE under the intersection unit, and a token of one element. -/
def veCfgX : VeCfg := { veCfg with pw := [0xC0000000, 0x80000000, 0, 0, 0x80000000, 0] }
def tlX (a b : Nat) : Tile := { tlVe [key a] [key b] with p0 := some { pl1 with ves := [(0, veCfgX)] } }
where key (k : Nat) : Tok := ⟨mkHdr 0 4 0 0, false, lanesOf fun _ => BitVec.ofNat 32 (k * 65536 + 1)⟩

/-- A firing that leaves its stages. -/
def fir : Firing := ⟨[tokD], [], true, false, 5, false, false, false⟩

theorem wit_VeSteps :
    (let tl := (stTl (tlVe [tokD] [tokEos])).tile 0; tl.veCfg 0 = some veCfg ∧ tl.presented veCfg 0 = some [(0, 0, 0), (1, 5, 3)] ∧ tl.frozen = false
      ∧ isectOn veCfg = false ∧ tl.shown veCfg 0 0 = .head tokD ∧ portHold veCfg 0 = false)
    ∧ (∀ p ∈ [(1, 2), (2, 1), (2, 2)], let tl := (stTl (tlX p.1 p.2)).tile 0; tl.veCfg 0 = some veCfgX ∧ tl.frozen = false ∧ isectOn veCfgX = true
      ∧ (tl.ve 0).pairs.length < 16 ∧ (tl.own 0 0).head? = some (tlX.key p.1) ∧ (tl.own 0 1).head? = some (tlX.key p.2) ∧ (tlX.key p.1).isMarker = false
      ∧ firstLane (tlX.key p.1) = some 2 ∧ ((tlX.key p.1).lanes.at 2).extractLsb' 16 16 = BitVec.ofNat 16 p.1 ∧ (tl.ve 0).lastA = none ∧ (tl.ve 0).lastB = none)
    ∧ (let tl := (stTl { p0 := some pl1, ves := [(0, { pipe := [fir] })] }).tile 0; (tl.ve 0).pipe = [fir] ∧ tokD.ep = fir.ep ∧ tl.plane false = some pl1
      ∧ SMap.get? pl1.ves 0 = some veCfg ∧ pl1.outVp 0 0 = some 1 ∧ tl.port? 1 = some (0xC1000000, false) ∧ vpOut 0xC1000000 = true ∧ vpSite 0xC1000000 = 0
      ∧ vpPort 0xC1000000 = 0) := by decide +kernel

/-- A tile whose link 0 of site 0 holds a token, plain, over a cut edge to tile 17, and with a ring. -/
def plCut : Plane := { pl1 with cuts := [(0, ⟨17, 3⟩)], links := [(0, [0xD008])] }
def plRing : Plane := { pl1 with rings := [(0, ⟨0x10000, 12⟩)], links := [(0, [0xD009])] }
def stCut (win : SMap Nat) (ahead : Nat := 0) (frozen : Bool := false) : State :=
  { stTl {} with
    tiles := [(0, { region := 1, p0 := some plCut, bufs := [(lKey 0 0, { toks := [tokD], ret := 1, ahead := ahead })], windows := win }), (17, { p0 := some pl1, frozen := frozen })] }
/-- The same with a ring that holds one entry, its page mapped. -/
def stRing (tl : Tile) : State :=
  { stTl { tl with p0 := some plRing, ringHT := [(0, (0, 1))], tlb := [pg .normal true true] } with pages := [pg .normal true true] }

theorem wit_LinkSteps :
    (let tl := (stTl { p0 := some pl1, bufs := [(lKey 0 0, { toks := [tokD, tokEos] })] }).tile 0; tl.frozen = false ∧ (tl.buf (lKey 0 0)).toks = [tokD, tokEos]
      ∧ tl.plane tokD.ep = some pl1 ∧ tl.early 0 tokD.ep = false ∧ pl1.link 0 0 = some 0xD000 ∧ SMap.get? pl1.cuts 0 = none ∧ swTo 0xD000 = 4 ∧ tl.takes 0 0 tokD tokD.ep = true
      ∧ tl.isStray 0 tokD = false ∧ (tl.buf (qKey 0 0)).free 4 > 0)
    ∧ (let s := stTl { p0 := some pl1, frozen := true }; (s.tile 0).frozen = true)
    ∧ (let x : Tok := { tokD with ep := true }; let s := stTl { p0 := some pl1, p1 := some pl1, swapping := true, bufs := [(lKey 0 0, { toks := [x] })] }
      ((s.tile 0).buf (lKey 0 0)).toks = [x] ∧ (s.tile 0).early 0 x.ep = true) := by decide +kernel

theorem wit_LinkSteps_cut :
    (∀ a ∈ [0, 1], ∀ z ∈ [false, true], let s := stCut [(0, 2)] a z; let tl := s.tile 0; (tl.buf (lKey 0 0)).toks = [tokD] ∧ (s.tile 17).frozen = z ∧ tl.frozen = false ∧ (17 : BitVec 22).toNat % 1024 ≠ 0 ∧ tl.plane tokD.ep = some plCut ∧ plCut.link 0 0 = some 0xD008
      ∧ tl.early 0 tokD.ep = false ∧ s.hopTurn 0 0 0 = true
      ∧ SMap.get? plCut.cuts 0 = some ⟨17, 3⟩ ∧ 0 < SMap.getD tl.windows (eKey 0 0 false) 0 ∧ (17 : BitVec 22).toNat / 1024 = s.hub.pkg.toNat ∧ (tl.buf (lKey 0 0)).ret ≠ 0)
    ∧ (∀ win ∈ [[], [(0, 0)], [(0, 3)]], let s := stCut win; (s.tile 0).plane false = some plCut ∧ (s.tile 0).siteEp 0 = false ∧ (s.tile 17).swapping = false
      ∧ (s.tile 17).plane (s.tile 17).epoch ≠ none ∧ (s.tile 17).inq = [] ∧ SMap.getD (s.tile 0).windows (eKey 0 0 false) 0 < swSlots 0xD008) := by decide +kernel

theorem wit_LinkSteps_ingress :
    (let z : InTok := ⟨0, 0, none, { tokD with hdr := mkHdr 0 0xFFFF 7 0 }, false⟩; ((stTl { inq := [z] }).tile 0).inq = [z] ∧ z.tok.kind = 7)
    ∧ (∀ z ∈ [(⟨0, 0, none, tokD, false⟩ : InTok), ⟨0, 0, none, tokD, true⟩], let s := stTl { p0 := some pl1, inq := [z] }; (s.tile 0).frozen = false ∧ (s.tile 0).inq = [z] ∧ badHeader z = false ∧ z.xe8 = none
      ∧ s.canSend 0 z.site 6 z.tok = true) := by decide +kernel

theorem wit_LinkSteps_ring :
    (∀ u ∈ [({} : Tile), { flipped := [0] }, { bufs := [(lKey 0 0, { toks := [tokD] })] }], let s := stRing u; let tl := s.tile 0
      tl.frozen = false ∧ tl.ringHt 0 0 tl.epoch = (0, 1) ∧ tl.plane tl.epoch = some plRing ∧ tl.ring? 0 0 tl.epoch = some ⟨0x10000, 12⟩ ∧ plRing.link 0 0 = some 0xD009
      ∧ s.ringPa plRing ⟨0x10000, 12⟩ 0 = some 0x20000 ∧ (0 < tl.linkFree 0 0 (swSlots 0xD009) tl.epoch ∨ tl.linkFree 0 0 (swSlots 0xD009) tl.epoch = 0)
      ∧ tl.linkStray 0 0 (tokOfBytes (s.mem.bytes 0x20000 72)) = (tl.flipped == [0]) ∧ tl.strict = false)
    ∧ (let s := stRing {}; (s.tile 0).ringHeld 0 0 false = true ∧ (s.tile 0).linkStray 0 0 tokD = false ∧ s.canTake tokD (.link 0 0 0 1) = true) := by decide +kernel

/-- A tile whose SE at site 1 has a mode, with its first 128 bytes, and tokens at its inputs. -/
def tlSe (word : W32) (ins : List (List Tok)) (e : Se) : Tile :=
  { p0 := some { pl0 with ses := [(1, ⟨word, []⟩)] }, bufs := ((List.range 4).zip ins).map fun p => (qKey 1 p.1, { toks := p.2 }), ses := [(1, e)] }
/-- A token of two lanes. -/
def tok2 (kind : Nat) (a b c d : W32) : Tok := ⟨mkHdr 0 3 kind 0, false, lanesOf fun i => if i = 0 then a else if i = 1 then b else if i = 2 then c else if i = 3 then d else 0⟩

/-- The same SE, with links of one slot from both of its out ports, which hold a token. -/
def tlFull (word : W32) (ins : List (List Tok)) (e : Se) : Tile :=
  let tl := tlSe word ins e
  { tl with
    p0 := tl.p0.map fun p => { p with links := [(1, [0x9002, 0xB002])] }
    bufs := (((List.range 4).zip ins).map fun p => (qKey 1 p.1, ({ toks := p.2 } : Buf))) ++ [(lKey 1 0, { toks := [tokD] }), (lKey 1 1, { toks := [tokD] })] }

/-- The SE of tile 0 in a mode, with the head `x` at input `k`. -/
abbrev seAt (tl : Tile) (mode k : Nat) (x : Option Tok) : Prop :=
  isVe 1 = false ∧ ((stTl tl).tile 0).frozen = false ∧ ((stTl tl).tile 0).seMode 1 = mode ∧ ((stTl tl).tile 0).seHead 1 k = x

theorem wit_SeSteps_ram :
    (∀ x ∈ [tokEos, tok2 0 0 124 0 0, tok2 0 125 128 0 0], seAt (tlSe 0x2200000F [[x]] {}) 1 0 (some x) ∧ (stTl (tlSe 0x2200000F [[x]] {})).canSend 0 1 4 x = true
      ∧ seAt (tlFull 0x2200000F [[x]] {}) 1 0 (some x) ∧ (stTl (tlFull 0x2200000F [[x]] {})).canSend 0 1 4 x = false)
    ∧ (let w : W32 := 0x2200000F; seLo w + 124 + 4 ≤ seHi w ∧ 124 % 4 = 0 ∧ 125 % 4 ≠ 0 ∧ ¬ seLo w + 128 + 4 ≤ seHi w
      ∧ (∀ i < 16, (tok2 0 0 124 0 0).mask.getLsbD i = true →
        ((stTl (tlSe w [[tok2 0 0 124 0 0]] {})).tile 0).stalled (seBase 1 + seLo w + ((tok2 0 0 124 0 0).lanes.at i).toNat) = false))
    ∧ seAt (tlSe 0x2200000F [] {}) 1 0 none ∧ seAt (tlSe 0x2200000F [] {}) 1 1 none
    ∧ (∀ x ∈ [tokEos, tok2 0 124 5 0 0, tok2 0 128 5 0 0], seAt (tlSe 0x2200000F [[], [x]] {}) 1 1 (some x))
    ∧ ((tok2 0 124 5 0 0).mask.getLsbD 0 = true ∧ (tok2 0 124 5 0 0).mask.getLsbD 1 = true
      ∧ ((stTl (tlSe 0x2200000F [[], [tok2 0 124 5 0 0]] {})).tile 0).stalled (seBase 1 + seLo 0x2200000F + 124) = false) := by
  decide +kernel

/-- What the FIFO of that SE does in one turn: what leaves, and what enters. -/
def fifoTl (m : Nat) (old : List Tok) (ins : List Tok) : Tile := tlSe (BitVec.ofNat 32 m) [ins] { fifo := old }

theorem wit_SeSteps_fifo_enter : ∀ w ∈ [0x4200000F, 0x6200000F], (let tl := (stTl (fifoTl w [] [tokD])).tile 0; (tl.seMode 1 = 2 ∨ tl.seMode 1 = 3)
      ∧ tl.fifoCap 1 = 1 ∧ (tl.se 1).fifo = [] ∧ tl.seHead 1 0 = some tokD
      ∧ (tl.se 1).fifo.length < tl.fifoCap 1 ∧ tl.entryStalls 1 ((tl.se 1).first + (tl.se 1).fifo.length) = false)
    ∧ ((stTl (fifoTl w [] [])).tile 0).seHead 1 0 = none := by decide +kernel

theorem wit_SeSteps_fifo_leave : ∀ w ∈ [0x4200000F, 0x6200000F], ∀ ins ∈ [[], [tokD]], let s := stTl (fifoTl w [tokEos] ins); let tl := s.tile 0
    (tl.se 1).fifo = [tokEos] ∧ tl.entryStalls 1 (tl.se 1).first = false ∧ s.canSend 0 1 4 tokEos = true := by decide +kernel

theorem wit_SeSteps_fifo_both : ∀ ins ∈ [[], [tokD]], let s := stTl (fifoTl 0x4200000F [tokEos] ins); let tl := s.tile 0
    let v := ((s.setTile 0 ((tl.setSe 1 { tl.se 1 with fifo := [], first := ((tl.se 1).first + 1) % max 1 (tl.fifoCap 1) }).seEos 1 tokEos)).send 0 1 4 tokEos).tile 0
    v.seHead 1 0 = ins.head? ∧ (v.se 1).fifo.length < v.fifoCap 1 ∧ v.entryStalls 1 ((v.se 1).first + (v.se 1).fifo.length) = false := by decide +kernel

theorem wit_SeSteps_fifo_full : (let s := stTl (tlFull 0x4200000F [[tokD]] { fifo := [tokD] }); ((s.tile 0).se 1).fifo = [tokD] ∧ s.canSend 0 1 4 tokD = false
      ∧ ¬ ((s.tile 0).se 1).fifo.length < (s.tile 0).fifoCap 1) := by decide +kernel

theorem wit_SeSteps_lut :
    (∀ x ∈ [tokEos, tok2 0 0 31 0 0, tok2 0 0 32 0 0], seAt (tlSe 0x8200000F [[x]] {}) 4 0 (some x) ∧ (stTl (tlSe 0x8200000F [[x]] {})).canSend 0 1 4 x = true
      ∧ seAt (tlFull 0x8200000F [[x]] {}) 4 0 (some x) ∧ (stTl (tlFull 0x8200000F [[x]] {})).canSend 0 1 4 x = false)
    ∧ (let w : W32 := 0x8200000F; seLo w + 4 * 31 + 4 ≤ seHi w ∧ ¬ seLo w + 4 * 32 + 4 ≤ seHi w
      ∧ ((stTl (tlSe w [[tok2 0 0 31 0 0]] {})).tile 0).stalled (seBase 1 + seLo w + 4 * 31) = false)
    ∧ seAt (tlSe 0x8200000F [] {}) 4 0 none := by
  decide +kernel

/-- A set-up token of a window of a width, a height and a format. -/
def tokW (w h f : W32) : Tok := ⟨mkHdr 0 0x1F 0 0, false, lanesOf fun i => if i = 2 then w else if i = 3 then h else if i = 4 then f else 7⟩
/-- A request of one lane. -/
def tokR (kind v : Nat) : Tok := ⟨mkHdr 0 1 kind 0, false, lanesOf fun i => if i = 0 then BitVec.ofNat 32 v else 0⟩
/-- A warp store of a window of 2 by 2 samples. -/
def seW (fill : Nat) (fin : Bool) : Se := { on := true, ww := 2, wh := 2, fill := fill, done1 := fin, done2 := fin }

theorem wit_WarpStoreSteps_setup : ∀ x ∈ [tokEos, tokW 1 1 0, tokW 1 113 2, tokW 0 5 0, tokW 2 57 0, tokW 1 1 3],
    seAt (tlSe 0xA20003FF [[], [], [], [x]] {}) 5 3 (some x) := by decide +kernel

theorem wit_WarpStoreSteps_sizes : (let n := seHi 0xA20003FF / 8 - seLo 0xA20003FF / 8; 1 * 113 * 9 ≤ n ∧ ¬ 2 * 57 * 9 ≤ n) ∧ (tokW 1 1 0).kind = 0
    ∧ seAt (tlSe 0xA20003FF [[]] {}) 5 3 none ∧ (((stTl (tlSe 0xA20003FF [[]] { outq := [tokD] })).tile 0).se 1).outq ≠ [] := by decide +kernel

theorem wit_WarpStoreSteps_fill : ∀ p ∈ [(seW 3 false, false), (seW 4 false, true), ({}, true)], let tl := tlSe 0xA20003FF [[], [tokD], [tokD]] p.1
    seAt tl 5 1 (some tokD) ∧ seAt tl 5 2 (some tokD) ∧ tokD.kind = 0 ∧ (p.1.on = false ∨ p.1.ww * p.1.wh ≤ p.1.fill ↔ p.2 = true)
    ∧ ((stTl tl).tile 0).stalledIn (seBase 1 + seLo 0xA20003FF + 72 * 3) 68 = false := by decide +kernel

theorem wit_WarpStoreSteps_markers : ∀ x ∈ [mkMarker 2 0 false, tokEos], seAt (tlSe 0xA20003FF [[], [x]] (seW 3 false)) 5 1 (some x)
    ∧ (∀ y ∈ [none, some tokD], let tl := tlSe 0xA20003FF [[], y.toList, [x]] (seW 3 false); seAt tl 5 1 y ∧ seAt tl 5 2 (some x)) := by decide +kernel

/-- Requests inside the fill, inside one that is not there yet, and outside the window. -/
theorem wit_WarpStoreSteps_requests : ∀ r ∈ [0, 64, 32, 0x200020, 0x800000, 0x80], let s := stTl (tlSe 0xA20003FF [[tokR 0 r]] (seW 4 true))
    seAt (tlSe 0xA20003FF [[tokR 0 r]] (seW 4 true)) 5 0 (some (tokR 0 r)) ∧ ((s.tile 0).se 1).outq = []
    ∧ (s.tile 0).warpStalls 1 0xA20003FF (seW 4 true) (BitVec.ofNat 32 r) = false ∧ s.canSend 0 1 5 (tokR 0 r) = true := by decide +kernel

theorem wit_WarpStoreSteps_answers : ∀ r ∈ [0, 64, 32, 0x200020, 0x800000, 0x80],
    (warpAnswer ((stTl (tlSe 0xA20003FF [[tokR 0 r]] (seW 4 true))).tile 0) 1 0xA20003FF (seW 4 true) (BitVec.ofNat 32 r)).isSome = true := by decide +kernel

theorem wit_WarpStoreSteps_waits :
    (∀ o ∈ [4, 5], ∀ x ∈ [tokR 0 0, tokEos], (stTl (tlFull 0xA20003FF [[x]] (seW 4 true))).canSend 0 1 o x = false)
    ∧ (warpAnswer ((stTl (tlSe 0xA20003FF [[tokR 0 0x400000]] (seW 2 false))).tile 0) 1 0xA20003FF (seW 2 false) 0x400000 = none ∧ 2 ≤ 1 * 2 + 0) := by
  decide +kernel

theorem wit_WarpStoreSteps_out :
    (let s := stTl (tlSe 0xA20003FF [[]] { outq := [tokD, tokD] }); ((s.tile 0).se 1).outq = [tokD, tokD] ∧ s.canSend 0 1 4 tokD = true)
    ∧ (seAt (tlSe 0xA20003FF [[tokEos]] {}) 5 0 (some tokEos) ∧ ∀ o ∈ [4, 5], (stTl (tlSe 0xA20003FF [[tokEos]] {})).canSend 0 1 o tokEos = true)
    ∧ (∀ b ∈ [true, false], let s := stTl (if b then tlSe 0xA20003FF [[tokEos]] {} else tlFull 0xA20003FF [[tokEos]] {})
      seAt (if b then tlSe 0xA20003FF [[tokEos]] {} else tlFull 0xA20003FF [[tokEos]] {}) 5 0 (some tokEos)
      ∧ s.canTakeAll tokEos (s.dests 0 1 4 tokEos ++ s.dests 0 1 5 tokEos) = b) := by
  decide +kernel

/-- A stream of four tokens of 64 bytes, one done, at 0x10000 and upward, by its first double and its control double. -/
def strm (out : Bool) (issued done : Nat) : Strm :=
  { out := out, desc := [0x10000, BitVec.ofNat 64 (4 + 64 * 2 ^ 32), 64, 0], asid := 0, issued := issued, done := done }

/-- The machine with that stream at a port of tile 0, whose engine holds the page, and with tokens at the port. -/
def stStrm (vp : Nat) (b : Strm) (q : List Tok) (rs : List Req) : State :=
  { st cxMem { p0 := some pl1, ports := [(vp, b)], bufs := [(vKey vp, { toks := q })] } with
    reqs := rs
    dies := [(0, { etlb := [(0, [pg .normal true true]), (16, [pg .normal true true])] })] }

theorem wit_StreamSteps :
    (let b := strm false 1 1; let s := stStrm 0 b [] []; SMap.get? (s.tile 0).ports 0 = some b ∧ b.ended = false ∧ b.xe8 = false ∧ b.out = false ∧ b.issued < b.count
      ∧ b.issued < b.done + 64 ∧ (b.addr b.issued).toNat % 64 + b.bpt ≤ 64 ∧ 0 < b.bpt
      ∧ tlbFind (s.htlb (.engine 0 b.edge)) b.asid (b.addr b.issued) = some (pg .normal true true) ∧ ringed s b.asid (b.addr b.issued) = false)
    ∧ (let b := strm false 2 1; let q : Req := { rq .read 64 with agent := .stream 0 0 1 0, st := .performed, dat := List.replicate 64 7 }
      let s := stStrm 0 b [] [q]; b.seg = false ∧ b.done + 1 < b.count ∧ b.done ≠ b.issued
      ∧ s.engData (strmAgent 0 0 b.done) (b.addr b.done) b.bpt = some (List.replicate 64 7) ∧ s.canInject 0 0 = true)
    ∧ (let b := strm true 0 1; let s := stStrm 1 b [tokD, tokEos] []; SMap.get? (s.tile 0).ports 1 = some b ∧ b.eosIn = false ∧ b.out = true ∧ (s.tile 0).frozen = false
      ∧ ((s.tile 0).buf (vKey 1)).toks = [tokD, tokEos] ∧ tokD.isMarker = false ∧ tokD.kind = 0 ∧ b.done < b.count ∧ b.wo = false ∧ b.bpt ≤ 64
      ∧ s.htlb (.engine 0 (16 + b.edge)) = [pg .normal true true] ∧ (b.addr b.done).toNat % 4 = 0 ∧ 0x10000 ≤ (b.addr b.done).toNat
      ∧ (b.addr b.done).toNat + 64 ≤ 0x20000)
    ∧ (let b := strm true 0 4; b.count ≤ b.done ∧ b.eosIn = false ∧ b.cmd = none ∧ (let s := stStrm 1 b [tokD] []; ((s.tile 0).buf (vKey 1)).toks = [tokD])
      ∧ ∀ busy ∈ [false, true], let s := stStrm 1 b [tokEos] (if busy then [{ rq .write 4 with agent := .stream 0 1 3 0 }] else [])
        ((s.tile 0).buf (vKey 1)).toks = [tokEos] ∧ tokEos.isMarker = true ∧ tokEos.index = 3 ∧ s.engWriting (Agent.isStream 0 1) = busy) := by
  decide +kernel

theorem wit_StreamSteps_sent : ∀ b ∈ [false, true], let x : Strm := { strm false 4 4 with sent := true }
    let s := stStrm 0 x [] []; let tl : Tile := { s.tile 0 with inq := if b then [] else [⟨0, 0, some 0, tokD, false⟩] }
    SMap.get? tl.ports 0 = some x ∧ x.ended = false ∧ x.out = false ∧ x.sent = true ∧ tl.decoded 0 = b := by decide +kernel

theorem wit_StreamSteps_page : (∀ a, ringed (stStrm 1 (strm true 0 1) [tokD, tokEos] []) 0 a = false) ∧ ∀ a, 0x20000 ≤ a → a < 0x30000 → inDevice a = false :=
  ⟨fun _ => rfl, fun a h1 h2 => by simp [inDevice]; omega⟩

/-- A matrix token of an op for macro 0: one row, one block, 32 columns. -/
def mtok (op : Nat) : W64 := BitVec.ofNat 64 (op * 2 ^ 60 + 2 ^ 42)
def mk (op : Nat) (started : Bool) (taken : Nat) : MTok := { word := mtok op, vp := if op = 4 then 0 else 1, seq := 0, started := started, taken := taken }

theorem wit_MatrixWords :
    (∀ p ∈ [(0, 1), (1, 0), (2, 1), (3, 0), (4, 0), (5, 0), (6, 0)], wit (.mtok 3 1 (BitVec.ofNat 6 p.2)) (cx (mtok p.1)) { p0 := some pl1 } (fun s c =>
        s.latched 0 = false ∧ mtokValid (c.r 1) = true ∧ s.mtokRefused 0 p.2 (bits64 (c.r 1) 63 60) = false ∧ (s.tile 0).mx.q.length < 8))
    ∧ (Runs (stLatched cxMem) (.mtok 3 1 0) cxMem ∧ cxMem.segOpen = false ∧ (stLatched cxMem).latched 0 = true)
    ∧ wit (.mtok 3 1 0) (cx (mtok 7)) {} (fun s c => s.latched 0 = false ∧ mtokValid (c.r 1) = false)
    ∧ wit (.mtok 3 1 1) (cx (mtok 0)) { p0 := some pl1, mx := { q := List.replicate 8 (mk 0 false 0) } } (fun s c => s.latched 0 = false ∧ mtokValid (c.r 1) = true
        ∧ s.mtokRefused 0 1 (bits64 (c.r 1) 63 60) = false ∧ 8 ≤ (s.tile 0).mx.q.length)
    ∧ wit (.mtok 3 1 5) { cx (mtok 0) with wait := .again, segOpen := true } {} (fun s c => mtokValid (c.r 1) = true ∧ c.wait = .again ∧ c.segOpen = true
        ∧ (s.tile 0).mx.q.length < 8)
    ∧ (∀ n ∈ [7, 8], wit (.mbld 3 1 2) { cx 0x10020 (mtok 2) with wait := .ready } { mx := { q := List.replicate n (mk 0 false 0) } }
        (fun s c => c.wait = .ready ∧ (s.tile 0).mx.q.length = n))
    ∧ wit (.mbld 3 1 2) (cx 0x10020 (mtok 0)) {} (fun s c => s.outstanding 0 = false ∧ bits64 (c.r 2) 63 60 ≠ 2)
    ∧ wit (.mwait 0) { cxMem with wait := .again } { frozen := true } (fun s c => (s.tile 0).frozen = true ∧ c.wait = .again)
    ∧ wit (.mtok 3 1 5) (cx (mtok 0)) {} (fun s c => mtokValid (c.r 1) = true ∧ s.mtokRefused 0 5 (bits64 (c.r 1) 63 60) = true ∧ c.wait ≠ .again)
    ∧ wit (.mbld 3 1 2) (cx 0x10040 (mtok 2)) (tlPg (pg .normal true true)) (fun s c => s.outstanding 0 = false ∧ mtokValid (c.r 2) = true ∧ bits64 (c.r 2) 63 60 = 2
        ∧ (c.r 1).toNat % 64 = 0 ∧ c.wait ≠ .ready ∧ (mk 2 false 0).need = 32 ∧ pageStarts (c.r 1) (64 * 32) = [0x10040]
        ∧ checkPage s 0 c.asid 0x10040 = .ok (pg .normal true true)
        ∧ (pg .normal true true).kind ≠ .device)
    ∧ (∀ i ∈ [Instr.mstat 3 0, .mstat 3 3, .mstat 3 4, .mstat 3 5, .mwait 0, .mwait 1], wit i cxMem {} (fun s _ => (s.tile 0).mx.q = [] ∧ (s.tile 0).mx.now = {}))
    ∧ wit (.mwait 1) cxMem { mx := { q := [mk 0 false 0] } } (fun s _ => ∃ k ∈ (s.tile 0).mx.q, k.selects 0 = true) := by
  simp only [wit_st, Runs]; decide +kernel

/-- The matrix node with one token. -/
def stMx (k : MTok) : State :=
  stTl { p0 := some pl1, bufs := [(vKey 1, { toks := [tokD] })], mx := { q := [k], act := [{ valid := true }, {}, {}, {}] } }

theorem wit_MatrixSteps :
    (∀ k ∈ [mk 0 true 1, mk 1 true 0], ((stMx k).tile 0).frozen = false ∧ ((stMx k).tile 0).mx.q = [k] ∧ k.started = true ∧ k.done = false ∧ ((stMx k).tile 0).mx.act.length = 4
      ∧ ((stMx k).tile 0).mx.ld.length = 4 ∧ k.need ≤ k.taken ∧ ((stMx k).tile 0).mx.passes k [] = true)
    ∧ ((mk 0 true 1).op = 0 ∧ (mk 1 true 0).op = 1 ∧ (mk 2 true 31).op = 2 ∧ (mk 2 true 31).mem = none ∧ (mk 2 true 31).taken + 1 = (mk 2 true 31).need)
    ∧ (((stMx (mk 2 true 31)).tile 0).buf (vKey (mk 2 true 31).vp)).toks = [tokD] ∧ ((stMx (mk 2 true 31)).tile 0).frozen = false
    ∧ (∀ n ∈ [0, 30], let k := mk 2 true n; ((stMx k).tile 0).mx.q = [k] ∧ k.mem = none ∧ k.taken + 1 < k.need ∧ (((stMx k).tile 0).buf (vKey k.vp)).toks = [tokD]
      ∧ tokD.kind = 0)
    ∧ (∀ b ∈ [true, false], let k : MTok := { mk 4 true 0 with pos := 1, word := (mk 4 true 0).word ||| (if b then 0x4000000000 else 0) }
      ((stMx k).tile 0).mx.q = [k] ∧ k.started = true ∧ k.done = false ∧ k.op = 4 ∧ k.need ≤ k.taken ∧ (((stMx k).tile 0).mx.drainTok k).isSome = true ∧ (stMx k).canInject 0 k.vp = true
      ∧ ((stMx k).tile 0).mx.drainTok { k with pos := k.pos + 1 } = none ∧ k.acc = b)
    ∧ ((mk 3 false 0).op = 3 ∧ (mk 4 true 0).op = 4 ∧ (mk 5 false 0).op = 5 ∧ (mk 6 false 0).op = 6)
    ∧ (let k := mk 4 true 0; k.need ≤ k.taken ∧ (((stMx k).tile 0).mx.drainTok k).isSome = true ∧ (stMx k).canInject 0 k.vp = true
      ∧ ((stMx k).tile 0).mx.drainTok { k with pos := k.pos + 1 } ≠ none ∧ k.macs = [0] ∧ k.pos < k.cols / 16 ∧ 0 < k.rows)
    ∧ (∀ mac ∈ (mk 6 false 0).macs, (((stMx (mk 6 false 0)).tile 0).mx.active mac).valid = true)
    ∧ ((stMx { mk 5 false 0 with done := true }).tile 0).mx.q = [{ mk 5 false 0 with done := true }] := by decide +kernel

/-- A graph of one node, which passes its first tap on, as an image of 128 bytes with its signature. -/
def graphOfSig (sig : W64) : List Byte :=
  leBytes 16 (0x4B52494C + 128 * 2 ^ 32 + 1 * 2 ^ 64) ++ List.replicate 8 0 ++ leBytes 8 sig.toNat ++ List.replicate 32 0
    ++ leBytes 16 (0x60000000 * 2 ^ 32 + 0x300 * 2 ^ 64) ++ List.replicate 48 0
def graphImg : List Byte := graphOfSig (crc64 (graphOfSig 0))
def graphNode : RNode := RNode.of 0 0x60000000 0x300

/-- An array whose slot 0 holds a graph, armed from port 1 to port 0 where `run` says so. -/
def rillOn (run : Bool) : Rill := { slots := [{ valid := true, head := true, nin := 1, nout := 1 }, {}, {}, {}], ctl := if run then 0x101 else 0 }

set_option maxRecDepth 20000 in
theorem wit_RillWords :
    (∀ r ∈ [({} : Rill), rillOn false], let s := stMem (cx 0x10040) { rill := r } graphImg; Runs s (.rload 3 1 0) (cx 0x10040) ∧ 0x10040 % 64 = 0
      ∧ s.ownRead 0 (cx 0x10040) 0x10040 64 = .ok (graphImg.take 64) ∧ graphHeader (graphImg.take 64) = true ∧ (imgWord (graphImg.take 64) 1).toNat = 128
      ∧ s.ownRead 0 (cx 0x10040) 0x10040 128 = .ok graphImg ∧ graphStatus graphImg r 0 = ((0, 0), [graphNode]) ∧ (graphOf graphImg).ii = 0
      ∧ r.bound 0 = false)
    ∧ (let s := stMem (cx 0x10040) {} []; Runs s (.rload 3 1 0) (cx 0x10040) ∧ s.ownRead 0 (cx 0x10040) 0x10040 64 = .ok (List.replicate 64 0)
      ∧ graphHeader (List.replicate 64 0) = false)
    ∧ wit (.rload 3 1 0) (cx 0x10020) {} (fun _ c => (c.r 1).toNat % 64 ≠ 0) := by
  simp only [wit_st, Runs]; decide +kernel

theorem wit_RillWords_select :
    wit (.rload 3 1 0) (cx 0x10020) {} (fun _ c => (c.r 1).toNat % 64 ≠ 0)
    ∧ wit (.rsel 3 1 1) cxMem {} (fun _ _ => True) ∧ wit (.rsel 3 1 2) cxMem {} (fun _ _ => True)
    ∧ wit (.rsel 3 1 0) (cx 0x101) { p0 := some pl1, rill := rillOn false } (fun s c => rselValue (c.r 1) = false ∧ s.rselRefused 0 (c.r 1) = false
        ∧ (s.tile 0).rill.half = none ∧ (s.tile 0).rill.infl = [] ∧ (s.tile 0).frozen = false)
    ∧ wit (.rsel 3 1 0) { cx 0x101 with wait := .again } { p0 := some pl1, rill := { rillOn false with closing := true } } (fun s c => c.wait = .again
        ∧ (s.tile 0).frozen = false ∧ (s.tile 0).rill.half = none ∧ (s.tile 0).rill.infl = [])
    ∧ (∀ v ∈ [0x400000, 0x31, 0x40], wit (.rsel 3 1 0) (cx (BitVec.ofNat 64 v)) {} (fun s c => (s.tile 0).rill.closing = false ∧ rselValue (c.r 1) = true))
    ∧ wit (.rsel 3 1 0) (cx 0x101) { p0 := some pl1 } (fun s c => (s.tile 0).rill.closing = false ∧ rselValue (c.r 1) = false ∧ s.rselRefused 0 (c.r 1) = true)
    ∧ (∀ n ∈ [0, 2, 4, 7], wit (.rstat 3 (BitVec.ofNat 3 n)) cxMem {} (fun _ _ => True))
    ∧ wit (.rfree 3 1) cxMem { rill := rillOn true } (fun s _ => (1 : BitVec 4).getLsbD 0 = true ∧ (s.tile 0).rill.bound 0 = true)
    ∧ wit (.rfree 3 1) cxMem { rill := { slots := [⟨true, true, 1, 1, 1, 0, 0, 0⟩, ⟨true, false, 1, 1, 1, 0, 0, 0⟩, {}, {}] } } (fun s _ =>
        (∀ j < 4, (s.tile 0).rill.bound j = false) ∧ (s.tile 0).rill.cuts (1 : BitVec 4).getLsbD = true)
    ∧ wit (.rfree 3 1) cxMem { rill := rillOn false } (fun s _ => (∀ j < 4, (s.tile 0).rill.bound j = false) ∧ (s.tile 0).rill.cuts (1 : BitVec 4).getLsbD = false) := by
  simp only [wit_st]; decide +kernel

theorem wit_RillWords_route : routeFault [graphNode] 1 = none := by decide +kernel

/-- The armed array with tokens at its port. -/
def stRill (r : Rill) (q : List Tok) : State := stTl { p0 := some pl1, bufs := [(vKey 1, { toks := q })], rill := r }

theorem wit_RillSteps :
    (let s := stRill (rillOn true) [tokD]; let r := (s.tile 0).rill; r.run = true ∧ r.closing = false ∧ (s.tile 0).frozen = false
      ∧ ((s.tile 0).buf (vKey r.ivp)).toks = [tokD] ∧ tokD.isMarker = false ∧ tokD.kind = 0 ∧ r.half = none ∧ r.sel = false ∧ (r.at r.slot).nin ≤ 16
      ∧ r.infl.length < rillDepth)
    ∧ (let r : Rill := { ctl := 0x103 }; r.run = true ∧ r.closing = false ∧ (((stRill r [tokD]).tile 0).buf (vKey r.ivp)).toks = [tokD] ∧ r.sel = true
      ∧ (r.at (r.map (tokD.index % 64))).valid = false)
    ∧ (let r : Rill := { rillOn true with infl := [[tokD]] }; r.run = true ∧ r.infl = [[tokD]] ∧ (stRill r []).canInject 0 r.ovp = true)
    ∧ (let tl : Tile := { (stRill (rillOn true) []).tile 0 with mx := { q := [mk 4 true 0], act := [{ valid := true }, {}, {}, {}] } }
      tl.drains (rillOn true).ovp = true ∧ ((stRill (rillOn true) []).tile 0).drains (rillOn true).ovp = false)
    ∧ (let r := rillOn true; (((stRill r [tokEos]).tile 0).buf (vKey r.ivp)).toks = [tokEos] ∧ tokEos.isMarker = true ∧ r.infl = []
      ∧ (stRill r [tokEos]).canInject 0 r.ovp = true) ∧ 1 ≤ graphNode.w ∧ graphNode.ot = true := by decide +kernel

/-- A copy slot of region 1: one row of 128 bytes from 0x10000 to 0x18000, in pieces of 64, with control bits, a barrier and a state. -/
def slotOf (ctl : Nat) (tb : W64) (len : Nat) : CSlot :=
  { region := 1, tile := 0, asid := 0, tpl := [0x10000, 0x18000, 0, 0, 0, 0, tb, BitVec.ofNat 64 (2 ^ 32 + len), BitVec.ofNat 64 ctl] ++ List.replicate 7 0 }
def slotA : CSlot := slotOf 0 0 128
/-- The bytes of its descriptor. -/
def slotBytes (len : Nat) : List Byte := (slotOf 0 0 len).tpl.flatMap fun v => leBytes 8 v.toNat

/-- The machine with slot 3 of die 0, queue 0 holding fire tokens, and the page in the copy engine's cache. -/
def stSlot (c : CSlot) (q : List Tok) (r : Bool) : State :=
  { stMem (cx 0x10040) { p0 := some pl1, bufs := [(vKey 1, { toks := [tokD] })] } (slotBytes 64) with
    dies := [(0, { slots := [(3, c)], fireq := [(0, q)], ctlb := [pg .normal true r] })] }

/-- A fire token with index 2. -/
def tokF : Tok := ⟨mkHdr 0 1 0 0, false, lanesOf fun i => if i = 0 then 2 else 0⟩

theorem wit_CopyWords :
    (let s := stSlot slotA [] true; Runs s (.cparm 4 1 5) (cx 0x10040) ∧ s.outstanding 0 = false ∧ 0x10040 % 64 = 0
      ∧ s.ownRead 0 (cx 0x10040) 0x10040 128 = .ok (slotBytes 64) ∧ (doublesOf 16 (slotBytes 64)) = (slotOf 0 0 64).tpl ∧ s.slot? 0 5 = none
      ∧ s.cparmStatus 0 5 (slotOf 0 0 64) = 3 ∧ s.cparmStatus 0 5 (slotOf 1 0 64) = 0 ∧ s.cparmStatus 0 5 (slotOf 1 0 2) = 1)
    ∧ wit (.cparm 4 1 5) (cx 0x10020) {} (fun s c => s.outstanding 0 = false ∧ (c.r 1).toNat % 64 ≠ 0)
    ∧ (∀ p ∈ [(0, 0, true), (16, 0, true), (0, 1, false)], let c := cx (BitVec.ofNat 64 p.2.1) 2; let s : State := { stSlot slotA (List.replicate p.1 tokF) true with ctxs := [(0, c)] }
      Runs s (.cpfire 4 1 2) c ∧ s.outstanding 0 = false ∧ (s.tile 0).region ≠ 0 ∧ s.serves 0 p.2.1 1 = p.2.2 ∧ (s.fireq 0 0).length = p.1)
    ∧ (∀ i ∈ [Instr.cpstat 4 1 3, .cpres 4 3, .cpkill 4 3], ∀ x ∈ [slotA, { slotA with st := 3 }, { slotA with region := 2 }], let s := stSlot x [] true
      Runs s i (cx 0x10040) ∧ s.slot? 0 3 = some x ∧ s.slot? 0 4 = none ∧ (s.tile 0).region = 1 ∧ s.slotBusy 0 3 = false) := by
  simp only [wit_st, Runs]; decide +kernel

/-- A firing of the slot, without or with its second piece's read sent. -/
def firOf (issued : List Nat) (low : Nat) : CopyFir := { k := 0, tok := tokF, issued := issued, low := low }
def slotFir (issued : List Nat) (low : Nat) : CSlot := { slotA with st := 2, fir := some (firOf issued low) }

theorem wit_CopySteps :
    (let c := slotOf 0x208000 0 128; let s := stSlot c [] true; s.slot? 0 3 = some c ∧ c.fe = true ∧ c.detFvp = false ∧ c.st ≠ 4 ∧ (s.tile 0).frozen = false
      ∧ s.slotRuns c = true ∧ (s.fireq 0 c.fq).length < 16 ∧ ((s.tile 0).buf (vKey c.fvp)).toks = [tokD])
    ∧ (let s := stSlot slotA [tokF, tokEos] true; s.fireq 0 slotA.fq = [tokF, tokEos] ∧ slotA.st = 1 ∧ s.slotRuns slotA = true ∧ tokF.isMarker = false ∧ tokF.kind = 0
      ∧ slotA.gather = false ∧ tokF.mask = 1)
    ∧ (let c := slotOf 0x10000000 0 128; let s := stSlot c [tokEos] true; s.fireq 0 c.fq = [tokEos] ∧ tokEos.isMarker = true ∧ c.dk = true ∧ c.detVp = false
      ∧ s.canInject c.tile c.vp = true ∧ slotA.dk = false)
    ∧ (let c : CSlot := { slotA with st := 4 }; (stSlot c [] true).slot? 0 3 = some c ∧ c.st = 4 ∧ (stSlot c [] true).slotBusy 0 3 = false) := by decide +kernel

theorem wit_CopySteps_reads :
    (∀ r ∈ [true, false], let c := slotFir [0] 0; let f := firOf [0] 0; let p : Piece := ⟨0, 64, 64⟩; let s := stSlot c [] r
      s.slot? 0 3 = some c ∧ c.st = 2 ∧ c.fir = some f ∧ c.piece? f 1 = some p ∧ c.gather = false ∧ s.copyReadable c f 1 = some 0x10040
      ∧ s.pieceOut 0 3 f.low = none ∧ s.copyTurn 0 3 c 0 = true ∧ 0 < p.n ∧ (0x10040 : W64).toNat % 64 + p.n ≤ 64 ∧ tlbFind (s.htlb (.copy 0)) c.asid 0x10040 = some (pg .normal true r) ∧ (pg .normal true r).r = r
      ∧ ringed s c.asid 0x10040 = false) := by decide +kernel

/-- Another slot of the die whose read was not the last one. -/
theorem wit_CopySteps_turn : (let c := slotFir [0] 0; let s : State := { stSlot c [] true with
        dies := [(0, { slots := [(3, c), (5, c)], lastSlot := 3, ctlb := [pg .normal true true] })] }
      s.slot? 0 3 = some c ∧ c.piece? (firOf [0] 0) 1 = some ⟨0, 64, 64⟩ ∧ s.copyTurn 0 3 c 0 = false) := by decide +kernel

theorem wit_CopySteps_pieces :
    (let c := slotFir [0, 1] 0; let f := firOf [0, 1] 0; let p : Piece := ⟨0, 64, 64⟩; let bs : List Byte := List.replicate 64 7
      let s : State := { stSlot c [] true with reqs := [0, 1].map fun j => { rq .read 64 with agent := .copy 0 3 j 0, st := .performed, dat := bs } }
      f.has 1 = false ∧ s.pieceOut 0 3 1 = none ∧ s.inOrder 0 3 c f 1 = true ∧ c.dk = false ∧ c.tb = 0 ∧ s.pieceData 0 3 c f 1 p = some (bs, false) ∧ (∀ j < 64, c.inSource f (c.rowDst f p.row + BitVec.ofNat 64 p.off + BitVec.ofNat 64 j) = false)
      ∧ c.rowDst f p.row + BitVec.ofNat 64 p.off = 0x18040 ∧ tlbFind (s.htlb (.copy 0)) c.asid 0x18040 = some (pg .normal true true) ∧ ringed s c.asid 0x18040 = false
      ∧ inDevice (0x20000 + (0x18040 - 0x10000)) = false)
    ∧ (let c : CSlot := { slotFir [] 2 with done := 2 }; let s := stSlot c [] true; c.st = 2 ∧ c.piece? (firOf [] 2) 2 = none ∧ s.barsDone 0 3 = true ∧ c.chen = false)
    ∧ (let c : CSlot := { slotOf 0 0x10F00 128 with st := 2, fir := some (firOf [] 2) }; let s := stSlot c [] true; c.done = 0 ∧ c.tb ≠ 0 ∧ c.piece? (firOf [] 2) 2 = none
      ∧ s.copyBarrier 0 c = (s, some (pg .normal true true)) ∧ s.barsDone 0 3 = true) := by decide +kernel

/-- A firing whose pieces go into region port 0, of a gather and of none: its answers have come, and the port takes a token, is full, or is detached. -/
theorem wit_CopySteps_port : ∀ g ∈ [0, 0x2000], ∀ x ∈ [(true, false), (false, false), (true, true)], ∀ pc ∈ [0, 1],
    let c : CSlot := { slotOf (0x10000000 + g) 0 128 with st := 2, fir := some (firOf [0, 1] 0), detVp := x.2 }; let f := firOf [0, 1] 0
    let bs : List Byte := List.replicate 64 (if g = 0 then 7 else 0)
    let s0 := stSlot c [] true
    let s : State := { s0 with
      reqs := [0, 1].map fun j => { rq .read 64 with agent := .copy 0 3 j 0, st := .performed, dat := bs }
      tiles := [(0, { s0.tile 0 with bufs := [(qKey 0 0, { toks := if x.1 then [] else List.replicate 4 tokD })] })] }
    s.slot? 0 3 = some c ∧ c.fir = some f ∧ c.piece? f pc = some ⟨0, 64 * pc, 64⟩ ∧ f.has pc = false ∧ s.inOrder 0 3 c f pc = true ∧ c.dk = true
      ∧ s.pieceOut 0 3 pc = none ∧ s.pieceData 0 3 c f pc ⟨0, 64 * pc, 64⟩ = some (bs, false) ∧ c.gather = decide (g ≠ 0) ∧ f.low = 0
      ∧ s.slotRuns c = true ∧ s.canInject c.tile c.vp = x.1 := by decide +kernel

/-- The write of a gather's zero row. -/
theorem wit_CopySteps_gather : let c : CSlot := { slotOf 0x2000 0 128 with st := 2, fir := some (firOf [] 0) }; let f := firOf [] 0; let p : Piece := ⟨0, 0, 64⟩; let s := stSlot c [] true
    c.gather = true ∧ c.piece? f 0 = some p ∧ f.has 0 = false ∧ s.inOrder 0 3 c f 0 = true ∧ c.dk = false ∧ s.pieceOut 0 3 0 = none
      ∧ s.pieceData 0 3 c f 0 p = some (List.replicate 64 0, false) ∧ (∀ j < 64, c.inSource f (c.rowDst f p.row + BitVec.ofNat 64 p.off + BitVec.ofNat 64 j) = false)
      ∧ c.rowDst f p.row + BitVec.ofNat 64 p.off = 0x18000 ∧ tlbFind (s.htlb (.copy 0)) c.asid 0x18000 = some (pg .normal true true) ∧ ringed s c.asid 0x18000 = false := by
  decide +kernel

/-- A barrier whose page the engine's cache holds and allows. -/
theorem copyBarrier_hit {s : State} {d : Nat} {c : CSlot} {e : TlbEnt} (h : tlbFind (s.htlb (.copy d)) c.asid c.tb = some e)
    (hc : pageCheck e .store true = none) (hk : e.kind = .normal) : s.copyBarrier d c = (s, some e) := by
  simp [State.copyBarrier, engTranslate, h, hc, hk]

/-- The same after its second piece's write has been sent, with a barrier whose page the cache holds or lacks. -/
def slotTb (tb : W64) : CSlot := { slotOf 0 tb 128 with st := 2, fir := some (firOf [0, 1] 0) }
def rqCopy (x : ReqSt) : Req := { rq .write 64 with agent := .copy 0 3 1 0, st := x }
def stCopied (x : ReqSt) (tb : W64) : State := { stSlot (slotTb tb) [] true with reqs := [rqCopy x] }

theorem wit_CopySteps_performed : ∀ x ∈ [ReqSt.issued, .performed], ∀ n ∈ [0, 0x10F00, 0x30F00],
    (stCopied x (BitVec.ofNat 64 n)).slot? 0 3 = some (slotTb (BitVec.ofNat 64 n)) ∧ (slotTb (BitVec.ofNat 64 n)).piece? (firOf [0, 1] 0) 1 = some ⟨0, 64, 64⟩ ∧ (slotTb (BitVec.ofNat 64 n)).gather = false
    ∧ (firOf [0, 1] 0).has 1 = false ∧ (stCopied x (BitVec.ofNat 64 n)).pieceOut 0 3 1 = some (rqCopy x) ∧ (rqCopy x).st = x ∧ (n = 0 ↔ (slotTb (BitVec.ofNat 64 n)).tb = 0) := by decide +kernel

theorem wit_CopySteps_barrier : (tlbFind ((stCopied .performed 0x10F00).htlb (.copy 0)) 0 (slotTb 0x10F00).tb = some (pg .normal true true)
      ∧ pageCheck (pg .normal true true) .store true = none ∧ (slotTb 0x10F00).asid = 0 ∧ ringed (stCopied .performed 0x10F00) 0 0x10F00 = false)
    ∧ ((stCopied .performed 0x30F00).copyBarrier 0 (slotTb 0x30F00)).2 = none := by decide +kernel

/-- A firing of which all is performed, an update being owed; and one whose barrier has no page. -/
theorem wit_CopySteps_owed : (∀ n ∈ [0, 2], let c : CSlot := { slotOf 0 0x10F00 128 with st := 2, fir := some (firOf [] 2), owed := n }; let s := stSlot c [] true
      c.done = 0 ∧ c.tb ≠ 0 ∧ c.piece? (firOf [] 2) 2 = none ∧ s.barsDone 0 3 = true ∧ s.copyBarrier 0 c = (s, some (pg .normal true true)) ∧ ringed s c.asid c.tb = false ∧ c.owed = n)
    ∧ (let c : CSlot := { slotOf 0 0x10F00 128 with st := 2, fir := some (firOf [] 2) }; let s := { stSlot c [] true with dies := [(0, { slots := [(3, c)], ctlb := [pg .normal false true] })] }
      s.slot? 0 3 = some c ∧ c.st = 2 ∧ c.piece? (firOf [] 2) 2 = none ∧ c.piece? (firOf [] 2) (firOf [] 2).low = none ∧ c.done = 0 ∧ c.tb ≠ 0 ∧ (s.copyBarrier 0 c).2 = none) := by
  decide +kernel

theorem wit_BarrierWords :
    (∀ i ∈ [Instr.tbinit 3 1 2 2, .tbarr 3 1 2 2, .tbexp 3 1 2 2], wit i (cx 0x10040 0x500000003) (tlPg (pg .normal true false)) (fun s c =>
        checkAtomic s 0 c.asid (c.r 1) 16 true false = .ok (pg .normal true false) ∧ s.loadsOut 0 < 16 ∧ (c.r 2).toNat / 2 ^ 28 % 16 = 0 ∧ s.released 0 2 = true))
    ∧ wit (.tbinit 3 1 2 0) (cx 0x10040 0x10000000) (tlPg (pg .normal true false)) (fun s c =>
        checkAtomic s 0 c.asid (c.r 1) 16 true false = .ok (pg .normal true false) ∧ (c.r 2).toNat / 2 ^ 28 % 16 ≠ 0)
    ∧ (∀ i ∈ [Instr.tbtest 3 1 0, .tbwait 3 1 2 0], wit i (cx 0x10040 5) (tlPg (pg .normal false true)) (fun s c => c.wait = .idle
        ∧ checkAtomic s 0 c.asid (c.r 1) 16 false true = .ok (pg .normal false true) ∧ s.loadsOut 0 < 16))
    ∧ wit (.tbtest 3 1 0) { cx 0x10040 with wait := .access 7 } {} (fun s c => c.wait = .access 7 ∧ ∀ q ∈ s.reqs, q.id ≠ 7)
    ∧ wit (.tbwait 3 1 2 0) { cx 0x10040 with wait := .until 9 } {} (fun s c => c.wait = .until 9 ∧ s.tbWaiting 0 = false)
    ∧ (let c : Ctx := { cxMem with wait := .until 9 }; let q := rq .tbWait 16; let s : State := { st c with reqs := [q], cyc := [(0, 9)] }
      s.ctxAt 0 = some c ∧ (9 : W64).toNat ≤ (s.cycles (islandOf 0)).toNat ∧ s.reqs = [q] ∧ q.agent = .ctx 0 ∧ q.op = .tbWait ∧ q.st = .issued)
    ∧ (∀ x ∈ [(⟨9, 0x10040, 0, 0x20040, 1, 0, 0, 3⟩ : BarUpd), ⟨9, 0x10040, 0, 0x20040, 0, 1, 0, 3⟩, ⟨9, 0x10040, 0, 0x20040, 1, 1, 0, 3⟩],
      let s : State := { st cxMem with bars := [x], mem := Memory.putBytes [] 0x20040 (leBytes 16 (4 * 2 ^ 96 + 3 * 2 ^ 64 + 1 * 2 ^ 32 + 1 * 16 + 15)) }
      s.bars[0]? = some x ∧ s.mem.nat x.pa 16 = 4 * 2 ^ 96 + 3 * 2 ^ 64 + 1 * 2 ^ 32 + 1 * 16 + 15 ∧ x.ds ≤ 1 ∧ x.da ≤ 1 ∧ 0 < x.ds + x.da) := by
  simp only [wit_st]; decide +kernel

/-- A read of TBTEST or TBWAIT at the barrier's home, and an update of a barrier by a port that is up or down. -/
theorem wit_BarrierWords_read : (∀ op ∈ [HomeOp.tbTest, .tbWait], ∀ e ∈ [14, 15],
      let q : Req := { rq op 16 with expect := BitVec.ofNat 64 e }; let s : State := { stRq q with mem := Memory.putBytes [] 0x20008 (leBytes 16 (4 * 2 ^ 96 + 3 * 2 ^ 64 + 1 * 2 ^ 32 + 1 * 16 + 15)) }
      s.req? 7 = some q ∧ q.st = .issued ∧ s.blocked q = false ∧ s.channelStalled q = false ∧ s.cut q = false ∧ q.op = op ∧ q.expect.toNat % 16 = e
      ∧ s.mem.nat q.pa 16 = 4 * 2 ^ 96 + 3 * 2 ^ 64 + 1 * 2 ^ 32 + 1 * 16 + 15)
    ∧ (stDown (rqPeer .issued)).peerDown (rqPeer .issued).pa = true ∧ ({ st cxMem with bars := [⟨9, 0x10040, 0, 0x20040, 1, 0, 0, 3⟩] } : State).peerDown 0x20040 = false := by
  refine ⟨by decide +kernel, ?_, by decide +kernel⟩
  have h : (stDown (rqPeer .issued)).cut (rqPeer .issued) = true := (wit_HomeAccess_cut .issued (by decide)).1
  exact (Bool.and_eq_true_iff.mp h).2

/-- An update of a barrier that waits for one arrival and one sector, or for none: one that takes what is left, and more. -/
theorem wit_BarrierWords_home : ∀ op ∈ [HomeOp.tbInit, .tbArr, .tbExp], ∀ v ∈ [1, 7, 0xFFFFFFF * 2 ^ 32 + 0xFFFFFFFF], ∀ ps ∈ [1, 0],
    let q : Req := { rq op 16 with dat := leBytes 8 v }; let s : State := { stRq q with mem := Memory.putBytes [] 0x20008 (leBytes 16 (4 * 2 ^ 96 + 3 * 2 ^ 64 + ps * 2 ^ 32 + 1 * 16 + 15)) }
    s.req? 7 = some q ∧ q.st = .issued ∧ s.blocked q = false ∧ s.cut q = false ∧ q.n = 16 ∧ leNat q.dat < 2 ^ 64
    ∧ s.mem.nat q.pa 16 = 4 * 2 ^ 96 + 3 * 2 ^ 64 + ps * 2 ^ 32 + 1 * 16 + 15 := by decide +kernel

/-- A plane with region ports 0, 2, 3 and 4 into site 0 and 1, 5, 6 and 7 out of it. -/
def pl4 : Plane :=
  { pl1 with vps := [(0, 0x80000000), (1, 0xC1000000), (2, 0x82000000), (3, 0x83000000), (4, 0x84000000), (5, 0xC5000000), (6, 0xC6000000), (7, 0xC7000000)] }

/-- The descriptors of a Sluice lane over those in ports and of a Spout lane over those out ports. -/
def laneDesc (spout : Bool) : List W64 :=
  if spout then [0x10000, 0x200001000, BitVec.ofNat 64 (1 + 1 * 2 ^ 8 + 5 * 2 ^ 16 + 6 * 2 ^ 24 + 7 * 2 ^ 32), 0x20002, 0, 0, 0, 0]
  else [0x10000, 100, BitVec.ofNat 64 (2 * 2 ^ 32 + 3 * 2 ^ 40 + 4 * 2 ^ 48), 0, 0, 0, 0, 0]
def laneOf (spout : Bool) : Lane := { region := 1, tile := 0, asid := 0, desc := laneDesc spout }
def laneBytes (spout : Bool) : List Byte := (laneDesc spout).flatMap fun v => leBytes 8 v.toNat

/-- The machine with lane 3 of die 0 and bytes at 0x10040. -/
def stLane (c : Ctx) (spout : Bool) (l : Option Lane) (bs : List Byte) (toks : List Tok) : State :=
  { stMem c { p0 := some pl4, bufs := [1, 5, 6, 7].map fun v => (vKey v, { toks := toks }) } bs with
    dies := [(0, { sluice := if spout then [] else (l.map fun x => (3, x)).toList, spout := if spout then (l.map fun x => (3, x)).toList else [] })] }

theorem wit_LaneWords_bind : ∀ p ∈ [(Instr.slbind 4 1 3, false), (.spbind 4 1 3, true)],
    (let s := stLane (cx 0x10040) p.2 none (laneBytes p.2) []; Runs s p.1 (cx 0x10040) ∧ s.outstanding 0 = false ∧ (0x10040 : W64) ≠ 0 ∧ 0x10040 % 64 = 0
      ∧ s.ownRead 0 (cx 0x10040) 0x10040 64 = .ok (laneBytes p.2) ∧ doublesOf 8 (laneBytes p.2) = laneDesc p.2 ∧ s.laneStatus p.2 3 (laneOf p.2) = 0
      ∧ s.lane? 0 p.2 3 = none)
    ∧ (let s := stLane (cx 0x10040) p.2 (some (laneOf p.2)) (laneBytes p.2) []; s.laneStatus p.2 3 (laneOf p.2) = 2 ∧ s.laneStatus p.2 4 (laneOf p.2) = 3)
    ∧ (let l : Lane := { laneOf p.2 with st := 2 }; let s := stLane (cx 0) p.2 (some l) [] []; Runs s p.1 (cx 0) ∧ s.lane? 0 p.2 3 = some l ∧ l.region = (s.tile 0).region)
    ∧ (let s := stLane (cx 0x10020) p.2 none [] []; Runs s p.1 (cx 0x10020) ∧ s.outstanding 0 = false ∧ 0x10020 % 64 ≠ 0) := by
  simp only [Runs]; decide +kernel

/-- A template without sequence part, of one bit. -/
def tplT : List Byte := leBytes 72 (2 ^ 16 + 2 ^ 32) ++ [0x80]

theorem wit_LaneWords :
    (∀ v ∈ [0, 1, 2, 3], ∀ p ∈ [(Instr.slstat 4 1 3, false), (.spstat 4 1 3, true)], ∀ h ∈ [1, 2],
      let l : Lane := { laneOf p.2 with region := h }; let c := cx (BitVec.ofNat 64 v); let s := stLane c p.2 (some l) [] []
      Runs s p.1 c ∧ s.lane? 0 p.2 3 = some l ∧ s.lane? 0 (!p.2) 3 = none ∧ (l.region = (s.tile 0).region ↔ h = 1) ∧ c.lvl = false ∧ (c.r 1).toNat % 4 = v)
    ∧ (∀ h ∈ [1, 2], let l : Lane := { laneOf false with region := h, open_ := true }; let s := stLane cxMem false (some l) [] []; Runs s (.slrel 4 3) cxMem
      ∧ s.outstanding 0 = false ∧ s.lane? 0 false 3 = some l ∧ l.st ≠ 3 ∧ s.lane? 0 false 4 = none)
    ∧ (let s := stLane (cx 0x10040) true (some (laneOf true)) tplT []; Runs s (.sphdr 4 1 3) (cx 0x10040) ∧ s.outstanding 0 = false
      ∧ s.ownRead 0 (cx 0x10040) 0x10040 72 = .ok (tplT.take 72) ∧ tplLegal (tplT.take 72 ++ List.replicate 4096 0) = true
      ∧ 72 + tplSeq (tplT.take 72) + tplPic (tplT.take 72) = 73 ∧ s.ownRead 0 (cx 0x10040) 0x10040 73 = .ok tplT ∧ s.lane? 0 true 3 = some (laneOf true))
    ∧ (let s := stLane (cx 0x10040) true (some (laneOf true)) [] []; s.ownRead 0 (cx 0x10040) 0x10040 72 = .ok (List.replicate 72 0)
      ∧ tplLegal (List.replicate 72 0 ++ List.replicate 4096 0) = false)
    ∧ (∀ v ∈ [0, 0xFFFFFFFF0FFF], wit (.warpset 4 1) (cx (BitVec.ofNat 64 v)) {} (fun _ c => bits64 (c.r 1) 63 48 = 0 ∧ bits64 (c.r 1) 15 12 = 0))
    ∧ (∀ v ∈ [0x1000, 0x1000000000000], wit (.warpset 4 1) (cx (BitVec.ofNat 64 v)) {} (fun _ c => bits64 (c.r 1) 63 48 ≠ 0 ∨ bits64 (c.r 1) 15 12 ≠ 0)) := by
  simp only [wit_st, Runs]; decide +kernel

/-- A sequence header that AVC supports, the headers of a 16 × 16 picture of one row under it, and a coding block. -/
def seqH : SeqHead := ⟨.avcHigh, 8, true, false, false⟩
def picH (used : Nat) : PicHead := ⟨seqH, 0, 4, 4, 4, 7, 26, [], [], true, [], used⟩
def blk : Block := ⟨8, 8, false, [5, 0, 40000]⟩
/-- A leaf in the picture's corner; a Sluice lane whose first 50 bytes have come; the machine with such a lane and its page. -/
def leafD (p : Pred) : LeafData := ⟨0, 0, 1, 1, p, 26, true, [blk], true, 20⟩
def laneGot (o : Bool) : Lane := { laneOf false with open_ := o, head := some (picH 10), asked := 64, answered := 64 }
/-- The same of a codec. -/
def laneCodec (n : Nat) : Lane := { laneOf false with desc := (laneDesc false).set 2 (BitVec.ofNat 64 n) }
def stSl (l : Lane) : State := stLane cxMem false (some l) [] []

theorem wit_SluiceSteps :
    (let l := laneGot false; (stSl l).lane? 0 false 3 = some l ∧ 3 < 16 ∧ l.outq = [] ∧ l.st = 1 ∧ (stSl l).laneRuns l = true ∧ 10 ≤ l.answered ∧ l.bad = []
      ∧ l.off < l.len ∧ l.nfr = 0 ∧ (stSl l).latched l.tile = false ∧ l.off ≤ 10 ∧ 10 ≤ l.len ∧ seqSupported (picH 10).seq l.codec = true
      ∧ seqSupported { seqH with fields := true } l.codec = false) := by decide +kernel

theorem wit_SluiceSteps_leaf :
    (let l := laneGot true; l.open_ = true ∧ (leafD (.intra .avcDc)).used ≤ l.answered ∧ l.off ≤ 20 ∧ 20 ≤ l.len ∧ l.head = some (picH 10) ∧ l.rows < picRows (picH 10)
      ∧ l.chroma = false ∧ l.planes.length = 1 ∧ l.parsed (picH 10) (0, 0) = false ∧ l.codec = 0
      ∧ (l.motion (leafD (.intra .avcDc)).pred).bind id = some { mode := 0 }
      ∧ l.motion (.inter (.avc true) (some ⟨3, 4, some 2⟩) none) = some none ∧ (leafD (.intra .avcDc)).blocks = [blk] ∧ blockSats blk = 1) := by decide +kernel

/-- A lane of each codec, of which the mode tables speak. -/
theorem wit_SluiceSteps_modes : ∀ n ∈ [0, 1, 2], (laneCodec n).codec = n := by decide +kernel

theorem wit_SluiceSteps_ends :
    (let l : Lane := { laneGot true with rows := 1, seen := [(squareKey (0, 0), 16)] }; picRows (picH 10) ≤ l.rows ∧ l.codec ≠ 2 ∧ l.whole (picH 10) = true)
    ∧ (∀ k ∈ [0, 1], let l : Lane := { laneGot false with asked := 100, answered := 100, pics := k }; (stSl l).streamNeed 0 3 ≤ l.answered)
    ∧ (∀ o ∈ [true, false], let l : Lane := { laneGot o with bad := [(0, 64)] }; l.outq = [] ∧ 30 ≤ l.answered ∧ l.head = some (picH 10) ∧ 1 ≤ picRows (picH 10) ∧ (picH 10).w4 ≤ 2 ^ 18
      ∧ l.lost (picH 10) [(0, 0), (7, 7)] = [(0, 0)] ∧ ∃ b ∈ l.bad, b.1 < 30) := by decide +kernel

theorem wit_SluiceSteps_owes :
    (let l : Lane := { laneOf false with outq := [(0, tokD), (2, tokEos)] }; l.outq = [(0, tokD), (2, tokEos)] ∧ (stSl l).laneRuns l = true
      ∧ (stSl l).canInject l.tile 0 = true ∧ tokD.isMarker = false)
    ∧ (∀ mid ∈ [true, false], let l : Lane := { laneOf false with outq := [(0, mkMarker 0x10 0 false), (2, mkMarker 0x10 0 false)], mid := mid }
      let s : State := { stSl l with regions := [(1, { rg with latched := true })] }; s.latched l.tile = true ∧ (mkMarker 0x10 0 false).isMarker = true
      ∧ (mkMarker 0x10 0 false).index = 0x10 ∧ l.mid = mid ∧ s.laneRuns l = true ∧ s.canInject l.tile 0 = true) := by decide +kernel

theorem wit_SluiceSteps_reads :
    (∀ r ∈ [true, false], let l := laneOf false; let s := (stSl l).hadd (.engine 0 35) { pg .normal true true with r := r }
      s.lane? 0 false 3 = some l ∧ l.answered < 50 ∧ s.laneRead? 0 3 = none ∧ l.asked < 50 ∧ l.asked < l.len ∧ l.nextRead = (0x10000, 64)
      ∧ tlbFind (s.htlb (.engine 0 (32 + 3))) l.asid 0x10000 = some { pg .normal true true with r := r } ∧ ringed s l.asid 0x10000 = false)
    ∧ (let l : Lane := { laneOf false with asked := 64 }; let q : Req := { rq .read 64 with agent := .lane 0 false 3 0, st := .performed }
      ({ stSl l with reqs := [q] } : State).laneRead? 0 3 = some q ∧ l.answered < 50 ∧ q.st = .performed ∧ q.failed = false)
    ∧ (let l : Lane := { laneOf false with asked := 64 }; let q : Req := { rq .read 64 with agent := .lane 0 false 3 0, st := .performed, failed := true }
      ({ stSl l with reqs := [q] } : State).laneRead? 0 3 = some q ∧ q.failed = true) := by decide +kernel

/-- SOT, and a leaf with a mode code; a Spout lane with its template, in a picture or not. -/
def tokSot : Tok := mkMarker 0x10 0 false
def tokLeaf (mode : Nat) : Tok :=
  ⟨mkHdr 0 3 5 0, false, lanesOf fun i => if i = 0 then BitVec.ofNat 32 (1 * 2 ^ 5 + 1 * 2 ^ 2) else if i = 1 then BitVec.ofNat 32 (mode * 2 ^ 26) else 0⟩
def laneSp (o : Bool) : Lane := { laneOf true with open_ := o, tpl := some tplT }

theorem wit_SpoutSteps :
    (∀ p ∈ [(false, tokSot, 0x10), (true, mkMarker 2 0 false, 2), (false, tokEos, 3)],
      let l : Lane := { laneSp p.1 with nextTpl := some tplT }; let s := stLane cxMem true (some l) [] [p.2.1]
      s.lane? 0 true 3 = some l ∧ l.st = 1 ∧ s.laneRuns l = true ∧ (s.tile l.tile).frozen = false ∧ (l.tpl.isSome = true ∨ l.nextTpl.isSome = true)
      ∧ l.out = [] ∧ l.fin = false ∧ s.spConsume 0 3 l = none ∧ tileDie l.tile = 0 ∧ l.open_ = p.1 ∧ (∀ i < 4, s.spMark l i p.2.2 = true) ∧ l.spoutPorts.Nodup) := by decide +kernel

theorem wit_SpoutSteps_leaf :
    (∀ p ∈ [(0, true), (63, false)], let l : Lane := { laneSp true with side := some tokD }
      let s : State := (stLane cxMem true (some l) [] []).updTile 0 fun tl => { tl with bufs := [(vKey 1, { toks := [tokLeaf p.1] }), (vKey 5, { toks := [mkMarker 0 0 false] }),
        (vKey 6, { toks := [tokD] })] }
      s.lane? 0 true 3 = some l ∧ s.spConsume 0 3 l = none ∧ s.spHead l 0 = some (tokLeaf p.1) ∧ s.spHead l 1 = some (mkMarker 0 0 false) ∧ s.spHead l 2 = some tokD
      ∧ (mkMarker 0 0 false).isMarker = true ∧ (mkMarker 0 0 false).index = 0 ∧ (tokLeaf p.1).kind = 5 ∧ tokD.kind = 0 ∧ (l.codes (tokLeaf p.1) tokD).isSome = p.2) := by decide +kernel

theorem wit_SpoutSteps_token :
    (let l := laneSp true; let s : State := (stLane cxMem true (some l) [] []).updTile 0 fun tl => { tl with bufs := [(vKey 5, { toks := [tokD] })] }
      s.spConsume 0 3 l = none ∧ s.spHead l 1 = some tokD ∧ tokD.isMarker = false)
    ∧ (let l : Lane := { laneSp true with desc := (laneDesc true).set 2 0 }; l.blockLegal 0 0 1 = true ∧ l.pos ≤ l.order 0 0 ∧ l.av1 = false ∧ l.toks = [] ∧ ((tokLeaf 0).lanes.at 0).toNat / 32 % 8 = 1
      ∧ ((tokLeaf 0).lanes.at 0).toNat / 4 % 8 = 1 ∧ ((tokLeaf 0).lanes.at 0).toNat % 4 = 0)
    ∧ (let l := laneSp true; l.av1 = true ∧ l.blockLegal 0 0 1 = true ∧ l.pos ≤ l.order 0 0 ∧ l.toks = [] ∧ av1Mode 26 = 26 ∧ av1Mode 27 ≠ 27)
    ∧ (∀ n ∈ [10, 5000], let l := laneSp true; l.slotsz < 8 + (pictureBytes l tplT l.pics (List.replicate (8 * n) true)).length ↔ n = 5000) := by decide +kernel

theorem wit_SpoutSteps_writes :
    (let l : Lane := { laneSp false with out := [(0x10000, [1, 2])], fin := true }; let s := (stLane cxMem true (some l) [] []).hadd (.engine 0 51) (pg .normal true true)
      l.out = [(0x10000, [1, 2])] ∧ (0x10000 : W64).toNat % 64 + 2 ≤ 64 ∧ tlbFind (s.htlb (.engine 0 (48 + 3))) l.asid 0x10000 = some (pg .normal true true)
      ∧ ringed s l.asid 0x10000 = false)
    ∧ (∀ b ∈ [true, false], let l : Lane := { laneSp false with fin := true }
      let s : State := { stLane cxMem true (some l) [] [] with reqs := if b then [{ rq .write 2 with agent := .lane 0 true 3 1 }] else [] }
      l.out = [] ∧ l.fin = true ∧ s.spWriting 0 3 = b ∧ l.fireq true = none)
    ∧ (let l : Lane := { laneSp false with desc := (laneDesc true).set 2 (BitVec.ofNat 64 (5 * 2 ^ 48 + 1 * 2 ^ 40)) }; l.fireq true = some 5) := by decide +kernel

/-- A pip with its basin, in domain 2, and the domain of dies 0 and 1, with a ring of 4096 bytes a die where `lg` is 12. -/
def pipAt (id basin : Nat) (x : PipAt) : Pip := { id := id, w := [BitVec.ofNat 64 (basin * 2 ^ 48 + 0x21), 0, 0, 0], at_ := x, tile := 0 }
def dmn (lg : Nat) (ps : List Pip) : Domain :=
  { desc := [BitVec.ofNat 64 (lg * 2 ^ 40 + 2), if lg = 0 then 0 else 0x10000, 0, 0, 0, 0, 0, 0], asid := 0, pkgs := [0], here := 0, dies := [0, 1], master := 0
    pips := ps, members := [1] }

/-- A tile with a pip record of basin 9 at local address 0x40; the machine with that domain, its region a member of it. -/
def tlRec : Tile := Tile.seWrite {} 0x40 (pipBytes (pipAt 0 9 (.visible 0)).w)
def stDom (c : Ctx) (m : Domain) : State :=
  { st c tlRec with regions := [(1, { rg with domain := some 2 })], domains := [(2, m)], pages := [pg .normal true true], nextId := 50 }

theorem wit_PipWords_push :
    (let s := stDom (cx 0x40) (dmn 0 []); Runs s (.wpush 4 1 0) (cx 0x40) ∧ (cx 0x40).wait = .idle ∧ checkLocal s 0 0x40 32 32 = none
      ∧ s.casc 0 = some (2, dmn 0 [], 0) ∧ s.cascOf 0 2 = some (2, dmn 0 [], 0) ∧ s.cascTakes 2 (dmn 0 []) 0 = true ∧ s.released 0 0 = true ∧ (cx 0x40).holds = [] ∧ s.unsettled 50 = false
      ∧ (∀ x ∈ s.domains, ∀ q ∈ x.2.pips, q.id ≠ 50)
      ∧ basinOf 0 (acceptWord 0 0 (setField ((pipOfBytes ((s.tile 0).seBytes 0x40 32)).getD 0 0) 7 4 2)) = 9 ∧ ((dmn 0 []).at 0).t = 0)
    ∧ ((dmn 0 []).setAt 0 { t := 10 }).at 0 = { t := 10 } ∧ (stDom (cx 0x40) ((dmn 0 []).setAt 0 { t := 10 })).casc 0 = some (2, (dmn 0 []).setAt 0 { t := 10 }, 0)
    ∧ (∀ w ∈ [Wait.release 2, .told 2], let c : Ctx := { cx 0x40 with wait := w }; Runs (stDom c (dmn 0 [])) (.wpush 4 1 0) c ∧ checkLocal (stDom c (dmn 0 [])) 0 0x40 32 32 = none
      ∧ ({ stDom c (dmn 0 []) with domains := [] } : State).dom? 2 = none)
    ∧ (let c : Ctx := { cx 0x40 with wait := .push 7 }; Runs (stDom c (dmn 0 [])) (.wpush 4 1 0) c ∧ (stDom c (dmn 0 [])).unsettled 7 = false)
    ∧ wit (.wpush 4 1 0) (cx 0x40) {} (fun s c => c.wait = .idle ∧ checkLocal s 0 (c.r 1) 32 32 = none ∧ s.casc 0 = none)
    ∧ wit (.wpush 4 1 0) (cx 0x44) {} (fun s c => c.wait = .idle ∧ checkLocal s 0 (c.r 1) 32 32 = some 2) := by
  simp only [wit_st, Runs]; decide +kernel

/-- A context that holds pip 7 pushes, below the threshold and not. -/
theorem wit_PipWords_effects : ∀ t ∈ [0, 10], let m := (dmn 0 [pipAt 7 9 (.held 0)]).setAt 0 { t := t }; let c : Ctx := { cx 0x40 with holds := [(0, 7)] }; let s := stDom c m
    Runs s (.wpush 4 1 0) c ∧ checkLocal s 0 0x40 32 32 = none ∧ c.wait = .idle ∧ s.casc 0 = some (2, m, 0) ∧ s.cascTakes 2 m 0 = true ∧ s.released 0 0 = true
      ∧ s.unsettled 50 = false ∧ (∀ x ∈ s.domains, x.2.lg = 0 ∧ ∀ q ∈ x.2.pips, q.id ≠ 50) ∧ s.ctxAt 0 = some c ∧ s.dom? 2 = some m := by
  simp only [Runs]; decide +kernel

/-- A store that is full: its chip holds `n` pips. -/
def fullDom (n : Nat) : Domain := dmn 0 (List.replicate n (pipAt 7 9 (.visible 0)))

theorem wit_PipWords_full : ∀ n, 8192 ≤ n → (stDom (cx 0x40) (fullDom n)).cascTakes 2 (fullDom n) 0 = false := by
  intro n hn
  have h : (fullDom n).chip 0 = n := by
    simp only [Domain.chip, fullDom, dmn, List.filter_replicate, show (pipAt 7 9 (.visible 0)).onChip 0 = true from rfl]; simp
  have h2 : (stDom (cx 0x40) (fullDom n)).chipAll (fullDom n) 0 = n := by
    simp only [State.chipAll, stDom, st, State.reset]
    simp [show (fullDom n).here = 0 from rfl, show (fullDom n).local 0 = 0 from rfl, h]
  have h3 : (fullDom n).lg = 0 := by simp [Domain.lg, fullDom, dmn]; try decide
  have h4 : (fullDom n).ringFree 0 = false := by simp [Domain.ringFree, h3]
  have h5 : (stDom (cx 0x40) (fullDom n)).victim 2 (fullDom n) 0 = none := by
    simp [State.victim, stDom, st, h4]
  simp only [State.cascTakes, h2, h4, h5, chipSlots]
  simpa using hn

/-- A context that holds pip 7 under index 0. -/
def cxHold (v : W64) : Ctx := { cx v 0 with holds := [(0, 7)] }

theorem wit_PipWords_pop : ∀ i ∈ [Instr.wpop 4 1 1, .wtry 4 1 1],
      (let m := dmn 0 [pipAt 7 0 (.visible 0), pipAt 8 0 (.visible 0), pipAt 9 0 (.visible 1)]; let s := stDom (cxHold 0x40) m
        Runs s i (cxHold 0x40) ∧ checkLocal s 0 0x40 32 32 = none ∧ (cxHold 0x40).holds.length < 4 ∧ s.casc 0 = some (2, m, 0) ∧ m.term = false
        ∧ s.interrupted 0 (cxHold 0x40) = false ∧ m.lowestPoppable 0 ≠ [] ∧ (m.pips.map fun q => q.id).Nodup ∧ (∀ q ∈ m.pips, q.at_ ≠ .ring 0)
        ∧ SMap.get? (cxHold 0x40).holds 1 = none ∧ (SMap.get? (cxHold 0x40).holds 0).isSome = true ∧ (cxHold 0x40).wait = .idle)
      ∧ (let m : Domain := { dmn 0 [] with term := true }; (stDom (cx 0x40) m).casc 0 = some (2, m, 0) ∧ m.term = true)
      ∧ (let m := dmn 0 [pipAt 7 9 (.visible 0)]; (stDom (cx 0x40) m).casc 0 = some (2, m, 0) ∧ m.lowestPoppable 0 = [] ∧ m.term = false)
:= by
  simp only [Runs]; decide +kernel

theorem wit_PipWords_waits : ∀ i ∈ [Instr.wpop 4 1 1, .wtry 4 1 1],
      (let c : Ctx := { cx 0x40 with wait := .pop 2 }; Runs (stDom c (dmn 0 [])) i c ∧ (stDom c (dmn 0 [])).cascOf 0 2 = some (2, dmn 0 [], 0)
        ∧ ({ stDom c (dmn 0 []) with domains := [] } : State).dom? 2 = none)
      ∧ (let c : Ctx := { cx 0x40 with wait := .told 5 }; Runs (stDom c (dmn 0 [])) i c ∧ c.wait = .told 5) := by
  simp only [Runs]; decide +kernel

/-- A pip that stands in the ring alone: its access is lost or not, as the free value says, and always where the page is gone. -/
theorem wit_PipWords_ring : ∀ i ∈ [Instr.wpop 4 1 1, .wtry 4 1 1], let p := pipAt 7 0 (.ring 0); let m := dmn 12 [p]; let s := stDom (cx 0x40) m
    Runs s i (cx 0x40) ∧ checkLocal s 0 0x40 32 32 = none ∧ s.casc 0 = some (2, m, 0) ∧ m.term = false ∧ m.lowestPoppable 0 = [p] ∧ m.ring 0 = [p] ∧ m.pips = [p]
    ∧ s.interrupted 0 (cx 0x40) = false ∧ (s.ringSlot m 0 (m.ringIx 0 7)).isSome = true ∧ (({ s with pages := [] } : State).ringSlot m 0 (m.ringIx 0 7)).isSome = false := by
  simp only [Runs]; decide +kernel

theorem wit_PipWords_refused :
    (∀ i ∈ [Instr.wpop 4 1 1, .wtry 4 1 1], (let c : Ctx := { cx 0x40 with holds := [(0, 1), (1, 2), (2, 3), (3, 4)] }; Runs (stDom c (dmn 0 [])) i c ∧ c.wait = .idle
        ∧ checkLocal (stDom c (dmn 0 [])) 0 0x40 32 32 = none ∧ 4 ≤ c.holds.length)
      ∧ wit i (cx 0x40) {} (fun s c => c.wait = .idle ∧ checkLocal s 0 (c.r 1) 32 32 = none ∧ s.casc 0 = none)
      ∧ wit i (cx 0x44) {} (fun s c => c.wait = .idle ∧ checkLocal s 0 (c.r 1) 32 32 = some 2))
    ∧ (let c : Ctx := { cx 0x40 with pend := [⟨0x20, 0, 0⟩] }; let s := stDom c (dmn 0 []); Runs s (.wpop 4 1 1) c ∧ s.casc 0 = some (2, dmn 0 [], 0) ∧ s.interrupted 0 c = true)
:= by
  simp only [wit_st, Runs]; decide +kernel

theorem wit_PipWords_done :
    (∀ i ∈ [Instr.wdone 4 2 0, .wdoneF 4 2 0, .wpromo 4 1 2], let m := dmn 0 [pipAt 7 9 (.held 0)]; let c := cxHold 5; let s := stDom c m
      Runs s i c ∧ SMap.get? c.holds ((c.r 2).toNat % 4) = some 7 ∧ s.domOf 7 = some (2, m) ∧ s.dom? 2 = some m ∧ m.pip? 7 = some (pipAt 7 9 (.held 0)) ∧ s.released 0 0 = true
      ∧ s.unsettled 50 = false ∧ (∀ x ∈ s.domains, ∀ q ∈ x.2.pips, q.id ≠ 50) ∧ (pipAt 7 9 (.held 0)).word0.toNat % 4 = 1
      ∧ (pipAt 7 9 (.held 0)).word0.toNat / 256 % 4 < 3 ∧ c.wait = .idle ∧ SMap.get? (cx 5 0).holds ((c.r 2).toNat % 4) = none
      ∧ ({ s with domains := [] } : State).domOf 7 = none)
:= by
  simp only [Runs]; decide +kernel

theorem wit_PipWords_promo :
    (let p := pipAt 7 9 (.held 0); let q := p.setWord0 (setField p.word0 63 48 5); ¬ ((dmn 0 []).basin q < (dmn 0 []).basin p ∧ (dmn 0 []).basin q < ((dmn 0 []).at 0).t)
      ∧ (dmn 0 []).basin q < (dmn 0 []).basin p ∧ (dmn 0 []).basin q < (((dmn 0 []).setAt 0 { t := 6 }).at 0).t)
    ∧ (let c : Ctx := { cxHold 5 with wait := .promo 7 3 }; Runs (stDom c (dmn 0 [])) (.wpromo 4 1 2) c ∧ c.wait = .promo 7 3 ∧ (stDom c (dmn 0 [])).unsettled 7 = false) := by
  simp only [Runs]; decide +kernel

/-- The domain's descriptor as bytes, and the machine whose region is in a domain or in none, with it at 0x10040. -/
def domBytes : List Byte := (dmn 0 []).desc.flatMap fun v => leBytes 8 v.toNat
def stJoin (dom : Option Nat) (ds : SMap Domain) (bs : List Byte) : State :=
  { stMem (cx 0x10040) {} bs with regions := [(1, { rg with domain := dom })], domains := ds }

theorem wit_DomainWords_floor :
    (∀ i ∈ [Instr.wfloor 4, .wfloorR 4, .wdomQuery 4, .wstat 4 1, .wdrain 4 0], Runs (stDom (cx 0) (dmn 0 [])) i (cx 0) ∧ (cx 0).wait = .idle
        ∧ (stDom (cx 0) (dmn 0 [])).casc 0 = some (2, dmn 0 [], 0) ∧ (stDom (cx 0) (dmn 0 [])).interrupted 0 (cx 0) = false ∧ (dmn 0 []).term = false
      ∧ wit i (cx 0) {} (fun s _ => s.casc 0 = none))
    ∧ (∀ k ∈ [2, 3], let c : Ctx := { cx 0 with wait := .round 2 3 }; let m : Domain := { dmn 0 [] with rounds := k }
      Runs (stDom c m) (.wfloorR 4) c ∧ (stDom c m).cascOf 0 2 = some (2, m, 0) ∧ c.wait = .round 2 3 ∧ (3 ≤ m.rounds ↔ k = 3))
    ∧ (∀ w ∈ [Wait.round 2 3, .told 7], let c : Ctx := { cx 0 with wait := w }; Runs { stDom c (dmn 0 []) with domains := [] } (.wfloorR 4) c
      ∧ ({ stDom c (dmn 0 []) with domains := [] } : State).dom? 2 = none)
    ∧ (∀ w ∈ [Wait.drain 2, .told 0], let c : Ctx := { cx 0 with wait := w }; Runs (stDom c (dmn 0 [])) (.wdrain 4 0) c ∧ (stDom c (dmn 0 [])).dom? 2 = some (dmn 0 []))
    ∧ (let c : Ctx := { cx 0 with wait := .drain 2 }; Runs { stDom c (dmn 0 []) with domains := [] } (.wdrain 4 0) c
      ∧ ({ stDom c (dmn 0 []) with domains := [] } : State).dom? 2 = none)
:= by
  simp only [wit_st, Runs]; decide +kernel

theorem wit_DomainWords_join :
    (∀ p ∈ [((none : Option Nat), ([] : SMap Domain)), (none, [(2, dmn 0 [])]), (some 3, []), (none, [(2, { dmn 0 [] with desc := [2] })])], let s := stJoin p.1 p.2 domBytes
      Runs s (.wdomJoin 4 1) (cx 0x10040) ∧ s.regionOf 0 = some (1, { rg with domain := p.1 }) ∧ 0x10040 % 64 = 0 ∧ s.ownRead 0 (cx 0x10040) 0x10040 64 = .ok domBytes
      ∧ domLegal s.hub.pkg.toNat domBytes = true ∧ bits64 (imgDouble domBytes 0) 3 0 = 2 ∧ s.dom? 2 = SMap.get? p.2 2)
:= by
  simp only [Runs]; decide +kernel

/-- WDOM waits for its descriptor, issued by a member of a domain or not; and another context holds a pip of the domain. -/
theorem wit_DomainWords_waits :
    (∀ o ∈ [none, some 2], ∀ ds ∈ [[], [(2, dmn 0 [])]], let c : Ctx := { cx 0x10040 with wait := .own, dom0 := o }; let s : State := { stJoin none ds domBytes with ctxs := [(0, c)] }
      Runs s (.wdomJoin 4 1) c ∧ s.regionOf 0 = some (1, rg) ∧ s.ownRead 0 c 0x10040 64 = .ok domBytes ∧ c.wait ≠ .idle ∧ c.dom0 = o ∧ rg.domain = none)
    ∧ (let m := dmn 0 [pipAt 7 9 (.held 0)]; let y := cxHold 5; let s : State := { stDom (cx 0) m with ctxs := [(0, cx 0), (256, y)] }
      Runs s (.wdomLeave 4) (cx 0) ∧ s.dom? 2 = some m ∧ s.ctxAt 256 = some y ∧ y.holds ≠ [] ∧ (∀ z ∈ s.regionCtxs { rg with domain := some 2 }, z.2.holds = [])
      ∧ (m.members.filter fun y => y != 1) = []) := by
  simp only [Runs]; decide +kernel

theorem wit_DomainWords_leave :
    (dmn 0 []).desc = doublesOf 8 domBytes ∧ ({ dmn 0 [] with desc := [2] } : Domain).desc ≠ doublesOf 8 domBytes ∧ domLegal 0 (leBytes 64 (2 ^ 46)) = false
    ∧ wit (.wdomJoin 4 1) (cx 0x10020) {} (fun _ c => (c.r 1).toNat % 64 ≠ 0)
    ∧ (let s := stDom (cx 0) (dmn 0 []); Runs s (.wdomLeave 4) (cx 0) ∧ s.regionOf 0 = some (1, { rg with domain := some 2 }) ∧ s.dom? 2 = some (dmn 0 [])
      ∧ ∀ y ∈ s.regionCtxs { rg with domain := some 2 }, y.2.holds = [])
    ∧ wit (.wdomLeave 4) (cx 0) {} (fun s _ => s.regionOf 0 = some (1, rg) ∧ rg.domain = none)
    ∧ (∀ v ∈ [0, 1, 2, 3, 4, 5], (cx (BitVec.ofNat 64 v)).r 1 = BitVec.ofNat 64 v) := by
  simp only [wit_st, Runs]; decide +kernel

/-- A domain in a master state, with messages and a share of die 0. -/
def dmSt (x : MasterSt) (sh : DomDie) (ps : List Pip) : Domain :=
  { dmn 0 ps with st := x, lows := [(7, 0)], acks := [(7, 0)], floor := 8, share := [(0, sh)] }

theorem wit_FloorSteps :
    (∀ x ∈ [MasterSt.rest, .collecting, .spreading, .lowering 7 0 true], ∀ b ∈ [5, 9], let m := dmSt x {} [pipAt 7 b (.pending 0)]; let s := stDom cxMem m
      s.dom? 2 = some m ∧ m.lows = [(7, 0)] ∧ m.pip? 7 = some (pipAt 7 b (.pending 0)) ∧ m.st = x ∧ (m.basin (pipAt 7 b (.pending 0)) < m.floor ↔ b = 5)
      ∧ m.acks = [(7, 0)] ∧ m.lg = 0 ∧ (∀ y ∈ m.dies, (m.at y).setf = none))
    ∧ (let m := dmSt (.lowering 7 0 true) { setf := some 5 } []; (m.at 0).setf = some 5 ∧ ∃ x ∈ m.dies, (m.at x).setf ≠ none)
    ∧ (pipAt 7 9 (.held 0)).at_ = .held 0 ∧ (dmSt .rest {} [pipAt 7 9 (.held 0)]).pip? 7 = some (pipAt 7 9 (.held 0))
    ∧ (let m : Domain := { dmSt .rest {} [pipAt 7 9 (.visible 0)] with lastRound := 0 }; let s : State := { stDom cxMem m with cyc := [(53, 1024)] }
      m.st = .rest ∧ (∃ q ∈ m.pips, ∃ x ∈ m.dies, q.visibleAt x = true) ∧ m.lastRound.toNat + 1024 ≤ (s.masterNow m).toNat)
    ∧ (let m := dmSt .collecting { query := true } []; (m.at 0).query = true)
    ∧ (let m := dmSt .collecting { reply := some 5 } []; m.st = .collecting ∧ (m.at 0).reply = some 5 ∧ (m.at 0).query = false
      ∧ ∀ x ∈ m.dies, x ≠ 0 → (m.at x).query = false ∧ (m.at x).reply = none)
    ∧ (let m := (dmSt .collecting { reply := some 5 } []).setAt 1 { query := true }; m.st = .collecting ∧ (m.at 0).reply = some 5 ∧ ∃ x ∈ m.dies, (m.at x).query = true) := by
  decide +kernel

/-- The domain's pips on the move to die 1, and a machine whose context waits in WPOP. -/
def pipMv : Pip := { pipAt 7 9 (.moving 0 1) with src := some 0 }
def stPop (m : Domain) (w : Wait) : State := let c : Ctx := { cxMem with wait := w }; { stDom c m with ctxs := [(0, c), (256, c)] }

theorem wit_BalanceSteps :
    (let m := dmn 0 []; let s := stPop m (.pop 2); s.dom? 2 = some m ∧ (m.pips.map fun q => q.id).Nodup ∧ (m.at 0).asks = [] ∧ (m.at 0).askedAll = [] ∧ m.poppable 0 = []
      ∧ m.askOrder 0 = [1] ∧ s.domWaiters m 0 (fun w => w == .pop 2) ≠ 0 ∧ (m.at 0).askedAt = none)
    ∧ (let m := (dmn 0 [pipAt 7 0 (.visible 1), pipAt 8 0 (.visible 1)]).setAt 0 { asks := [1] }; 1 ∈ (m.at 0).asks ∧ (∀ q ∈ m.pips, q.at_ ≠ .ring 1)
      ∧ (m.pips.map fun q => q.id).Nodup)
    ∧ (∀ t ∈ [9, 10], let m := (dmn 0 [pipMv]).setAt 1 { t := t }; let s := stPop m .idle; (m.pips.filterMap fun q => match q.at_ with
        | .moving _ b => some (q, b)
        | _ => none)[0]? = some (pipMv, 1) ∧ s.cascTakes 2 m 1 = true ∧ (m.basin (pipMv.setWord0 (setField pipMv.word0 3 2 (1 % 4))) < (m.at 1).t ↔ t = 10) ∧ m.lg = 0)
    ∧ (let m : Domain := { (dmn 0 []).setAt 0 { idle1 := some (0, 0) } with pass1 := true }; let m := m.setAt 1 { idle1 := some (0, 0) }; let s := stPop m (.pop 2)
      m.term = false ∧ m.pass1 = true ∧ ∀ x ∈ m.dies, s.domIdle m x = true ∧ (m.at x).idle1 = some ((m.at x).p, (m.at x).r))
    ∧ (let m : Domain := { dmn 0 [pipAt 7 9 (.held 0)] with pass1 := true }; ∃ x ∈ m.dies, ¬ (stPop m (.pop 2)).domIdle m x = true)
    ∧ (let m := dmn 0 []; let s := stPop m (.drain 2); m.pass1 = false ∧ (∀ x ∈ m.dies, s.domIdle m x = true) ∧ s.domWaits 2 m = true ∧ m.lastTerm = none ∧ ∀ x ∈ m.dies, x / 4 = m.here)
    ∧ (let m := dmn 0 []; let s := stPop m .idle; (∀ x ∈ m.dies, s.domIdle m x = true) ∧ s.domWaits 2 m = false)
    ∧ (let m := dmn 0 [pipAt 7 9 (.held 0)]; m.pass1 = false ∧ ∃ x ∈ m.dies, ¬ (stPop m (.pop 2)).domIdle m x = true)
    ∧ (let m := dmn 12 [pipAt 7 64 (.visible 0)]; let s := stPop m .idle; m.highest 0 = some (pipAt 7 64 (.visible 0)) ∧ m.ringFree 0 = true
      ∧ (m.at 0).f + 63 < m.basin (pipAt 7 64 (.visible 0)) ∧ s.ringSlot m 0 (m.spilled 0) = some 0x20000
      ∧ ({ s with pages := [] } : State).ringSlot m 0 (m.spilled 0) = none)
    ∧ (let m := dmn 12 [pipAt 7 63 (.ring 0)]; let s := stPop m .idle; m.highest 0 = none ∧ m.lowest 0 = some (pipAt 7 63 (.ring 0))
      ∧ m.basin (pipAt 7 63 (.ring 0)) ≤ (m.at 0).f + 63 ∧ s.chipAll m 0 < 8192 ∧ m.ringIx 0 7 = 0 ∧ m.spilled 0 = 1 ∧ (s.ringSlot m 0 0).isSome = true
      ∧ ({ s with pages := [] } : State).ringSlot m 0 0 = none) := by decide +kernel

/-- A context of group 2; the machine of a region `r` whose tile 0 runs it. -/
def cxG : Ctx := { cx 5 with group := some 2 }
def stReg (c : Ctx) (tl : Tile) (r : Region) : State := { st c tl with regions := [(1, r)] }
def ctr0 : Contract := { frames := false, tile := 0, vp := 1, p := 4, b := 3, start := 0, began := true, num := 0, left := 2, ovr := 0 }

theorem wit_GroupWords_group :
    wit (.gjoin 3 1) (cx 5) {} (fun s c => c.group = none ∧ s.regionOf s.cur.toNat = some (1, rg))
    ∧ wit (.gjoin 3 1) cxG {} (fun s c => c.group ≠ none ∧ s.regionOf s.cur.toNat = some (1, rg))
    ∧ (∀ i ∈ [Instr.gleave 3, .gbar 3 0, .gsize 3], wit i (cx 5) {} fun _ c => c.group = none)
    ∧ (∀ i ∈ [Instr.gleave 3, .gsize 3], wit i cxG {} fun s c => c.group = some 2 ∧ s.regionOf s.cur.toNat = some (1, rg))
    ∧ wit (.segend 3) (cx 5) {} (fun _ _ => True) ∧ (∀ i ∈ [Instr.ctract 3 0, .ctract 3 3], wit i (cx 5) {} fun s _ => s.regionOf s.cur.toNat = some (1, rg) ∧ rg.contract = none)
    ∧ (∀ i ∈ [Instr.ctract 3 0, .ctract 3 1, .ctract 3 2, .ctract 3 3], let s := stReg (cx 5) {} { rg with contract := some ctr0 }
      Runs s i (cx 5) ∧ s.regionOf s.cur.toNat = some (1, { rg with contract := some ctr0 })) := by
  simp only [wit_st, Runs]; decide +kernel

theorem wit_GroupWords_gbar :
    (∀ sc ∈ [(0 : BitVec 2), 1], wit (.gbar 3 sc) cxG {} (fun s c => c.wait = .idle ∧ s.interrupted s.cur.toNat c = false ∧ s.released s.cur.toNat sc.toNat = true
        ∧ c.pendingMember = false ∧ c.group = some 2 ∧ s.regionOf s.cur.toNat = some (1, rg))
      ∧ wit (.gbar 3 sc) { cxG with pend := [⟨0x20, 0, 0⟩] } {} (fun s c => c.wait = .idle ∧ s.interrupted s.cur.toNat c = true)
      ∧ wit (.gbar 3 sc) { cxG with pendingMember := true } {} (fun s c => c.wait = .idle ∧ c.pendingMember = true ∧ s.interrupted s.cur.toNat c = false
        ∧ s.released s.cur.toNat sc.toNat = true)
      ∧ wit (.gbar 3 sc) { cxG with wait := .arrived, pend := [⟨0x20, 0, 0⟩] } {} (fun s c => s.interrupted s.cur.toNat c = true ∧ c.wait = .arrived ∧ s.allArrived rg 2 = false)
      ∧ wit (.gbar 3 sc) { cxG with wait := .episode } {} (fun _ c => c.wait = .episode))
    ∧ (let r := { rg with gArr := [2] }; let c : Ctx := { cxG with wait := .arrived, arrivedAt := true, pend := [⟨0x20, 0, 0⟩] }; let s := stReg c {} r
      Runs s (.gbar 3 0) c ∧ s.regionOf 0 = some (1, r) ∧ s.interrupted 0 c = true ∧ s.allArrived r 2 = true ∧ s.region? 1 = some r)
    ∧ (stReg cxG {} rg).allArrived rg 2 = false := by
  simp only [wit_st, Runs]; decide +kernel

theorem wit_GroupWords_park :
    wit (.park 3 1) (cx 0) {} (fun _ c => c.r 1 = 0)
    ∧ (∀ p ∈ [(tlVe [] [], true, false), ({ tlVe [] [] with bufs := [(vKey 1, { toks := [tokD] })] }, false, true), (tlVe [] [], false, false)],
      wit (.park 3 1) { cx 2 with pend := if p.2.1 then [⟨0x20, 0, 0⟩] else [] } p.1 fun s c => (c.r 1).toNat = 2 ∧ s.parkable 0 1 = true
        ∧ s.interrupted 0 c = p.2.1 ∧ ((s.tile 0).buf (vKey 1)).toks.isEmpty = !p.2.2)
    ∧ wit (.park 3 1) (cx 1) (tlVe [] []) (fun s c => (c.r 1).getLsbD 0 = true ∧ s.parkable 0 0 = false ∧ c.wait ≠ .park)
    ∧ wit (.park 3 1) { cx 1 with wait := .park } (tlVe [] []) (fun s c => (c.r 1).getLsbD 0 = true ∧ s.parkable 0 0 = false ∧ c.wait = .park
        ∧ s.interrupted 0 c = false) := by
  simp only [wit_st]; decide +kernel

/-- A context at the monitor level. -/
def cxLvl (v g : W64) : Ctx := { cx v g with lvl := true }
def inv0 (acks : List Nat) : Inval := ⟨9, none, 0, 0x1000, acks, acks, []⟩
def tok0 (cause : BitVec 16) (stage : Nat) (asks : Bool) : FaultTok := ⟨cause, 0x55, 0x1000, 0, 1, stage, asks, 5⟩

theorem wit_SystemWords_traps :
    (cx 5).lvl = false ∧ (cx 5).isRoot = false ∧ (cxLvl 5 0).lvl = true ∧ (cxLvl 5 0).isRoot = false
    ∧ wit (.trap 1) (cx 5) {} (fun s c => c.lvl = false ∧ c.isRoot = false ∧ s.loadsOut 0 = 0 ∧ s.regionOf 0 = some (1, rg) ∧ 0 ∈ rg.tiles)
    ∧ wit (.trap 1) (cxLvl 5 0) {} (fun _ c => c.lvl = true)
    ∧ wit (.sysc 3 1) (cx 5) {} (fun s c => c.lvl = false ∧ c.isRoot = false ∧ c.wait = .idle ∧ s.outstanding 0 = false)
    ∧ wit (.sysc 3 1) (cxLvl 5 0) {} (fun s c => c.lvl = true ∧ c.wait = .idle ∧ s.outstanding 0 = false)
    ∧ wit (.sysc 3 1) { cxLvl 5 0 with wait := .answered 7 } {} (fun _ c => c.wait = .answered 7)
    ∧ wit .halt (cx 5) {} (fun s c => s.storesOut 0 = 0 ∧ c.group = none) ∧ wit .halt cxG {} (fun s c => s.storesOut 0 = 0 ∧ c.group ≠ none ∧ s.regionOf 0 = some (1, rg))
    ∧ (Runs (stRq (rq .write 8)) .halt cxMem ∧ (stRq (rq .write 8)).storesOut 0 ≠ 0)
    ∧ wit .eret (cxLvl 5 0) {} (fun _ c => c.isRoot = false) := by
  simp only [wit_st, Runs]; decide +kernel

theorem wit_SystemWords_root : ∀ q ∈ [RootReq.sysc 3 1 4 0x40, .fault (tok0 0x22 1 true)], (let c : Ctx := { cxLvl 5 0 with isRoot := true }; let s : State := { st c with roots := [(0, q)] }
      Runs s .eret c ∧ c.isRoot = true ∧ SMap.get? s.roots (tileDie 0) = some q ∧ s.outstanding 0 = false)
    ∧ (let c : Ctx := { cxLvl 5 0 with isRoot := true }; let s : State := { st c with roots := [(0, q)], reqs := [rq .write 8] }
      Runs s .eret c ∧ s.outstanding 0 = true ∧ SMap.get? s.roots (tileDie 0) = some q)
    ∧ aborting ((tok0 0x22 1 true).cause.toNat % 256) = false ∧ aborting ((tok0 0x1 1 true).cause.toNat % 256) = true := by
  simp only [Runs]; decide +kernel

/-- A suspension of a copy slot whose page a host homes, and one whose page none does. -/
theorem wit_SystemWords_settled : ∀ b ∈ [true, false], let f : FaultTok := { tok0 0x31 0 true with tval := 0x10040, asid := 0 }
    let c : Ctx := { cxLvl 5 0 with isRoot := true }; let s : State := { st c with roots := [(0, .fault f)], pages := [{ pg .normal true true with pa := if b then 0x20000 else 0x40000000000000 }] }
    Runs s .eret c ∧ c.isRoot = true ∧ SMap.get? s.roots (tileDie 0) = some (.fault f) ∧ s.settledHere f = b ∧ (aborting (f.cause.toNat % 256) && f.asks) = false := by
  simp only [Runs]; decide +kernel

theorem wit_SystemWords_double :
    (stReg (cxLvl 5 0) {} rg).regionOf 0 = some (1, rg) ∧ (cxLvl 5 0).lvl = true ∧ (cxLvl 5 0).isRoot = false ∧ 0 ∈ rg.tiles
    ∧ (let r := { rg with w := 2 }; let s : State := { stReg (cxLvl 5 0) {} r with ctxs := [(0, cxLvl 5 0), (1, cx 5)] }; (1, cx 5) ∈ s.regionCtxs r ∧ (cx 5).halted = false
      ∧ (cx 5).pend = []) := by decide +kernel

theorem wit_SystemWords_inval :
    (∀ i ∈ [Instr.invr 1 2, .inva 1], wit i (cxLvl 0x1000 1) {} (fun s c => (c.r 1).toNat % 4096 = 0 ∧ (c.r 2).toNat / 2 ^ 45 % 8 = 0 ∧ s.outstanding 0 = false ∧ c.wait = .idle)
      ∧ (∀ a ∈ [[], [0, 3]], let c : Ctx := { cxLvl 0x1000 1 with wait := .flush 9 }; let s : State := { st c with invals := [inv0 a] }
        Runs s i c ∧ c.wait = .flush 9 ∧ s.invals.find? (fun y => y.id == 9) = some (inv0 a) ∧ (inv0 a).acks = a))
    ∧ wit (.invr 1 2) (cxLvl 0x1008 1) {} (fun _ c => c.wait = .idle ∧ (c.r 1).toNat % 4096 ≠ 0)
    ∧ wit (.invr 1 2) (cxLvl 0x1000 0x200000000000) {} (fun _ c => c.wait = .idle ∧ (c.r 1).toNat % 4096 = 0 ∧ (c.r 2).toNat / 2 ^ 45 % 8 ≠ 0) := by
  simp only [wit_st, Runs]; decide +kernel

/-- The root core of die 0, ready or not, in the machine of `stReg`, with the pages of two ASIDs. -/
def rootC (ready : Bool) : Ctx := { Ctx.root with tvset := ready, tvec := 0x4000 }
def pg5 : TlbEnt := { pg .normal true true with asid := 5 }
def stRoot (c : Ctx) (r : Region) (ready : Bool) : State := { stReg c {} r with ctxs := [(0, c), (255, rootC ready)], pages := [pg5, pg .normal true true] }
def rgRec : Region := { rg with recVa := 0x10040, faults := [tok0 0x22 2 true] }

theorem wit_FaultTree_tokens :
    (∀ st ∈ [0, 1, 2], ∀ b ∈ [false, true], let s : State := { stRoot cxMem rgRec b with ftoks := [tok0 0x22 st true] }
      s.ftoks[0]? = some (tok0 0x22 st true) ∧ tileDie 0 = 0 ∧ s.rootReady 0 = b ∧ s.region? 1 = some rgRec)
    ∧ (let s := stRoot cxMem rgRec false; rgRec.recVa.toNat % 64 = 0 ∧ walkTables s rgRec.asid rgRec.recVa = some pg5 ∧ ringed s rgRec.asid rgRec.recVa = false
      ∧ pg5.phys rgRec.recVa = 0x20040 ∧ populated 0x20040 = true ∧ populated 0x2007F = true ∧ inDevice 0x20040 = false)
    ∧ (∀ k ∈ [3, 7, 0x10, 0x20, 0x21, 0x22, 0x23, 1, 2, 4, 5, 6, 8, 0x34], ∀ b ∈ [false, true], let f := tok0 (BitVec.ofNat 16 k) 2 b
      let s : State := { stRoot cxMem rgRec false with ftoks := [f] }
      s.ftoks[0]? = some f ∧ f.stage = 2 ∧ f.asks = b ∧ f.cause.toNat % 256 = k ∧ s.region? f.region = some rgRec ∧ ({ s with regions := [] } : State).region? f.region = none)
    ∧ (let s : State := { stRoot cxMem rgRec false with ftoks := [tok0 0x22 3 true] }; s.ftoks[0]? = some (tok0 0x22 3 true) ∧ (tok0 0x22 3 true).stage = 3
      ∧ s.region? 1 = some rgRec) := by
  decide +kernel

theorem wit_FaultTree_ends :
    (∀ p ∈ [(0x22, 4), (0x30, 2), (0x31, 2), (0x33, 2)], ∀ fs ∈ [[], [tok0 0x22 2 true], [tok0 0x31 2 true]], let f := tok0 (BitVec.ofNat 16 p.1) p.2 true
      let r : Region := { rg with faults := fs }; let s : State := { stRoot cxMem r false with ftoks := [f] }
      s.ftoks[0]? = some f ∧ f.stage = p.2 ∧ f.asks = true ∧ f.cause.toNat % 256 = p.1 ∧ s.region? f.region = some r ∧ r.faults = fs)
    ∧ (stRoot cxMem rg false).region? 1 = some rg ∧ (stRoot cxMem rg false).region? 9 = none
    ∧ (∀ x ∈ [RegionSt.running, .saved], let r := { rg with st := x }; let s := stRoot cxMem r false; s.region? (tok0 0x22 1 true).region = some r ∧ r.st = x ∧ (tok0 0x22 1 true).tile ∈ r.tiles
      ∧ s.ctxAt (tok0 0x22 1 true).tile = some cxMem) := by
  decide +kernel

theorem wit_FaultTree_root :
    (∀ q ∈ [RootReq.fault (tok0 0x22 1 true), .sysc 0 1 3 0x10040, .sysc 0 1 3 0x10044, .sysc 0 1 3 0x80000], let s : State := { stRoot cxMem rg true with rootq := [(0, q)] }
      SMap.get? s.roots 0 = none ∧ s.rootReady 0 = true ∧ s.ctxAt 255 = some (rootC true) ∧ s.rootq = [(0, q)] ∧ s.region? 1 = some rg ∧ s.ctxAt 0 = some cxMem)
    ∧ ((stRoot cxMem rg true).vBytes 0 0x10040 64).isSome = true ∧ (stRoot cxMem rg true).vBytes 0 0x80000 64 = none
    ∧ (let s : State := { stRoot cxMem rg true with roots := [(0, .fault (tok0 0x22 1 true))] }; SMap.get? s.roots 0 ≠ none) ∧ (stRoot cxMem rg false).rootReady 0 = false
    ∧ (∀ q ∈ [RootReq.answer 0 1 3 7, .sysc 0 1 3 0, .sysc 0 1 3 0x10040], ∀ c ∈ [{ cxMem with wait := .answer }, { cxMem with awaiting := true, tcause := 0x11 }],
      let s : State := { stRoot c rg false with rootq := [(0, q)] }
      s.rootq = [(0, q)] ∧ s.rootReady 0 = false ∧ s.ctxAt 0 = some c ∧ c.halted = false ∧ (s.tile 0).region = 1) := by decide +kernel

/-- An invalidation on its way to tile 0, which waits for request 7. -/
def inv1 (todo : List Nat) : Inval := ⟨9, some 0, 0, 0x20000, todo, [0], [(0, [7])]⟩
/-- A plane that its image gives, and a tile that reads it again. -/
def plImg : Plane := { planeOf img 0x10040 0 with sig := crc64 (imgOf 0) }
def tlRe (re : Option EccWhere) : Tile := { p0 := some plImg, p1 := none, epoch := false, reload := re }

/-- A reload that matches or does not; other faults of the region that are open; and another tile that reloads. -/
theorem wit_FaultUnits_reload :
    (∀ b ∈ [true, false], let s : State := { stMem cxMem (tlRe (some (.plane false 0))) (if b then img else imgOf 1) with pages := [pg5] }
      s.regionOf 0 = some (1, rg) ∧ (s.tile 0).reload = some (.plane false 0) ∧ (s.tile 0).plane (s.tile 0).epoch = some plImg
      ∧ s.reread rg.asid plImg.addr 28 plImg.sig = (if b then some img else none) ∧ s.openFaults 1 rg = [])
    ∧ (∀ k ∈ [0x22, 3], let f := tok0 (BitVec.ofNat 16 k) 2 true; let s : State := { stMem cxMem (tlRe (some (.plane false 0))) img with ftoks := [f] }
      s.openFaults 1 rg = [f] ∧ f.cause.toNat % 256 = k ∧ f.tile = 0)
    ∧ (let s : State := { st cxMem (tlRe (some (.plane false 0))) with tiles := [(0, tlRe (some (.plane false 0))), (1, tlRe (some (.plane false 0)))] }
      1 ∈ ({ rg with w := 2 } : Region).tiles ∧ (s.tile 1).reload ≠ none) := by decide +kernel

theorem wit_FaultUnits :
    (let s : State := { st cxMem with invals := [inv1 [0]] }; s.invals.find? (fun y => y.id == 9) = some (inv1 [0]) ∧ 0 ∈ (inv1 [0]).todo ∧ (inv1 [0]).names 0 = true)
    ∧ (let s : State := { stRq { rq .read 8 with st := .performed } with invals := [inv1 []] }; s.invals.find? (fun y => y.id == 9) = some (inv1 []) ∧ 0 ∉ (inv1 []).todo
      ∧ ∀ i ∈ SMap.getD (inv1 []).wait 0 [], s.onItsWay i = false)
    ∧ (let s : State := { stRq (rq .read 8) with invals := [inv1 []] }; ∃ i ∈ SMap.getD (inv1 []).wait 0 [], s.onItsWay i = true)
    ∧ (let s := st cxMem (tlRe none); s.regionOf 0 = some (1, rg) ∧ (s.tile 0).reload = none ∧ (s.tile 0).struck (.plane false 0) = true ∧ 0 ∈ rg.tiles)
    ∧ (∀ n ∈ [9, 10, 11], let r : Region := { rg with quiet := n, idle := n }; let c : Ctx := { cxMem with qwc := 10, wdog := 10 }; let s := stReg c {} r
      s.region? 1 = some r ∧ r.st = .running ∧ r.frozen = false ∧ s.ctxAt r.sw = some c ∧ c.qwc.toNat = 10 ∧ c.wdog.toNat = 10)
    ∧ inDevice 0x3F000000010 = true ∧ isCounter ((0x3F000000010 - 0x3F000000000) / 8) = true := by decide +kernel

/-- A command of queue 1, with the doubles behind its first; and the machine with it at the head of die 0's conduit. -/
def cmdOf (code : Nat) (ds : List W64) : Cmd := ⟨1, 0, 3, (BitVec.ofNat 64 (code + 0x77 * 2 ^ 32) :: ds) ++ List.replicate (7 - ds.length) 0⟩
def stCmd (c : Cmd) (r : Region) (jset : Bool := true) : State :=
  let s := stRoot cxMem r false
  { s with dies := [(0, { cmds := [c] })], hub := { s.hub with jset := jset } }
/-- An image with one variant of two words. -/
def kimg : List Byte :=
  leBytes 4 0x4B494D47 ++ leBytes 4 1 ++ leBytes 4 136 ++ List.replicate 52 0 ++ leBytes 4 0x101 ++ leBytes 4 0 ++ leBytes 4 128 ++ leBytes 4 8 ++ List.replicate 48 0
    ++ leBytes 8 0xF4000002F4000002

theorem wit_HubCommands_launch :
    (∀ v ∈ [0x5000000000, 0x1000500000010, 0x80000000000000], let c := cmdOf 1 [0x10040, BitVec.ofNat 64 v]; let s := stCmd c rg
      (s.die 0).cmds = [c] ∧ c.malformed s.hub = false ∧ c.code = 1 ∧ (c.dbl 2).toNat = v ∧ s.imageAt 5 (c.dbl 1) = none)
    ∧ (let c := cmdOf 1 [0x10040, 0x1000500000010]; let s : State := { stCmd c rg with mem := Memory.putBytes [] 0x20040 kimg }
      c.code = 1 ∧ (c.dbl 2).toNat / 2 ^ 55 = 0 ∧ (c.dbl 2).toNat / 2 ^ 48 % 16 ≠ 0 ∧ (c.dbl 2).extractLsb' 32 16 = 5 ∧ s.imageAt 5 (c.dbl 1) = some [⟨1, 1, 0, leBytes 8 0xF4000002F4000002, [], 64⟩]) := by
  decide +kernel

/-- Each of these commands is refused where it stands before any journal is set. -/
theorem wit_HubCommands_malformed : (∀ k ∈ [1, 2, 3, 4, 5, 6, 8], let c := cmdOf k [1]; let s := stCmd c rg false; (s.die 0).cmds = [c] ∧ c.malformed s.hub = true ∧ c.code = k)
    ∧ (cmdOf 1 [1]).code < 2 ∧ 7 < (cmdOf 8 [1]).code ∧ (stCmd (cmdOf 5 [9]) rg).region? ((cmdOf 5 [9]).dbl 1).toNat = none := by decide +kernel

theorem wit_HubCommands_names :
    (∀ k ∈ [2, 3, 4, 5, 6, 7], ∀ x ∈ [RegionSt.running, .saved, .waiting], let c := cmdOf k [1]; let r := { rg with st := x }; let s := stCmd c r
      (s.die 0).cmds = [c] ∧ c.malformed s.hub = false ∧ c.code = k ∧ s.handleOf c = 1 ∧ s.region? (c.dbl 1).toNat = some r ∧ (s.hub.queue r.queue).owner = (s.hub.queue c.q).owner ∧ r.st = x
      ∧ s.region? ((cmdOf k [9]).dbl 1).toNat = none)
    ∧ (let s : State := stCmd (cmdOf 5 [1]) rg; let s : State := { s with hub := { s.hub with queues := [(1, { cfg := 0x10000 })] } }; (s.hub.queue 0).owner ≠ (s.hub.queue 1).owner)
    ∧ (∀ n ∈ [0, 2], let c := cmdOf 2 [1, 0x10000, 0x10040]; let s : State := { stCmd c rg with tiles := [(0, { region := 1, p0 := some pl1 })], mem := Memory.putBytes [] 0x20040 (descOf n) }
      rg.tileAt 0 0 = some 0 ∧ (c.dbl 2).toNat = 0x10000 ∧ (c.dbl 3).toNat % 32 = 0 ∧ s.vBytes 5 (c.dbl 3) 32 = some (descOf n)
      ∧ ((s.bindPort 0 1 (doublesOf 4 (descOf n)) 5 (some (1, 0x77, 1))).2 = 0 ↔ n = 2))
    ∧ (let c := cmdOf 2 [1, 0x101, 3]; let s := stCmd c rg; rg.tileAt 1 1 = none ∧ (c.dbl 3).toNat % 32 ≠ 0 ∧ s.vBytes 5 0x80000 32 = none) := by decide +kernel

theorem wit_HubCommands_regions :
    rg.domain = none
    ∧ (let c := cmdOf 3 [1, 0x9000000000021]; let s : State := { stCmd c { rg with domain := some 2 } with domains := [(2, dmn 0 [])], nextId := 50 }
      s.dom? 2 = some (dmn 0 []) ∧ (dmn 0 []).serving 0 = 0 ∧ s.cascTakes 2 (dmn 0 []) 0 = true ∧ (∀ q ∈ (dmn 0 []).pips, q.id ≠ 50)
      ∧ ((dmn 0 []).at 0).t ≤ basinOf (dmn 0 []).bsh (setField (c.dbl 2) 7 4 2))
:= by decide +kernel

theorem wit_HubCommands_contract :
    (∀ p ∈ [(0, 16, 15, true), (0, 16, 16, false), (0, 0, 0, false)], let c := cmdOf 4 [1, BitVec.ofNat 64 p.1, BitVec.ofNat 64 p.2.1, BitVec.ofNat 64 p.2.2.1]; let s := stCmd c rg
      (c.dbl 2).toNat = 0 ∧ (c.dbl 3).toNat = p.2.1 ∧ (c.dbl 4).toNat = p.2.2.1 ∧ s.admitted 1 rg p.2.2.1 p.2.1 = p.2.2.2)
    ∧ (let c := cmdOf 4 [1, 2]; (c.dbl 2).toNat / 2 % 128 ≠ 0)
:= by decide +kernel

/-- A contract on frames: its port delivers to the element, or is no such port; and it can be admitted, or cannot. -/
theorem wit_HubCommands_frames : ∀ p ∈ [(1, 15), (1, 16), (0x101, 15)], ∀ x ∈ [RegionSt.running, .saved],
    let c := cmdOf 4 [1, BitVec.ofNat 64 p.1, 16, BitVec.ofNat 64 p.2]; let r := { rg with st := x }
    let s : State := { stCmd c r with tiles := [(0, { region := 1, p0 := some pl1 })] }
    c.code = 4 ∧ s.region? (c.dbl 1).toNat = some r ∧ (c.dbl 2).getLsbD 0 = true ∧ (c.dbl 2).toNat / 2 % 128 = 0 ∧ (c.dbl 2).toNat / 2 ^ 14 % 4 = 0 ∧ (c.dbl 2).toNat / 2 ^ 32 = 0
      ∧ (c.dbl 3).toNat = 16 ∧ (c.dbl 4).toNat = p.2 ∧ r.tileAt ((c.dbl 2).toNat / 2 ^ 16 % 256) ((c.dbl 2).toNat / 2 ^ 24 % 256) = some 0
      ∧ (s.tile 0).plane (s.tile 0).epoch = some pl1 ∧ (SMap.get? pl1.vps ((c.dbl 2).toNat / 256 % 64)).map vpOut = some (decide (p.1 = 0x101))
      ∧ s.admitted 1 r (c.dbl 4).toNat (c.dbl 3).toNat = decide (p.2 = 15) := by decide +kernel

/-- The oldest fault that froze the region is settled, alone or with others open; a stray token goes with it. -/
theorem wit_HubCommands_settled :
    (∀ k ∈ [1, 3, 0x10, 0x20, 0x21, 0x22, 0x23, 0x31], ∀ gs ∈ [[], [tok0 7 2 true], [tok0 0x24 2 true], [tok0 0x31 2 true]], let f := tok0 (BitVec.ofNat 16 k) 2 true
      let c := cmdOf 7 [1]; let r := { rg with faults := f :: gs }; let s := stCmd c r
      c.code = 7 ∧ s.region? (c.dbl 1).toNat = some r ∧ c.dbl 2 = 0 ∧ f.cause.toNat % 256 = k ∧ r.faults.erase f = gs
      ∧ (k < 0x30 → r.faults.find? (fun g => decide (g.cause.toNat % 256 < 0x30)) = some f ∧ s.openFaults 1 { r with faults := r.faults.erase f } = gs.filter fun g => decide (g.cause.toNat % 256 < 0x30))
      ∧ r.faults.head? = some f ∧ ∀ y ∈ r.tiles, (s.tile y).reload = none)
    ∧ (let f := tok0 0x22 2 true; let tl : Tile := { tlVe [tokD] [] with region := 1 }; let s : State := { stCmd (cmdOf 7 [1]) { rg with faults := [f] } with tiles := [(0, tl)] }
      s.tile f.tile = tl ∧ f.tval.toNat / 2 ^ 32 % 64 = 0 ∧ f.tval.toNat / 2 ^ 38 % 16 = 0 ∧ (∀ x ∈ (tl.se 0).fifo, x.ep ≠ tl.epoch)
      ∧ (tl.buf (qKey 0 0)).toks.find? (fun x => x.ep == tl.epoch) = some tokD)
    ∧ (∀ v ∈ [0, 1], let c := cmdOf 7 [9, BitVec.ofNat 64 v]; c.code = 7 ∧ (stCmd c rg).region? (c.dbl 1).toNat = none ∧ (c.dbl 2).toNat = v) := by
  decide +kernel

theorem wit_HubCommands_reply :
    (∀ n ∈ [0, 0x31, 0x10], ∀ v ∈ [0, 1, 2], let k : List FaultTok := if n = 0 then [] else [tok0 (BitVec.ofNat 16 n) 2 true]; let c := cmdOf 7 [1, BitVec.ofNat 64 v]; let r := { rg with faults := k }; let s := stCmd c r
      s.region? 1 = some r ∧ (c.dbl 2).toNat = v ∧ r.faults = k ∧ c.code = 7)
    ∧ (∀ y ∈ (stCmd (cmdOf 7 [1]) rg).regionCtxs rg, y.2.pend = [])
    ∧ (∀ y ∈ rg.tiles, ((stCmd (cmdOf 7 [1]) rg).tile y).reload = none)
    ∧ (let s : State := { stCmd (cmdOf 7 [1]) rg with tiles := [(0, tlRe (some (.plane false 0)))] }; ∃ y ∈ rg.tiles, (s.tile y).reload ≠ none) := by decide +kernel

theorem wit_HubCommands_param :
    (∀ p ∈ [(0, 0x80000000000000, true), (2, 0x80000000000000, false), (0, 0x40000000000000, false), (1, 0x40000000000000, true)], let c := cmdOf 8 [BitVec.ofNat 64 p.1, BitVec.ofNat 64 p.2.1]
      let s := stCmd c rg; c.code = 8 ∧ c.malformed s.hub = false ∧ s.hub.ckpt = none ∧ (decide ((c.dbl 1).toNat ≤ 1) && targetOk (c.dbl 1).toNat (c.dbl 2).toNat) = p.2.2 ∧ (∃ x ∈ s.regions, x.2.st = .running)
      ∧ ∀ x ∈ (stCmd c { rg with st := .saved }).regions, x.2.st ≠ .running)
    ∧ (∀ p ∈ [(0, 5, 0), (1, 4096, 0), (1, 4095, 0), (1, 0x80000001, 0), (2, 100, 0), (2, 3000, 0), (2, 3001, 0), (3, 0x1000, 7), (3, 0x1008, 7), (3, 0x1000, 25), (3, 0x4000000000, 7)],
      let c := cmdOf 9 [BitVec.ofNat 64 p.1, BitVec.ofNat 64 p.2.1, BitVec.ofNat 64 p.2.2]; let s := stCmd c rg false
      c.code = 9 ∧ c.malformed s.hub = false ∧ c.dbl 1 = BitVec.ofNat 64 p.1 ∧ (c.dbl 2).toNat = p.2.1 ∧ (c.dbl 3).toNat = p.2.2 ∧ s.hub.jset = false) := by decide +kernel

/-- A hub that serves queue 1 of head 0, its ring of two commands at 0x20000. -/
def hub1 (cfg : W64) (posted : Nat) : Hub :=
  { booted := true, ok := true, jset := true, queues := [(1, { base := 0x20000, cfg := cfg, posted := BitVec.ofNat 32 posted })], pvec := [1], fetches := [(0, 1)] }
def stHub (hb : Hub) (r : Region) : State := { stRoot cxMem r false with hub := hb }

theorem wit_HubSteps_queue :
    (∀ n ∈ [0, 1], let s := stHub (hub1 0x80000001 n) rg; s.hub.booted = true ∧ (s.hub.queue 1).owner = 0 ∧ s.hub.serves 1 = true ∧ ((s.hub.queue 1).fetched ≠ (s.hub.queue 1).posted ↔ n = 1)
      ∧ 1 ∈ s.hub.pvec ∧ s.hub.scan ≤ 1 ∧ (∀ j ∈ s.hub.pvec, s.hub.scan ≤ j → 1 ≤ j) ∧ s.hub.pvec.Pairwise (· < ·) ∧ s.hub.fetches = [(0, 1)]
      ∧ (s.hub.queue 1).base.toNat + 64 * ((s.hub.queue 1).fetched.toNat % 2 ^ (s.hub.queue 1).lg) = 0x20000 ∧ populated 0x20000 = true ∧ populated (0x20000 + 63) = true)
    ∧ (stHub (hub1 1 0) rg).hub.serves 1 = false ∧ ((hub1 0x80010001 0).queue 1).owner = 1
    ∧ (⟨1, 0, 0, doublesOf 8 (List.replicate 64 0)⟩ : Cmd).malformed (hub1 0x80000001 1) = true ∧ (cmdOf 5 [1]).malformed (hub1 0x80000001 1) = false
    ∧ (let h : Hub := { hub1 0x80000001 1 with queues := [(1, { base := 0x4000000000, cfg := 0x80000001, posted := 1 })] }; h.serves 1 = true ∧ populated 0x4000000000 = false) := by
  decide +kernel

/-- A region that waits for tiles, with its image at 0x10040, for dies of a mask. -/
def rgW (dies : Nat) : Region := { rg with st := .waiting, image := 0x10040, dies := dies }
def stPlace (r : Region) (q : Option (Nat × W32 × W64 × W64)) : State :=
  { stHub { hub1 0 0 with ckpt := q } r with tiles := [], ctxs := [], mem := Memory.putBytes [] 0x20040 kimg }

theorem wit_HubSteps_place :
    (let r := rgW 1; let s := stPlace r none; let v : Variant := ⟨1, 1, 0, leBytes 8 0xF4000002F4000002, [], 64⟩
      s.region? 1 = some r ∧ r.st = .waiting ∧ s.imageAt r.asid r.image = some [v] ∧ s.fit 1 r.lp 1 1 (s.openDies 1 r) = some (0, 0, 0) ∧ v.code ≠ [])
    ∧ (let r := rgW 0; let s := stPlace r none; (s.imageAt r.asid r.image).isSome = true ∧ s.fit 1 r.lp 1 1 (s.openDies 1 r) = none)
    ∧ (let r := { rg with st := .saved }; let s := stPlace r none; s.region? 1 = some r ∧ r.st = .saved ∧ r.contract = none ∧ s.fit 1 r.lp r.w r.h (s.restoreDies 1 r) = some (0, 0, 0))
    ∧ (let r := { rg with st := .saved, dies := 0 }; let s := stPlace r none; r.contract = none ∧ s.fit 1 r.lp r.w r.h (s.restoreDies 1 r) = none)
    ∧ (let r := { rg with st := .saved, contract := some ctr0 }; let s := stPlace r none; r.contract ≠ none ∧ s.fitsBack 1 r = true
      ∧ ({ s with tiles := [(0, { region := 2 })], regions := [(1, r), (2, { rg with contract := some ctr0 })] } : State).fitsBack 1 r = false)
    ∧ (∀ b ∈ [true, false], let s := stReg { cxMem with halted := b } {} rg; s.region? 1 = some rg ∧ s.finished 1 rg = b)
    ∧ (∀ b ∈ [true, false], let r := { rg with latched := b }; let s := stReg cxMem {} r; s.region? 1 = some r ∧ s.savePoint 1 r = b)
    ∧ (let s := stPlace rg (some (1, 7, 1, 0x40000000000000)); s.hub.ckpt = some (1, 7, 1, 0x40000000000000) ∧ 0x40000000000000 ≤ (0x40000000000000 : W64).toNat) := by decide +kernel

/-- A launch of a set, of which a part is missing or none is. -/
theorem wit_HubSteps_set : ∀ n ∈ [1, 2], let r : Region := { rgW 1 with set := some (5, n) }; let s := stPlace r none
    s.region? 1 = some r ∧ r.st = .waiting ∧ r.set = some (5, n) ∧ (rgW 1).set = none
      ∧ ((s.regions.filter fun x => x.2.st == .waiting && x.2.set == some (5, n)).length < n ↔ n = 2) := by decide +kernel

/-- A checkpoint over CXL, whose ports are up or down, and one to a peer. -/
theorem wit_HubSteps_target : ∀ p ∈ [(1, 0x40000000000000, 1, false), (1, 0x40000000000000, 0, true), (0, 0x80000000000000, 0, false), (0, 0x80000000001000, 0, true)],
    let s := stPlace rg (some (1, 7, BitVec.ofNat 64 p.1, BitVec.ofNat 64 p.2.1)); let s : State := { s with hub := { s.hub with up := BitVec.ofNat 4 p.2.2.1 } }
    s.hub.ckpt = some (1, 7, BitVec.ofNat 64 p.1, BitVec.ofNat 64 p.2.1) ∧ s.targetFault p.1 p.2.1 = p.2.2.2 ∧ 0x40000000000000 ≤ p.2.1 ∧ Memory.wf s.mem := by decide +kernel

/-- A region with a contract, in its cycle `n`. -/
def stCtr (k : Contract) (n : Nat) : State := { stReg cxMem {} { rg with contract := some k } with cyc := [(0, BitVec.ofNat 64 n)], mhz := [(0, 100)] }

theorem wit_HubSteps_contract :
    (∀ k ∈ [ctr0, { ctr0 with frames := true, due := some 4 }, { ctr0 with frames := true }], ∀ n ∈ [3, 4, 5], let s := stCtr k n; let r := { rg with contract := some k }
      s.region? 1 = some r ∧ r.contract = some k ∧ r.island = 0 ∧ s.cycles r.island = BitVec.ofNat 64 n ∧ k.start + BitVec.ofNat 64 k.p = 4 ∧ s.contracted 0 = true
      ∧ s.clock 0 = 100 ∧ r.st = .running ∧ k.out = false)
    ∧ (stCtr ctr0 3).overCap (stCtr ctr0 3).contracted = false ∧ 2930 ≤ (stCtr ctr0 3).hub.cap
    ∧ ({ ctr0 with out := true }).out = true ∧ (stReg cxMem {} rg).contracted 0 = false ∧ (stReg cxMem {} rg).contracted 1 = false := by decide +kernel

theorem wit_HubSteps_cycle :
    (stReg cxMem {} rg).powered 0 = true ∧ (stReg cxMem {} rg).behind 0 = false ∧ ({ stReg cxMem {} rg with mhz := [(0, 0)] } : State).powered 0 = false
    ∧ (stCtr { ctr0 with out := true } 4).behind 0 = true ∧ rg.island = 0 ∧ (stReg cxMem {} rg).powered 1 = true ∧ (stReg cxMem {} rg).behind 1 = false ∧ ({ rg with st := .saved } : Region).st ≠ .running ∧ (stReg cxMem {} rg).clock 0 = 2400 := by decide +kernel

/-- A hub after start-up. -/
def hubB (live up : Nat) (done : Bool) : Hub := { hub1 0 0 with live := BitVec.ofNat 4 live, up := BitVec.ofNat 4 up, done := done }

theorem wit_HostSteps_head :
    (∀ b ∈ [true, false], (hubB 1 1 b).booted = true ∧ (hubB 1 1 b).done = b ∧ (hubB 1 1 b).gen.length = 4)
    ∧ (∀ v ∈ [2, 0x10002, 0], (hubB 1 1 true).gen.getD (v % 4) 0 = 0 ∧ (v = 2 ↔ ((0 : BitVec 16) = (BitVec.ofNat 64 v).extractLsb' 16 16 ∧ (hubB 1 1 true).live.getLsbD (v % 4) = false ∧ v % 4 ≠ 0)))
    ∧ ((hubB 1 1 true).queue 5).owner = 0 ∧ ((hubB 1 1 true).queue 5).owner ≠ (1 : BitVec 2).toNat ∧ 5 < 4096
    ∧ (hubB 1 1 true).read 0 0x1028 = some 0 ∧ (hubB 1 1 true).read 0 0x120 = some 0
    ∧ (hubB 3 3 true).up &&& ~~~(BitVec.ofNat 4 (2 ^ 0)) ≠ 0 ∧ (hubB 1 1 true).up ≠ 0 ∧ (hubB 1 1 true).up &&& ~~~(BitVec.ofNat 4 (2 ^ 0)) = 0
    ∧ inDeviceMemory 0x20000 = true ∧ inDeviceMemory (0x20000 + 8 - 1) = true ∧ inDeviceMemory 0x4000000000 = false ∧ inDevice 0x4000000000 = false
    ∧ (State.reset.hub.booted = false) ∧ isCounter (512 * 0 + 0) = true := by decide +kernel

theorem flitGood_zero : flitGood (List.replicate 256 0) = true := by
  have h : ∀ n, crc64 (List.replicate n 0) = 0 := by
    intro n
    induction n with
    | zero => rfl
    | succ n ih => rw [crc64, List.replicate_succ, List.foldl_cons, show crcByte 0 0 = 0 by decide]; exact ih
  have d : imgDouble (List.replicate 256 0) 248 = 0 := by
    rw [imgDouble, List.drop_replicate, List.take_replicate]; decide
  rw [flitGood, List.take_replicate, h, d, List.length_replicate]; rfl

theorem wit_HostSteps_ports :
    flitGood (List.replicate 256 0) = true ∧ flitGood [] = false
    ∧ (∀ p ∈ [({} : Port), { wait := true }, { fails := 16 }, { wait := true, fails := 16 }], let h : Hub := { hubB 1 1 true with ports := [(3, p)] }; SMap.getD h.ports 3 {} = p ∧ p.down = false ∧ 3 < 36) :=
  ⟨flitGood_zero, by decide +kernel, by decide +kernel⟩

/-- A port whose lane 0 awaits the flit 0 or another; and a start-up, of which either its images verify or they do not. -/
theorem wit_HostSteps_lanes :
    (∀ w ∈ [true, false], let p : Port := { wait := w, fails := 15 }; SMap.get? p.rxSeq 0 = none ∧ SMap.get? ({ p with rxSeq := [(0, 65535)] } : Port).rxSeq 0 = some 65535
      ∧ (65535 + 1) % 65536 = 0 ∧ SMap.get? ({ p with rxSeq := [(0, 0)] } : Port).rxSeq 0 = some 0 ∧ p.fails < 16 ∧ p.wait = w)
    ∧ State.reset.hub.booted = false := by decide +kernel

/-- A context that fetches ADDI g4, g0, 84 from its page. -/
def cxFetch (w : Wait) : Ctx := { cxAt 0x10008 with wait := w, word := 0x08800054 }
def stFetch (c : Ctx) : State := { st c (tlPg (pg .normal true true)) with mem := Memory.putBytes [] 0x20008 (leBytes 4 0x08800054) }

theorem wit_StepRunsDecodedWord :
    (let c := cxFetch .idle; let s := stFetch c; s.agenda = [] ∧ s.curCtx = some c ∧ c.halted = false ∧ c.isRoot = false ∧ c.wait = .idle ∧ c.pend = [] ∧ c.pc.toNat % 4 = 0
      ∧ c.pc.toNat < 2 ^ 57 ∧ tlbFind (s.tlbOf s.cur.toNat) c.asid c.pc = some (pg .normal true true) ∧ s.regionOf 0 = some (1, rg) ∧ rg.code = []
      ∧ ¬ (rg.codeVa.toNat ≤ c.pc.toNat ∧ c.pc.toNat + 4 ≤ rg.codeVa.toNat + rg.code.length) ∧ BitVec.ofNat 32 (s.mem.nat 0x20008 4) = 0x08800054 ∧ decode 0x08800054 = .ok (.addi 4 0 84) ∧ s.stalls 0 (.addi 4 0 84) = false)
    ∧ (let c := cxFetch .idle; let r : Region := { rg with codeVa := 0x10000, code := List.replicate 8 0 ++ leBytes 4 0x08800054 }; let s : State := { stFetch c with regions := [(1, r)] }
      s.regionOf 0 = some (1, r) ∧ r.codeVa.toNat ≤ c.pc.toNat ∧ c.pc.toNat + 4 ≤ r.codeVa.toNat + r.code.length
      ∧ BitVec.ofNat 32 (leNat ((r.code.drop (c.pc.toNat - r.codeVa.toNat)).take 4)) = 0x08800054)
    ∧ (let c := cxFetch .again; let s := stFetch c; s.curCtx = some c ∧ c.waits = true)
    ∧ (let c : Ctx := { cxFetch .idle with pend := [⟨0x20, 0, 0⟩] }; let s := stFetch c; s.curCtx = some c ∧ c.lvl = false ∧ c.ord = none ∧ c.pend ≠ [])
    ∧ (fieldsOf .scannerStep).op = 0 ∧ (fieldsOf (.addi 4 0 84)).op ≠ 0 ∧ (Instr.addi 4 0 84).wellFormed = true := by decide +kernel

/-- A region whose pc lies outside its code, as memory stood at the launch; a context in no region; and a root core with a request. -/
theorem wit_StepRunsDecodedWord_mem :
    (let c := cxFetch .idle; let r : Region := { rg with mem0 := (stFetch c).mem }; let s : State := { stFetch c with regions := [(1, r)], mem := [] }
      s.regionOf 0 = some (1, r) ∧ ¬ (r.codeVa.toNat ≤ c.pc.toNat ∧ c.pc.toNat + 4 ≤ r.codeVa.toNat + r.code.length) ∧ BitVec.ofNat 32 (Memory.nat r.mem0 0x20008 4) = 0x08800054)
    ∧ (let c := cxFetch .idle; let s : State := { stFetch c with regions := [] }; s.curCtx = some c ∧ s.regionOf 0 = none ∧ c.isRoot = false ∧ BitVec.ofNat 32 (s.mem.nat 0x20008 4) = 0x08800054)
    ∧ (let c : Ctx := { cxFetch .idle with isRoot := true, mem0 := (stFetch (cxFetch .idle)).mem, lvl := true }
      let s : State := { stFetch c with regions := [], roots := [(0, .fault (tok0 0x22 1 true))] }
      s.curCtx = some c ∧ s.regionOf 0 = none ∧ c.isRoot = true ∧ (SMap.get? s.roots (tileDie s.cur.toNat)).isSome = true ∧ tlbFind (s.tlbOf 0) 0 c.pc = some (pg .normal true true)
      ∧ BitVec.ofNat 32 (Memory.nat c.mem0 0x20008 4) = 0x08800054 ∧ s.stalls 0 (.addi 4 0 84) = false)
    ∧ (let c := cxFetch .redo; (stFetch c).curCtx = some c ∧ c.halted = false ∧ c.isRoot = false)
    ∧ (let s : State := { stFetch (cxFetch .idle) with agenda := [.word 0] }; s.agenda = .word 0 :: []) := by decide +kernel

/-- The machine right after reset is in the canonical form, and a step of it answers a next state. -/
theorem wit_StepKeepsMemory : Memory.wf State.reset.mem ∧ (match step (stFetch (cxFetch .idle)) with | .next _ => true | _ => false) = true := by decide +kernel

theorem wit_RegisterZero : (0 : Reg) = 0 ∧ (3 : Reg) ≠ 0 := by decide

end Sys2Proof.Tests
end

/-! Proofs of the scalar family (R89 to R93): the values that the operand functions of the model compute, each in the words of the spec's
tables, and the register and immediate forms as words that write such a value. -/

namespace Sys2Proof.Machine

open Sys2Proof

/-- A word whose meaning is `alu` with the value `f` writes `v`, where `f` computes `v` for every context. -/
theorem writes_of_alu_eq {i : Instr} {d : Reg} {f v : Ctx → W64} (hexec : ∀ s, exec i s = alu i d s f) (hval : ∀ c, f c = v c) :
    Writes i d v := by
  obtain rfl : f = v := funext hval
  exact writes_of_alu hexec

/-! ### Shift amounts and flags -/

@[simp] theorem shamt_eq_mod (x : W64) : shamt x = x.toNat % 64 := by
  simp [shamt, bits64]

@[simp] theorem flag_decide (p : Prop) [Decidable p] : flag (decide p) = if p then 1 else 0 := by
  simp [flag]

theorem flag_beq (x y : W64) : flag (x == y) = if x = y then 1 else 0 := by
  simp [flag]

theorem flag_bne (x y : W64) : flag (x != y) = if x = y then 0 else 1 := by
  simp [flag]

/-! ### Counts of bits -/

/-- Counting trailing zeros by halving finds the lowest set bit. -/
theorem ctzNat_eq_find? (n x : Nat) : ctzNat n x = ((List.range n).find? x.testBit).getD n := by
  induction n generalizing x with
  | zero => rfl
  | succ n ih =>
    have hshift : x.testBit ∘ Nat.succ = (x / 2).testBit := funext fun i => Nat.testBit_succ x i
    rw [ctzNat, ih, List.range_succ_eq_map, List.find?_cons, List.find?_map, hshift, Nat.testBit_zero]
    by_cases hodd : x % 2 = 1
    · simp [hodd]
    · cases h : (List.range n).find? (x / 2).testBit <;> simp [hodd, Nat.add_comm]

/-- Adding up the lowest bit while halving counts the set bits. -/
theorem popNat_eq_countP (n x : Nat) : popNat n x = (List.range n).countP x.testBit := by
  induction n generalizing x with
  | zero => rfl
  | succ n ih =>
    have hshift : x.testBit ∘ Nat.succ = (x / 2).testBit := funext fun i => Nat.testBit_succ x i
    rw [popNat, ih, List.range_succ_eq_map, List.countP_cons, List.countP_map, hshift, Nat.testBit_zero]
    rcases Nat.mod_two_eq_zero_or_one x with h | h <;> simp [h, Nat.add_comm]

/-! ### The divide family (R90) -/

/-- In the row of the most negative dividend over -1 the quotient 2^63 wraps to -2^63. -/
theorem divS_eq (x y : W64) : divS x y = if y = 0 then 0xFFFFFFFFFFFFFFFF
    else if x.toInt = -2 ^ 63 ∧ y.toInt = -1 then 0x8000000000000000 else BitVec.ofInt 64 (x.toInt.tdiv y.toInt) := by
  by_cases hover : x.toInt = -2 ^ 63 ∧ y.toInt = -1
  · rw [divS, if_pos hover]
    obtain ⟨hx, hy⟩ := hover
    rw [hx, hy]
    rfl
  · rw [divS, if_neg hover]

/-- A truncated remainder is the dividend less the divisor times the truncated quotient; in the overflow row it is 0. -/
theorem remS_eq (x y : W64) : remS x y = if y = 0 then x
    else if x.toInt = -2 ^ 63 ∧ y.toInt = -1 then 0 else BitVec.ofInt 64 (x.toInt - y.toInt * x.toInt.tdiv y.toInt) := by
  rw [remS, Int.tmod_def]
  by_cases hover : x.toInt = -2 ^ 63 ∧ y.toInt = -1
  · rw [if_pos hover]
    obtain ⟨hx, hy⟩ := hover
    rw [hx, hy]
    rfl
  · rw [if_neg hover]

theorem remU_eq (x y : W64) : remU x y = if y = 0 then x else BitVec.ofNat 64 (x.toNat - y.toNat * (x.toNat / y.toNat)) := by
  rw [remU, Nat.mod_eq_sub]

/-! ### Immediates -/

/-- Sign extension keeps the signed value (R33). -/
@[simp] theorem toInt_sextImm (i : BitVec 16) : (sextImm i).toInt = i.toInt :=
  BitVec.toInt_signExtend_of_le (by decide)

/-! ### The statements -/

/-- Settles O1: each form is `alu` with a value that the lemmas above bring to the form of the table of R89. -/
theorem scalarResults : Obligations.ScalarResults := by
  intro d a b n
  refine ⟨?add, ?sub, ?and, ?or, ?xor, ?andn, ?shl, ?shr, ?sra, ?rol, ?min, ?max, ?minn, ?maxn, ?seq, ?sne, ?slt, ?sltn, ?clz, ?ctz, ?popc,
    ?mul, ?mulh, ?mulhn, ?shli, ?shri, ?srai⟩
  case add | sub | and | or | xor | andn | clz | mul | mulh | mulhn | shli | shri | srai => exact writes_of_alu fun _ => rfl
  case shl | shr | sra | rol => exact writes_of_alu_eq (fun _ => rfl) fun _ => by rw [shamt_eq_mod]
  case min | max => exact writes_of_alu_eq (fun _ => rfl) fun _ => by simp only [BitVec.slt_iff_toInt_lt]
  case minn | maxn => exact writes_of_alu_eq (fun _ => rfl) fun _ => by simp only [BitVec.ult_iff_lt, BitVec.lt_def]
  case seq => exact writes_of_alu_eq (fun _ => rfl) fun _ => flag_beq _ _
  case sne => exact writes_of_alu_eq (fun _ => rfl) fun _ => flag_bne _ _
  case slt | sltn => exact writes_of_alu_eq (fun _ => rfl) fun _ => flag_decide _
  case ctz => exact writes_of_alu_eq (fun _ => rfl) fun _ => congrArg _ (ctzNat_eq_find? 64 _)
  case popc => exact writes_of_alu_eq (fun _ => rfl) fun _ => congrArg _ (popNat_eq_countP 64 _)

/-- Settles O2: the overflow row of R90 is what wrapping the truncated quotient and remainder gives. -/
theorem divideFamily : Obligations.DivideFamily := by
  intro d a b
  refine ⟨?div, ?rem, ?divn, ?remn⟩
  case div => exact writes_of_alu_eq (fun _ => rfl) fun _ => divS_eq _ _
  case rem => exact writes_of_alu_eq (fun _ => rfl) fun _ => remS_eq _ _
  case divn => exact writes_of_alu fun _ => rfl
  case remn => exact writes_of_alu_eq (fun _ => rfl) fun _ => remU_eq _ _

/-- Settles O3: SLTI compares with the sign-extended immediate, whose signed value is that of the field. -/
theorem immediateResults : Obligations.ImmediateResults := by
  intro d a i
  refine ⟨?addi, ?andi, ?ori, ?xori, ?slti, ?lui, ?addpc⟩
  case addi | andi | ori | xori | lui | addpc => exact writes_of_alu fun _ => rfl
  case slti => exact writes_of_alu_eq (fun _ => rfl) fun _ => by rw [BitVec.slt, flag_decide, toInt_sextImm]

end Sys2Proof.Machine
